-- ==== Sys2Proof/Word.lean ====
section
/-! DEFINITION. Word types of the ZC-384, total tables keyed by numbers, and lists with one entry per lane. -/
namespace Sys2Proof

/-- One byte of a memory (R4). -/
abbrev Byte := BitVec 8
/-- A lane value, an instruction word, a code offset. -/
abbrev Word := BitVec 32
/-- A control register, a far address, a system register. -/
abbrev DWord := BitVec 64
/-- A 6-bit register-field code (R77). -/
abbrev Reg := BitVec 6

/-- A table of entries keyed by numbers, plain data. -/
abbrev Map (α : Type) := List (Nat × α)

/-- The entry of a key, if any. -/
def Map.find {α : Type} : Map α → Nat → Option α
  | [], _ => none
  | (k, v) :: m, i => if k = i then some v else Map.find m i

/-- The entry of a key, or a default. -/
def Map.get {α : Type} (m : Map α) (i : Nat) (dflt : α) : α := (Map.find m i).getD dflt

/-- Sets the entry of a key, keeping keys in ascending order. -/
def Map.set {α : Type} : Map α → Nat → α → Map α
  | [], i, v => [(i, v)]
  | (k, w) :: m, i, v =>
    if i < k then (i, v) :: (k, w) :: m
    else if i = k then (i, v) :: m
    else (k, w) :: Map.set m i v

/-- Removes every entry of a key. -/
def Map.erase {α : Type} (m : Map α) (i : Nat) : Map α := m.filter (fun e => e.1 != i)

/-- `n` copies of one value. -/
def copies {α : Type} (n : Nat) (v : α) : List α := (List.range n).map (fun _ => v)

/-- Replaces the element at an index, where the index exists. -/
def setAt {α : Type} : List α → Nat → α → List α
  | [], _, _ => []
  | _ :: l, 0, v => v :: l
  | x :: l, n + 1, v => x :: setAt l n v

/-- Bit `i` of a mask. -/
def bitOf (m i : Nat) : Bool := m / 2 ^ i % 2 == 1

/-- The `n` low bytes of a number, low byte first (R4). -/
def bytesOf : Nat → Nat → List Byte
  | 0, _ => []
  | n + 1, v => BitVec.ofNat 8 v :: bytesOf n (v / 256)

/-- The number that bytes denote, low byte first (R4). -/
def ofBytes : List Byte → Nat
  | [] => 0
  | b :: l => b.toNat + 256 * ofBytes l

/-- The field of bits hi:lo of a number. -/
def bits (v hi lo : Nat) : Nat := v / 2 ^ lo % 2 ^ (hi + 1 - lo)

end Sys2Proof
end

