-- ==== Sys2Proof/Config.lean ====
section
/-! DEFINITION. Free values: constants without a body for what the spec leaves open. No proof can see what they are. -/
namespace Sys2Proof.Config

/-- The n-th undefined byte (R56, R107): contents of unsaved tiles and blocks, unused frame areas. -/
opaque freeByte : Nat → Byte
/-- The value of the ID register of the global page, for which R353 gives no value. -/
opaque idRegister : DWord
/-- An SPDM reply (R369), whose bytes the spec leaves to SPDM 1.3 and the device's keys: by request code, and the
n-th reply. -/
opaque spdmReply : Nat → Nat → List Byte

end Sys2Proof.Config
end

