-- ==== Sys2Proof/Syntax.lean ====
section
/-! DEFINITION. The abstract syntax: one constructor per row of spec/opcode_table.json, the encoded instructions first,
then the events (steps of the machine that have no encoding). Operand fields keep the table's letters. -/
namespace Sys2Proof

/-- Conditions of ICMP and ICMP64 (R82). -/
inductive Cnd | eq | ne | lt | le | gt | ge | ltn | len | gtn | gen
  deriving DecidableEq, Repr
/-- Conditions of FCMP and FCMP64 (R82). -/
inductive FCnd | eq | ne | lt | le | gt | ge | un | ord
  deriving DecidableEq, Repr
/-- How a comparison combines into its predicate (R75, R82). -/
inductive Cmb | set | and | or | xor | andNot | setNot
  deriving DecidableEq, Repr
/-- Access sizes 8 to 128 bits (R82). -/
inductive Sz | b8 | b16 | b32 | b64 | b128
  deriving DecidableEq, Repr
/-- Atomic operations (R82, R298). -/
inductive Aop | add | min | max | minn | maxn | and | or | xor | xchg | cas | fadd | fmin | fmax | load | store
  deriving DecidableEq, Repr
/-- Orderings of an atomic (R210). -/
inductive Ord | rlx | acq | rel | acqrel
  deriving DecidableEq, Repr
/-- Formats of CVT (R82). -/
inductive Fmt | i32 | n32 | i64 | n64 | f32 | f64 | f16 | bf16 | i16 | n16 | i8 | n8 | te8 | te4
  deriving DecidableEq, Repr
/-- Rounding modes (R82). -/
inductive Rnd | rne | rtz | rup | rdn | rto
  deriving DecidableEq, Repr
/-- Scopes of a boundary (R206, R302). -/
inductive Scope | team | die | package | domain | system
  deriving DecidableEq, Repr
/-- Kinds of PHASE (R302). -/
inductive Kind | full | rel | acq
  deriving DecidableEq, Repr
/-- Paths of DRAIN (R304). -/
inductive Path | scratch | near | far
  deriving DecidableEq, Repr

/-- A stream of a team: the control thread or a group (R25). -/
inductive Sel | ctl | grp (g : Nat)
  deriving DecidableEq, Repr
/-- A channel direction: package port, partition (32 names the management channel of R389), physical module,
and whether it runs from the package to the module (R223). -/
structure LinkId where
  port : Nat
  part : Nat
  pmod : Nat
  up : Bool
  deriving DecidableEq, Repr
/-- A package or a module as an end of the fabric (R226). -/
inductive End | pkg (p : Nat) | mod (m : Nat)
  deriving DecidableEq, Repr
/-- What a sender puts into its next chunk (R235, R388): the oldest waiting message, or the next bytes of a transfer. -/
inductive Choice | message | data (x : Nat)
  deriving DecidableEq, Repr
/-- What a page walk uses (R215): a cached translation, the tables as stored now, or at some table addresses an older value: as it
was so many writes to the module ago. -/
inductive Walk | cached | fresh | older (values : List (Nat × Nat))
  deriving DecidableEq, Repr
/-- A host access: a read of some bytes, or a write of bytes (R352). -/
inductive HostAccess | read (n : Nat) | write (b : List Byte)
  deriving DecidableEq, Repr
/-- The bit that a soft error flips: in a scratchpad row, an accumulator word, a near unit or a tile element
(R114, R117, R119, R260). -/
inductive ErrSite
  | scratch (t : Nat) (row : Nat) (bit : Nat)
  | acc (t : Nat) (word : Nat) (bit : Nat)
  | near (p : Nat) (unit : Nat) (bit : Nat)
  | tile (t : Nat) (k : Nat) (row : Nat) (col : Nat) (bit : Nat)
  deriving DecidableEq, Repr

/-- The instructions and events of the ZC-384, one constructor per row of the opcode table. -/
inductive Instr
  | nop
  | add (n : Bool) (d : Reg) (a : Reg) (b : Reg) (g : BitVec 5)
  | sub (n : Bool) (d : Reg) (a : Reg) (b : Reg) (g : BitVec 5)
  | mul (n : Bool) (d : Reg) (a : Reg) (b : Reg) (g : BitVec 5)
  | mulh (n : Bool) (d : Reg) (a : Reg) (b : Reg) (g : BitVec 5)
  | mulhu (n : Bool) (d : Reg) (a : Reg) (b : Reg) (g : BitVec 5)
  | mad (n : Bool) (d : Reg) (a : Reg) (b : Reg) (g : BitVec 5)
  | and (n : Bool) (d : Reg) (a : Reg) (b : Reg) (g : BitVec 5)
  | or (n : Bool) (d : Reg) (a : Reg) (b : Reg) (g : BitVec 5)
  | xor (n : Bool) (d : Reg) (a : Reg) (b : Reg) (g : BitVec 5)
  | andn (n : Bool) (d : Reg) (a : Reg) (b : Reg) (g : BitVec 5)
  | shl (n : Bool) (d : Reg) (a : Reg) (b : Reg) (g : BitVec 5)
  | shr (n : Bool) (d : Reg) (a : Reg) (b : Reg) (g : BitVec 5)
  | sar (n : Bool) (d : Reg) (a : Reg) (b : Reg) (g : BitVec 5)
  | min (n : Bool) (d : Reg) (a : Reg) (b : Reg) (g : BitVec 5)
  | max (n : Bool) (d : Reg) (a : Reg) (b : Reg) (g : BitVec 5)
  | minu (n : Bool) (d : Reg) (a : Reg) (b : Reg) (g : BitVec 5)
  | maxu (n : Bool) (d : Reg) (a : Reg) (b : Reg) (g : BitVec 5)
  | sel (n : Bool) (d : Reg) (a : Reg) (b : Reg) (g : BitVec 5)
  | mov (n : Bool) (d : Reg) (a : Reg) (g : BitVec 5)
  | add64 (n : Bool) (d : Reg) (a : Reg) (b : Reg) (g : BitVec 5)
  | sub64 (n : Bool) (d : Reg) (a : Reg) (b : Reg) (g : BitVec 5)
  | mul64 (n : Bool) (d : Reg) (a : Reg) (b : Reg) (g : BitVec 5)
  | shl64 (n : Bool) (d : Reg) (a : Reg) (b : Reg) (g : BitVec 5)
  | shr64 (n : Bool) (d : Reg) (a : Reg) (b : Reg) (g : BitVec 5)
  | sar64 (n : Bool) (d : Reg) (a : Reg) (b : Reg) (g : BitVec 5)
  | addi (n : Bool) (d : Reg) (a : Reg) (i : BitVec 11)
  | andi (n : Bool) (d : Reg) (a : Reg) (i : BitVec 11)
  | ori (n : Bool) (d : Reg) (a : Reg) (i : BitVec 11)
  | xori (n : Bool) (d : Reg) (a : Reg) (i : BitVec 11)
  | shli (n : Bool) (d : Reg) (a : Reg) (i : BitVec 11)
  | shri (n : Bool) (d : Reg) (a : Reg) (i : BitVec 11)
  | sari (n : Bool) (d : Reg) (a : Reg) (i : BitVec 11)
  | movi (n : Bool) (d : Reg) (i : BitVec 11)
  | popc (n : Bool) (d : Reg) (a : Reg)
  | clz (n : Bool) (d : Reg) (a : Reg)
  | ctz (n : Bool) (d : Reg) (a : Reg)
  | brev (n : Bool) (d : Reg) (a : Reg)
  | not (n : Bool) (d : Reg) (a : Reg)
  | neg (n : Bool) (d : Reg) (a : Reg)
  | abs (n : Bool) (d : Reg) (a : Reg)
  | sext8 (n : Bool) (d : Reg) (a : Reg)
  | sext16 (n : Bool) (d : Reg) (a : Reg)
  | zext8 (n : Bool) (d : Reg) (a : Reg)
  | zext16 (n : Bool) (d : Reg) (a : Reg)
  | bfx (n : Bool) (d : Reg) (a : Reg) (b : Reg)
  | bfxn (n : Bool) (d : Reg) (a : Reg) (b : Reg)
  | bfi (n : Bool) (d : Reg) (a : Reg) (b : Reg)
  | bmix (n : Bool) (d : Reg) (a : Reg) (b : Reg)
  | icmp (p : BitVec 5) (k : Cnd) (m : Cmb) (a : Reg) (b : Reg)
  | icmp64 (p : BitVec 5) (k : Cnd) (m : Cmb) (a : Reg) (b : Reg)
  | pand (d : Reg) (a : Reg) (b : Reg)
  | por (d : Reg) (a : Reg) (b : Reg)
  | pxor (d : Reg) (a : Reg) (b : Reg)
  | pandn (d : Reg) (a : Reg) (b : Reg)
  | pnot (d : Reg) (a : Reg)
  | pmov (d : Reg) (a : Reg)
  | ptov (n : Bool) (d : Reg)
  | vtop (a : Reg)
  | ballot (n : Bool) (d : Reg) (a : Reg)
  | pany (d : Reg) (a : Reg)
  | pall (d : Reg) (a : Reg)
  | shflIdx (n : Bool) (d : Reg) (a : Reg) (b : Reg)
  | shflUp (n : Bool) (d : Reg) (a : Reg) (b : Reg)
  | shflDn (n : Bool) (d : Reg) (a : Reg) (b : Reg)
  | shflXor (n : Bool) (d : Reg) (a : Reg) (b : Reg)
  | bcast (n : Bool) (d : Reg) (a : Reg)
  | lredAdd (n : Bool) (d : Reg) (a : Reg)
  | lredMin (n : Bool) (d : Reg) (a : Reg)
  | lredMax (n : Bool) (d : Reg) (a : Reg)
  | lredFadd (n : Bool) (d : Reg) (a : Reg)
  | lscanAdd (n : Bool) (d : Reg) (a : Reg)
  | fadd (n : Bool) (d : Reg) (a : Reg) (b : Reg) (g : BitVec 5)
  | fsub (n : Bool) (d : Reg) (a : Reg) (b : Reg) (g : BitVec 5)
  | fmul (n : Bool) (d : Reg) (a : Reg) (b : Reg) (g : BitVec 5)
  | ffma (n : Bool) (d : Reg) (a : Reg) (b : Reg) (g : BitVec 5)
  | fmin (n : Bool) (d : Reg) (a : Reg) (b : Reg) (g : BitVec 5)
  | fmax (n : Bool) (d : Reg) (a : Reg) (b : Reg) (g : BitVec 5)
  | fadd64 (n : Bool) (d : Reg) (a : Reg) (b : Reg) (g : BitVec 5)
  | fmul64 (n : Bool) (d : Reg) (a : Reg) (b : Reg) (g : BitVec 5)
  | ffma64 (n : Bool) (d : Reg) (a : Reg) (b : Reg) (g : BitVec 5)
  | hxadd (n : Bool) (d : Reg) (a : Reg) (b : Reg) (g : BitVec 5)
  | hxmul (n : Bool) (d : Reg) (a : Reg) (b : Reg) (g : BitVec 5)
  | hxfma (n : Bool) (d : Reg) (a : Reg) (b : Reg) (g : BitVec 5)
  | bxadd (n : Bool) (d : Reg) (a : Reg) (b : Reg) (g : BitVec 5)
  | bxmul (n : Bool) (d : Reg) (a : Reg) (b : Reg) (g : BitVec 5)
  | bxfma (n : Bool) (d : Reg) (a : Reg) (b : Reg) (g : BitVec 5)
  | fabs (n : Bool) (d : Reg) (a : Reg)
  | fneg (n : Bool) (d : Reg) (a : Reg)
  | frcp (n : Bool) (d : Reg) (a : Reg)
  | frsq (n : Bool) (d : Reg) (a : Reg)
  | fsqrt (n : Bool) (d : Reg) (a : Reg)
  | fexp2 (n : Bool) (d : Reg) (a : Reg)
  | flog2 (n : Bool) (d : Reg) (a : Reg)
  | fsinpi (n : Bool) (d : Reg) (a : Reg)
  | fcospi (n : Bool) (d : Reg) (a : Reg)
  | ffloor (n : Bool) (d : Reg) (a : Reg)
  | fceil (n : Bool) (d : Reg) (a : Reg)
  | ftrunc (n : Bool) (d : Reg) (a : Reg)
  | frint (n : Bool) (d : Reg) (a : Reg)
  | fclass (n : Bool) (d : Reg) (a : Reg)
  | fcmp (p : BitVec 5) (k : FCnd) (m : Cmb) (a : Reg) (b : Reg)
  | fcmp64 (p : BitVec 5) (k : FCnd) (m : Cmb) (a : Reg) (b : Reg)
  | cvt (s : Bool) (d : Reg) (a : Reg) (f : Fmt) (g : Fmt) (r : Rnd)
  | txcvPack (n : Bool) (d : Reg) (a : Reg) (b : Reg) (r : Rnd) (e : Bool)
  | txcvUnpack (n : Bool) (d : Reg) (a : Reg) (b : Reg) (r : Rnd) (e : Bool)
  | txexp (n : Bool) (d : Reg) (a : Reg) (r : Rnd) (e : Bool)
  | lds (x : Bool) (d : Reg) (a : Reg) (z : Sz) (o : BitVec 8)
  | sts (d : Reg) (a : Reg) (z : Sz) (o : BitVec 8)
  | ldn (x : Bool) (d : Reg) (a : Reg) (z : Sz) (o : BitVec 8)
  | stn (d : Reg) (a : Reg) (z : Sz) (o : BitVec 8)
  | ats (o : Aop) (d : Reg) (a : Reg) (b : Reg) (r : Ord)
  | atn (o : Aop) (d : Reg) (a : Reg) (b : Reg) (r : Ord)
  | atfp (o : Aop) (d : Reg) (a : Reg) (b : Reg) (r : Ord)
  | atfd (o : Aop) (d : Reg) (a : Reg) (b : Reg) (r : Ord)
  | atfs (o : Aop) (d : Reg) (a : Reg) (b : Reg) (r : Ord)
  | mmaBf16 (a : BitVec 10) (t : BitVec 4) (u : BitVec 4) (s : Bool)
  | mmaF16 (a : BitVec 10) (t : BitVec 4) (u : BitVec 4) (s : Bool)
  | mmaTe8 (a : BitVec 10) (t : BitVec 4) (u : BitVec 4) (v : BitVec 5) (s : Bool)
  | mmaTe4 (a : BitVec 10) (t : BitVec 4) (u : BitVec 4) (v : BitVec 5) (s : Bool)
  | mmaF32 (a : BitVec 10) (t : BitVec 4) (u : BitVec 4) (s : Bool)
  | tld (t : BitVec 4) (a : Reg) (b : Reg) (r : Bool)
  | tst (t : BitVec 4) (a : Reg) (b : Reg) (r : Bool)
  | phase (s : Scope) (k : Kind)
  | tfence (s : Bool) (m : BitVec 6)
  | drain (p : Path)
  | accz (a : BitVec 10) (t : BitVec 4)
  | accrd (a : BitVec 10) (t : BitVec 4) (r : Rnd) (s : Bool)
  | accwr (a : BitVec 10) (t : BitVec 4)
  | accadd (a : BitVec 10) (t : BitVec 4)
  | tzero (t : BitVec 4)
  | bra (g : BitVec 5) (o : BitVec 18)
  | call (g : BitVec 5) (o : BitVec 18)
  | brx (a : Reg) (g : BitVec 5)
  | ret (a : Reg) (g : BitVec 5)
  | exit (g : BitVec 5)
  | join (k : BitVec 4)
  | leave (k : BitVec 4)
  | waitm (k : BitVec 4)
  | maskopRead (n : Bool) (d : Reg) (b : Reg)
  | maskopWrite (a : Reg) (b : Reg)
  | maskopClear (b : Reg)
  | ppt
  | rvinit (a : Reg) (k : BitVec 5)
  | rvarrive (k : BitVec 5)
  | rvwait (s : Bool) (k : BitVec 5)
  | rvstat (d : Reg) (l : Bool)
  | qpush (a : Reg) (k : BitVec 2)
  | sigset (k : BitVec 4)
  | sigwait (w : Bool) (k : BitVec 4)
  | growReq (p : BitVec 6) (n : BitVec 6)
  | growRel (p : BitVec 6) (n : BitVec 6)
  | launch (a : Reg)
  | taskdec (k : BitVec 8)
  | yield
  | srr (d : Reg) (n : BitVec 12)
  | srw (a : Reg) (n : BitVec 12)
  | trap (i : BitVec 12)
  | brk (i : BitVec 12)
  | tret (x : Bool)
  | waitev (d : Reg) (a : Reg) (m : BitVec 4)
  | fetch (x : Reg) (y : Reg) (l : BitVec 5) (b : BitVec 4) (w : BitVec 3)
  | put (x : Reg) (y : Reg) (l : BitVec 5) (b : BitVec 4) (w : BitVec 3)
  | copyl (x : Reg) (y : Reg) (l : BitVec 5) (b : BitVec 4)
  | fetchr (x : Reg) (y : Reg) (l : BitVec 5) (b : BitVec 4) (w : BitVec 3)
  | engmGcreate (x : Reg) (y : Reg)
  | engmGready (x : Reg) (y : Reg)
  | engmGdestroy (y : Reg)
  | engmFill (x : Reg) (y : Reg) (l : BitVec 5)
  | engmCopyf (x : Reg) (y : Reg) (l : BitVec 5)
  | wincfg (x : Reg) (k : BitVec 2) (w : BitVec 3)
  | abinit (x : Reg) (y : Reg) (b : BitVec 4)
  | waita (p : BitVec 6) (b : BitVec 4)
  | waitt (x : Reg) (y : Reg) (t : BitVec 2)
  | specCheckpoint (t : Nat) (g : Nat)
  | specRollback (t : Nat) (g : Nat)
  | localAccessComplete (t : Nat) (q : Sel) (i : Nat) (row : Nat)
  | storePublish (t : Nat) (q : Sel) (i : Nat) (s : Scope)
  | viewAdvance (t : Nat) (q : Sel) (a : Nat) (pos : Nat)
  | farAtomicRequest (m : Nat) (i : Nat) (w : Walk)
  | farAtomicReply (p : Nat) (i : Nat)
  | reservationRelease (i : Nat)
  | matrixEntryExecute (c : Nat)
  | growGrant (c : Nat)
  | growUrgent (c : Nat)
  | notifyTailWrite (p : Nat) (f : Nat) (j : Nat) (v : Word)
  | notifyLevelWrite (p : Nat) (f : Nat) (j : Nat) (v : Word)
  | completionHeadWrite (p : Nat) (f : Nat) (j : Nat) (v : Word)
  | qiPacketFetch (p : Nat) (q : Nat)
  | gridDispatch (p : Nat) (n : Nat)
  | teamPlacement (p : Nat) (n : Nat)
  | teamRestore (p : Nat) (n : Nat)
  | teamRetire (t : Nat)
  | gridRetire (k : Nat)
  | mailboxReplicate (m : Nat)
  | spanCopyReceive (p : Nat)
  | spanAck (m : Nat)
  | spanRefuse (m : Nat)
  | spanGo (p : Nat)
  | mailboxTimeout (m : Nat) (g : Nat)
  | spanAbort (p : Nat)
  | spanRetired (atModule : Bool) (i : Nat)
  | urgentPreempt (t : Nat)
  | teamSave (t : Nat)
  | cooperativePreempt (t : Nat)
  | pptTimeout (t : Nat)
  | sliceExpiry (p : Nat) (n : Nat)
  | faultSave (t : Nat)
  | moduleReadRequest (m : Nat) (i : Nat) (w : Walk)
  | chunkSend (l : LinkId) (c : Choice)
  | chunkReceive (l : LinkId) (i : Nat) (w : Walk)
  | rtsArrival (e : End) (i : Nat)
  | rtsRetry (x : Nat)
  | tokenIssue (e : End)
  | tokenExpiry (e : End) (x : Nat) (k : Nat)
  | expiryNoticeReceive (e : End) (i : Nat)
  | frozenTimeout (e : End) (x : Nat)
  | deferredReceive (e : End) (i : Nat)
  | purgeComplete (e : End) (x : Nat)
  | contextRevokeMessage (m : Nat) (i : Nat)
  | contextEnableMessage (m : Nat) (i : Nat)
  | ackFlitReceive (l : LinkId) (i : Nat)
  | ackFlitSend (l : LinkId)
  | nakSend (l : LinkId)
  | replayTimeout (l : LinkId)
  | wavelengthFail (p : Nat) (m : Nat) (up : Bool) (planes : List Nat)
  | laneSubst (p : Nat) (m : Nat) (up : Bool) (plane : Nat)
  | spareLockTimeout (p : Nat) (m : Nat) (up : Bool) (plane : Nat)
  | spareLockFail (p : Nat) (m : Nat) (up : Bool) (plane : Nat)
  | resumeComplete (l : LinkId)
  | retrain (l : LinkId) (sw : Bool)
  | retrainEnd (l : LinkId) (dead : List Nat)
  | laserAgeTick (atModule : Bool) (i : Nat) (plane : Nat) (laser : Nat) (drift : Int)
  | bucketRefill (m : Nat)
  | groupTimeout (m : Nat) (g : Nat)
  | fenceComplete (i : Nat)
  | tfencectlModule (p : Nat) (n : Nat) (lm : Nat)
  | tfencectlDomain (p : Nat) (n : Nat)
  | replayControlReplay (p : Nat) (n : Nat) (i : Nat) (w : Walk)
  | replayControlFail (p : Nat) (n : Nat) (i : Nat)
  | faultRecordWrite (p : Nat) (n : Nat)
  | faultQueueHeadWrite (p : Nat) (n : Nat) (v : Word)
  | eventRingHeadWrite (p : Nat) (n : Nat) (v : Word)
  | qicfgWrite (p : Nat) (q : Nat) (v : Word)
  | pasidRevoke (p : Nat) (i : Nat)
  | pasidEnable (p : Nat) (i : Nat) (v : DWord)
  | pasidBusyClear (p : Nat) (i : Nat)
  | vfRun (p : Nat) (v : Nat)
  | vfPause (p : Nat) (v : Nat)
  | vfDeschedule (p : Nat) (v : Nat)
  | vfDrain (p : Nat) (v : Nat)
  | flr (p : Nat) (v : Nat)
  | vfTeardownComplete (p : Nat) (v : Nat)
  | counterLoad (p : Nat) (n : Nat) (c : Nat) (v : Word)
  | nearMapWrite (p : Nat) (n : Nat) (save : Bool) (i : Nat) (v : DWord) (fw : Bool)
  | remapWrite (p : Nat) (k : Nat) (v : List Byte) (fw : Bool)
  | channelAllocWrite (p : Nat) (m : Nat) (plane : Nat) (v : BitVec 16)
  | preemptUrgent (p : Nat) (n : Nat) (core : Nat) (slot : Nat)
  | preemptCooperative (p : Nat) (n : Nat) (core : Nat) (slot : Nat)
  | chanctlRecommission (p : Nat) (n : Nat) (m : Nat)
  | recommissionComplete (p : Nat) (dead : List Nat)
  | hostNearAccess (p : Nat) (a : Nat) (x : HostAccess)
  | hostFarAccess (p : Nat) (k : Nat) (o : Nat) (x : HostAccess) (w : Walk)
  | mgmtApertureAccess (p : Nat) (m : Nat) (o : Nat) (x : HostAccess) (fw : Bool)
  | garnetSnapshot (p : Nat) (n : Nat)
  | garnetReset (p : Nat) (n : Nat) (mask : BitVec 256) (fw : Bool)
  | getVersion (p : Nat)
  | getCapabilities (p : Nat)
  | negotiateAlgorithms (p : Nat)
  | getDigests (p : Nat)
  | getCertificate (p : Nat)
  | challenge (p : Nat)
  | getMeasurements (p : Nat) (i : Nat)
  | powerArbiterTick (p : Nat) (clocks : List Nat)
  | powerGood (p : Nat)
  | registerWrite (p : Nat) (o : Nat) (v : DWord) (fw : Bool)
  | waitevTimeout (t : Nat)
  | localPiecePerformed (x : Nat)
  | moduleEngineCommand (m : Nat) (i : Nat) (w : Walk)
  | moduleEngineCompletion (p : Nat) (i : Nat)
  | codeFetch (k : Nat) (c : Nat) (line : Nat) (w : Walk)
  | softError (x : ErrSite)
  deriving DecidableEq, Repr

end Sys2Proof
end

