-- ==== Sys2Proof/Decode.lean ====
section
/-! DEFINITION. The decoder of slot words (R62 to R64, R74, R76, R81 to R83), the encoder, and what the opcode map says of
each instruction: its pipe, its streams, its register fields that may name the literal. -/
namespace Sys2Proof

/-- The fate of a slot word at decode (R83): an instruction, or one of two traps. -/
inductive Decoded
  | ok (i : Instr)
  | illegalOpcode
  | illegalOperand
  deriving DecidableEq, Repr

/-- The field of `n` bits from bit `lo` upward. -/
def fld (w lo n : Nat) : Nat := w / 2 ^ lo % 2 ^ n
/-- A one-bit field. -/
def flag1 (w lo : Nat) : Bool := fld w lo 1 == 1
/-- A field as a bit vector. -/
def fieldV (w lo n : Nat) : BitVec n := BitVec.ofNat n (fld w lo n)
/-- Continues when a field is zero; otherwise the word has a must-be-zero violation (R76). -/
def zeroField (w lo n : Nat) (k : Decoded) : Decoded := if fld w lo n = 0 then k else .illegalOperand
/-- Continues with the name of a code; a reserved code has the given fate. -/
def named {α : Type} (o : Option α) (bad : Decoded) (k : α → Decoded) : Decoded :=
  match o with
  | some v => k v
  | none => bad

/-- Codes of the ICMP conditions (R82). -/
def cndOf : Nat → Option Cnd
  | 0 => some .eq
  | 1 => some .ne
  | 2 => some .lt
  | 3 => some .le
  | 4 => some .gt
  | 5 => some .ge
  | 6 => some .ltn
  | 7 => some .len
  | 8 => some .gtn
  | 9 => some .gen
  | _ => none
/-- The code of a name. -/
def Cnd.code : Cnd → Nat
  | .eq => 0
  | .ne => 1
  | .lt => 2
  | .le => 3
  | .gt => 4
  | .ge => 5
  | .ltn => 6
  | .len => 7
  | .gtn => 8
  | .gen => 9
/-- Codes of the FCMP conditions (R82). -/
def fcndOf : Nat → Option FCnd
  | 0 => some .eq
  | 1 => some .ne
  | 2 => some .lt
  | 3 => some .le
  | 4 => some .gt
  | 5 => some .ge
  | 6 => some .un
  | 7 => some .ord
  | _ => none
/-- The code of a name. -/
def FCnd.code : FCnd → Nat
  | .eq => 0
  | .ne => 1
  | .lt => 2
  | .le => 3
  | .gt => 4
  | .ge => 5
  | .un => 6
  | .ord => 7
/-- Codes of CMB (R82). -/
def cmbOf : Nat → Option Cmb
  | 0 => some .set
  | 1 => some .and
  | 2 => some .or
  | 3 => some .xor
  | 4 => some .andNot
  | 5 => some .setNot
  | _ => none
/-- The code of a name. -/
def Cmb.code : Cmb → Nat
  | .set => 0
  | .and => 1
  | .or => 2
  | .xor => 3
  | .andNot => 4
  | .setNot => 5
/-- Codes of SZ (R82). -/
def szOf : Nat → Option Sz
  | 0 => some .b8
  | 1 => some .b16
  | 2 => some .b32
  | 3 => some .b64
  | 4 => some .b128
  | _ => none
/-- The code of a name. -/
def Sz.code : Sz → Nat
  | .b8 => 0
  | .b16 => 1
  | .b32 => 2
  | .b64 => 3
  | .b128 => 4
/-- Codes of AOP (R82). -/
def aopOf : Nat → Option Aop
  | 0 => some .add
  | 1 => some .min
  | 2 => some .max
  | 3 => some .minn
  | 4 => some .maxn
  | 5 => some .and
  | 6 => some .or
  | 7 => some .xor
  | 8 => some .xchg
  | 9 => some .cas
  | 10 => some .fadd
  | 11 => some .fmin
  | 12 => some .fmax
  | 13 => some .load
  | 14 => some .store
  | _ => none
/-- The code of a name. -/
def Aop.code : Aop → Nat
  | .add => 0
  | .min => 1
  | .max => 2
  | .minn => 3
  | .maxn => 4
  | .and => 5
  | .or => 6
  | .xor => 7
  | .xchg => 8
  | .cas => 9
  | .fadd => 10
  | .fmin => 11
  | .fmax => 12
  | .load => 13
  | .store => 14
/-- Codes of ORD (R210). -/
def ordOf : Nat → Option Ord
  | 0 => some .rlx
  | 1 => some .acq
  | 2 => some .rel
  | 3 => some .acqrel
  | _ => none
/-- The code of a name. -/
def Ord.code : Ord → Nat
  | .rlx => 0
  | .acq => 1
  | .rel => 2
  | .acqrel => 3
/-- Codes of DF and SF (R82). -/
def fmtOf : Nat → Option Fmt
  | 0 => some .i32
  | 1 => some .n32
  | 2 => some .i64
  | 3 => some .n64
  | 4 => some .f32
  | 5 => some .f64
  | 6 => some .f16
  | 7 => some .bf16
  | 8 => some .i16
  | 9 => some .n16
  | 10 => some .i8
  | 11 => some .n8
  | 12 => some .te8
  | 13 => some .te4
  | _ => none
/-- The code of a name. -/
def Fmt.code : Fmt → Nat
  | .i32 => 0
  | .n32 => 1
  | .i64 => 2
  | .n64 => 3
  | .f32 => 4
  | .f64 => 5
  | .f16 => 6
  | .bf16 => 7
  | .i16 => 8
  | .n16 => 9
  | .i8 => 10
  | .n8 => 11
  | .te8 => 12
  | .te4 => 13
/-- Codes of RND (R82). -/
def rndOf : Nat → Option Rnd
  | 0 => some .rne
  | 1 => some .rtz
  | 2 => some .rup
  | 3 => some .rdn
  | 4 => some .rto
  | _ => none
/-- The code of a name. -/
def Rnd.code : Rnd → Nat
  | .rne => 0
  | .rtz => 1
  | .rup => 2
  | .rdn => 3
  | .rto => 4
/-- Codes of SCOPE (R302). -/
def scopeOf : Nat → Option Scope
  | 0 => some .team
  | 1 => some .die
  | 2 => some .package
  | 3 => some .domain
  | 4 => some .system
  | _ => none
/-- The code of a name. -/
def Scope.code : Scope → Nat
  | .team => 0
  | .die => 1
  | .package => 2
  | .domain => 3
  | .system => 4
/-- Codes of KIND (R302). -/
def kindOf : Nat → Option Kind
  | 0 => some .full
  | 1 => some .rel
  | 2 => some .acq
  | _ => none
/-- The code of a name. -/
def Kind.code : Kind → Nat
  | .full => 0
  | .rel => 1
  | .acq => 2
/-- Codes of PATH (R304). -/
def pathOf : Nat → Option Path
  | 0 => some .scratch
  | 1 => some .near
  | 2 => some .far
  | _ => none
/-- The code of a name. -/
def Path.code : Path → Nat
  | .scratch => 0
  | .near => 1
  | .far => 2

/-- Majors 0x00 to 0x13 of the opcode map (R81, R82). -/
def decode00to13 (m w : Nat) : Decoded :=
  if m = 0x00 then zeroField w 0 24 <| .ok .nop
  else if m = 0x01 then .ok (.add (flag1 w 23) (fieldV w 17 6) (fieldV w 11 6) (fieldV w 5 6) (fieldV w 0 5))
  else if m = 0x02 then .ok (.sub (flag1 w 23) (fieldV w 17 6) (fieldV w 11 6) (fieldV w 5 6) (fieldV w 0 5))
  else if m = 0x03 then .ok (.mul (flag1 w 23) (fieldV w 17 6) (fieldV w 11 6) (fieldV w 5 6) (fieldV w 0 5))
  else if m = 0x04 then .ok (.mulh (flag1 w 23) (fieldV w 17 6) (fieldV w 11 6) (fieldV w 5 6) (fieldV w 0 5))
  else if m = 0x05 then .ok (.mulhu (flag1 w 23) (fieldV w 17 6) (fieldV w 11 6) (fieldV w 5 6) (fieldV w 0 5))
  else if m = 0x06 then .ok (.mad (flag1 w 23) (fieldV w 17 6) (fieldV w 11 6) (fieldV w 5 6) (fieldV w 0 5))
  else if m = 0x07 then .ok (.and (flag1 w 23) (fieldV w 17 6) (fieldV w 11 6) (fieldV w 5 6) (fieldV w 0 5))
  else if m = 0x08 then .ok (.or (flag1 w 23) (fieldV w 17 6) (fieldV w 11 6) (fieldV w 5 6) (fieldV w 0 5))
  else if m = 0x09 then .ok (.xor (flag1 w 23) (fieldV w 17 6) (fieldV w 11 6) (fieldV w 5 6) (fieldV w 0 5))
  else if m = 0x0A then .ok (.andn (flag1 w 23) (fieldV w 17 6) (fieldV w 11 6) (fieldV w 5 6) (fieldV w 0 5))
  else if m = 0x0B then .ok (.shl (flag1 w 23) (fieldV w 17 6) (fieldV w 11 6) (fieldV w 5 6) (fieldV w 0 5))
  else if m = 0x0C then .ok (.shr (flag1 w 23) (fieldV w 17 6) (fieldV w 11 6) (fieldV w 5 6) (fieldV w 0 5))
  else if m = 0x0D then .ok (.sar (flag1 w 23) (fieldV w 17 6) (fieldV w 11 6) (fieldV w 5 6) (fieldV w 0 5))
  else if m = 0x0E then .ok (.min (flag1 w 23) (fieldV w 17 6) (fieldV w 11 6) (fieldV w 5 6) (fieldV w 0 5))
  else if m = 0x0F then .ok (.max (flag1 w 23) (fieldV w 17 6) (fieldV w 11 6) (fieldV w 5 6) (fieldV w 0 5))
  else if m = 0x10 then .ok (.minu (flag1 w 23) (fieldV w 17 6) (fieldV w 11 6) (fieldV w 5 6) (fieldV w 0 5))
  else if m = 0x11 then .ok (.maxu (flag1 w 23) (fieldV w 17 6) (fieldV w 11 6) (fieldV w 5 6) (fieldV w 0 5))
  else if m = 0x12 then .ok (.sel (flag1 w 23) (fieldV w 17 6) (fieldV w 11 6) (fieldV w 5 6) (fieldV w 0 5))
  else if m = 0x13 then zeroField w 5 6 <| .ok (.mov (flag1 w 23) (fieldV w 17 6) (fieldV w 11 6) (fieldV w 0 5))
  else .illegalOpcode

/-- Majors 0x14 to 0x21 of the opcode map (R81, R82). -/
def decode14to21 (m w : Nat) : Decoded :=
  if m = 0x14 then .ok (.add64 (flag1 w 23) (fieldV w 17 6) (fieldV w 11 6) (fieldV w 5 6) (fieldV w 0 5))
  else if m = 0x15 then .ok (.sub64 (flag1 w 23) (fieldV w 17 6) (fieldV w 11 6) (fieldV w 5 6) (fieldV w 0 5))
  else if m = 0x16 then .ok (.mul64 (flag1 w 23) (fieldV w 17 6) (fieldV w 11 6) (fieldV w 5 6) (fieldV w 0 5))
  else if m = 0x17 then .ok (.shl64 (flag1 w 23) (fieldV w 17 6) (fieldV w 11 6) (fieldV w 5 6) (fieldV w 0 5))
  else if m = 0x18 then .ok (.shr64 (flag1 w 23) (fieldV w 17 6) (fieldV w 11 6) (fieldV w 5 6) (fieldV w 0 5))
  else if m = 0x19 then .ok (.sar64 (flag1 w 23) (fieldV w 17 6) (fieldV w 11 6) (fieldV w 5 6) (fieldV w 0 5))
  else if m = 0x1A then .ok (.addi (flag1 w 23) (fieldV w 17 6) (fieldV w 11 6) (fieldV w 0 11))
  else if m = 0x1B then .ok (.andi (flag1 w 23) (fieldV w 17 6) (fieldV w 11 6) (fieldV w 0 11))
  else if m = 0x1C then .ok (.ori (flag1 w 23) (fieldV w 17 6) (fieldV w 11 6) (fieldV w 0 11))
  else if m = 0x1D then .ok (.xori (flag1 w 23) (fieldV w 17 6) (fieldV w 11 6) (fieldV w 0 11))
  else if m = 0x1E then .ok (.shli (flag1 w 23) (fieldV w 17 6) (fieldV w 11 6) (fieldV w 0 11))
  else if m = 0x1F then .ok (.shri (flag1 w 23) (fieldV w 17 6) (fieldV w 11 6) (fieldV w 0 11))
  else if m = 0x20 then .ok (.sari (flag1 w 23) (fieldV w 17 6) (fieldV w 11 6) (fieldV w 0 11))
  else if m = 0x21 then zeroField w 11 6 <| .ok (.movi (flag1 w 23) (fieldV w 17 6) (fieldV w 0 11))
  else .illegalOpcode

/-- Majors 0x22 to 0x27 of the opcode map (R81, R82). -/
def decode22to27 (m w : Nat) : Decoded :=
  if m = 0x22 then
    if fld w 0 5 = 0 then zeroField w 5 6 <| .ok (.popc (flag1 w 23) (fieldV w 17 6) (fieldV w 11 6))
    else if fld w 0 5 = 1 then zeroField w 5 6 <| .ok (.clz (flag1 w 23) (fieldV w 17 6) (fieldV w 11 6))
    else if fld w 0 5 = 2 then zeroField w 5 6 <| .ok (.ctz (flag1 w 23) (fieldV w 17 6) (fieldV w 11 6))
    else if fld w 0 5 = 3 then zeroField w 5 6 <| .ok (.brev (flag1 w 23) (fieldV w 17 6) (fieldV w 11 6))
    else if fld w 0 5 = 4 then zeroField w 5 6 <| .ok (.not (flag1 w 23) (fieldV w 17 6) (fieldV w 11 6))
    else if fld w 0 5 = 5 then zeroField w 5 6 <| .ok (.neg (flag1 w 23) (fieldV w 17 6) (fieldV w 11 6))
    else if fld w 0 5 = 6 then zeroField w 5 6 <| .ok (.abs (flag1 w 23) (fieldV w 17 6) (fieldV w 11 6))
    else if fld w 0 5 = 7 then zeroField w 5 6 <| .ok (.sext8 (flag1 w 23) (fieldV w 17 6) (fieldV w 11 6))
    else if fld w 0 5 = 8 then zeroField w 5 6 <| .ok (.sext16 (flag1 w 23) (fieldV w 17 6) (fieldV w 11 6))
    else if fld w 0 5 = 9 then zeroField w 5 6 <| .ok (.zext8 (flag1 w 23) (fieldV w 17 6) (fieldV w 11 6))
    else if fld w 0 5 = 10 then zeroField w 5 6 <| .ok (.zext16 (flag1 w 23) (fieldV w 17 6) (fieldV w 11 6))
    else .illegalOpcode
  else if m = 0x23 then
    if fld w 0 5 = 0 then .ok (.bfx (flag1 w 23) (fieldV w 17 6) (fieldV w 11 6) (fieldV w 5 6))
    else if fld w 0 5 = 1 then .ok (.bfxn (flag1 w 23) (fieldV w 17 6) (fieldV w 11 6) (fieldV w 5 6))
    else if fld w 0 5 = 2 then .ok (.bfi (flag1 w 23) (fieldV w 17 6) (fieldV w 11 6) (fieldV w 5 6))
    else if fld w 0 5 = 3 then .ok (.bmix (flag1 w 23) (fieldV w 17 6) (fieldV w 11 6) (fieldV w 5 6))
    else .illegalOpcode
  else if m = 0x24 then named (cndOf (fld w 15 4)) .illegalOpcode fun k' => named (cmbOf (fld w 12 3)) .illegalOpcode fun m' => .ok (.icmp (fieldV w 19 5) k' m' (fieldV w 6 6) (fieldV w 0 6))
  else if m = 0x25 then named (cndOf (fld w 15 4)) .illegalOpcode fun k' => named (cmbOf (fld w 12 3)) .illegalOpcode fun m' => .ok (.icmp64 (fieldV w 19 5) k' m' (fieldV w 6 6) (fieldV w 0 6))
  else if m = 0x26 then
    if fld w 0 5 = 0 then zeroField w 23 1 <| .ok (.pand (fieldV w 17 6) (fieldV w 11 6) (fieldV w 5 6))
    else if fld w 0 5 = 1 then zeroField w 23 1 <| .ok (.por (fieldV w 17 6) (fieldV w 11 6) (fieldV w 5 6))
    else if fld w 0 5 = 2 then zeroField w 23 1 <| .ok (.pxor (fieldV w 17 6) (fieldV w 11 6) (fieldV w 5 6))
    else if fld w 0 5 = 3 then zeroField w 23 1 <| .ok (.pandn (fieldV w 17 6) (fieldV w 11 6) (fieldV w 5 6))
    else if fld w 0 5 = 4 then zeroField w 5 6 <| zeroField w 23 1 <| .ok (.pnot (fieldV w 17 6) (fieldV w 11 6))
    else if fld w 0 5 = 5 then zeroField w 5 6 <| zeroField w 23 1 <| .ok (.pmov (fieldV w 17 6) (fieldV w 11 6))
    else if fld w 0 5 = 6 then zeroField w 5 12 <| .ok (.ptov (flag1 w 23) (fieldV w 17 6))
    else if fld w 0 5 = 7 then zeroField w 5 6 <| zeroField w 17 7 <| .ok (.vtop (fieldV w 11 6))
    else if fld w 0 5 = 8 then zeroField w 5 6 <| .ok (.ballot (flag1 w 23) (fieldV w 17 6) (fieldV w 11 6))
    else if fld w 0 5 = 9 then zeroField w 5 6 <| zeroField w 23 1 <| .ok (.pany (fieldV w 17 6) (fieldV w 11 6))
    else if fld w 0 5 = 10 then zeroField w 5 6 <| zeroField w 23 1 <| .ok (.pall (fieldV w 17 6) (fieldV w 11 6))
    else .illegalOpcode
  else if m = 0x27 then
    if fld w 0 5 = 0 then .ok (.shflIdx (flag1 w 23) (fieldV w 17 6) (fieldV w 11 6) (fieldV w 5 6))
    else if fld w 0 5 = 1 then .ok (.shflUp (flag1 w 23) (fieldV w 17 6) (fieldV w 11 6) (fieldV w 5 6))
    else if fld w 0 5 = 2 then .ok (.shflDn (flag1 w 23) (fieldV w 17 6) (fieldV w 11 6) (fieldV w 5 6))
    else if fld w 0 5 = 3 then .ok (.shflXor (flag1 w 23) (fieldV w 17 6) (fieldV w 11 6) (fieldV w 5 6))
    else if fld w 0 5 = 4 then zeroField w 5 6 <| .ok (.bcast (flag1 w 23) (fieldV w 17 6) (fieldV w 11 6))
    else if fld w 0 5 = 5 then zeroField w 5 6 <| .ok (.lredAdd (flag1 w 23) (fieldV w 17 6) (fieldV w 11 6))
    else if fld w 0 5 = 6 then zeroField w 5 6 <| .ok (.lredMin (flag1 w 23) (fieldV w 17 6) (fieldV w 11 6))
    else if fld w 0 5 = 7 then zeroField w 5 6 <| .ok (.lredMax (flag1 w 23) (fieldV w 17 6) (fieldV w 11 6))
    else if fld w 0 5 = 8 then zeroField w 5 6 <| .ok (.lredFadd (flag1 w 23) (fieldV w 17 6) (fieldV w 11 6))
    else if fld w 0 5 = 9 then zeroField w 5 6 <| .ok (.lscanAdd (flag1 w 23) (fieldV w 17 6) (fieldV w 11 6))
    else .illegalOpcode
  else .illegalOpcode

/-- Majors 0x28 to 0x3C of the opcode map (R81, R82). -/
def decode28to3C (m w : Nat) : Decoded :=
  if m = 0x28 then .ok (.fadd (flag1 w 23) (fieldV w 17 6) (fieldV w 11 6) (fieldV w 5 6) (fieldV w 0 5))
  else if m = 0x29 then .ok (.fsub (flag1 w 23) (fieldV w 17 6) (fieldV w 11 6) (fieldV w 5 6) (fieldV w 0 5))
  else if m = 0x2A then .ok (.fmul (flag1 w 23) (fieldV w 17 6) (fieldV w 11 6) (fieldV w 5 6) (fieldV w 0 5))
  else if m = 0x2B then .ok (.ffma (flag1 w 23) (fieldV w 17 6) (fieldV w 11 6) (fieldV w 5 6) (fieldV w 0 5))
  else if m = 0x2C then .ok (.fmin (flag1 w 23) (fieldV w 17 6) (fieldV w 11 6) (fieldV w 5 6) (fieldV w 0 5))
  else if m = 0x2D then .ok (.fmax (flag1 w 23) (fieldV w 17 6) (fieldV w 11 6) (fieldV w 5 6) (fieldV w 0 5))
  else if m = 0x2E then .ok (.fadd64 (flag1 w 23) (fieldV w 17 6) (fieldV w 11 6) (fieldV w 5 6) (fieldV w 0 5))
  else if m = 0x2F then .ok (.fmul64 (flag1 w 23) (fieldV w 17 6) (fieldV w 11 6) (fieldV w 5 6) (fieldV w 0 5))
  else if m = 0x30 then .ok (.ffma64 (flag1 w 23) (fieldV w 17 6) (fieldV w 11 6) (fieldV w 5 6) (fieldV w 0 5))
  else if m = 0x31 then .ok (.hxadd (flag1 w 23) (fieldV w 17 6) (fieldV w 11 6) (fieldV w 5 6) (fieldV w 0 5))
  else if m = 0x32 then .ok (.hxmul (flag1 w 23) (fieldV w 17 6) (fieldV w 11 6) (fieldV w 5 6) (fieldV w 0 5))
  else if m = 0x33 then .ok (.hxfma (flag1 w 23) (fieldV w 17 6) (fieldV w 11 6) (fieldV w 5 6) (fieldV w 0 5))
  else if m = 0x34 then .ok (.bxadd (flag1 w 23) (fieldV w 17 6) (fieldV w 11 6) (fieldV w 5 6) (fieldV w 0 5))
  else if m = 0x35 then .ok (.bxmul (flag1 w 23) (fieldV w 17 6) (fieldV w 11 6) (fieldV w 5 6) (fieldV w 0 5))
  else if m = 0x36 then .ok (.bxfma (flag1 w 23) (fieldV w 17 6) (fieldV w 11 6) (fieldV w 5 6) (fieldV w 0 5))
  else if m = 0x37 then
    if fld w 0 5 = 0 then zeroField w 5 6 <| .ok (.fabs (flag1 w 23) (fieldV w 17 6) (fieldV w 11 6))
    else if fld w 0 5 = 1 then zeroField w 5 6 <| .ok (.fneg (flag1 w 23) (fieldV w 17 6) (fieldV w 11 6))
    else if fld w 0 5 = 2 then zeroField w 5 6 <| .ok (.frcp (flag1 w 23) (fieldV w 17 6) (fieldV w 11 6))
    else if fld w 0 5 = 3 then zeroField w 5 6 <| .ok (.frsq (flag1 w 23) (fieldV w 17 6) (fieldV w 11 6))
    else if fld w 0 5 = 4 then zeroField w 5 6 <| .ok (.fsqrt (flag1 w 23) (fieldV w 17 6) (fieldV w 11 6))
    else if fld w 0 5 = 5 then zeroField w 5 6 <| .ok (.fexp2 (flag1 w 23) (fieldV w 17 6) (fieldV w 11 6))
    else if fld w 0 5 = 6 then zeroField w 5 6 <| .ok (.flog2 (flag1 w 23) (fieldV w 17 6) (fieldV w 11 6))
    else if fld w 0 5 = 7 then zeroField w 5 6 <| .ok (.fsinpi (flag1 w 23) (fieldV w 17 6) (fieldV w 11 6))
    else if fld w 0 5 = 8 then zeroField w 5 6 <| .ok (.fcospi (flag1 w 23) (fieldV w 17 6) (fieldV w 11 6))
    else if fld w 0 5 = 9 then zeroField w 5 6 <| .ok (.ffloor (flag1 w 23) (fieldV w 17 6) (fieldV w 11 6))
    else if fld w 0 5 = 10 then zeroField w 5 6 <| .ok (.fceil (flag1 w 23) (fieldV w 17 6) (fieldV w 11 6))
    else if fld w 0 5 = 11 then zeroField w 5 6 <| .ok (.ftrunc (flag1 w 23) (fieldV w 17 6) (fieldV w 11 6))
    else if fld w 0 5 = 12 then zeroField w 5 6 <| .ok (.frint (flag1 w 23) (fieldV w 17 6) (fieldV w 11 6))
    else if fld w 0 5 = 13 then zeroField w 5 6 <| .ok (.fclass (flag1 w 23) (fieldV w 17 6) (fieldV w 11 6))
    else .illegalOpcode
  else if m = 0x38 then named (fcndOf (fld w 15 4)) .illegalOpcode fun k' => named (cmbOf (fld w 12 3)) .illegalOpcode fun m' => .ok (.fcmp (fieldV w 19 5) k' m' (fieldV w 6 6) (fieldV w 0 6))
  else if m = 0x39 then named (fcndOf (fld w 15 4)) .illegalOpcode fun k' => named (cmbOf (fld w 12 3)) .illegalOpcode fun m' => .ok (.fcmp64 (fieldV w 19 5) k' m' (fieldV w 6 6) (fieldV w 0 6))
  else if m = 0x3A then named (fmtOf (fld w 7 4)) .illegalOpcode fun f' => named (fmtOf (fld w 3 4)) .illegalOpcode fun g' => named (rndOf (fld w 0 3)) .illegalOpcode fun r' => .ok (.cvt (flag1 w 23) (fieldV w 17 6) (fieldV w 11 6) f' g' r')
  else if m = 0x3B then
    if fld w 0 1 = 0 then named (rndOf (fld w 2 3)) .illegalOpcode fun r' => .ok (.txcvPack (flag1 w 23) (fieldV w 17 6) (fieldV w 11 6) (fieldV w 5 6) r' (flag1 w 1))
    else named (rndOf (fld w 2 3)) .illegalOpcode fun r' => .ok (.txcvUnpack (flag1 w 23) (fieldV w 17 6) (fieldV w 11 6) (fieldV w 5 6) r' (flag1 w 1))
  else if m = 0x3C then named (rndOf (fld w 2 3)) .illegalOpcode fun r' => if fld w 1 1 = 1 then .illegalOpcode else zeroField w 5 6 <| .ok (.txexp (flag1 w 23) (fieldV w 17 6) (fieldV w 11 6) r' (flag1 w 0))
  else .illegalOpcode

/-- Majors 0x40 to 0x53 of the opcode map (R81, R82). -/
def decode40to53 (m w : Nat) : Decoded :=
  if m = 0x40 then named (szOf (fld w 8 3)) .illegalOpcode fun z' => .ok (.lds (flag1 w 23) (fieldV w 17 6) (fieldV w 11 6) z' (fieldV w 0 8))
  else if m = 0x41 then named (szOf (fld w 8 3)) .illegalOpcode fun z' => zeroField w 23 1 <| .ok (.sts (fieldV w 17 6) (fieldV w 11 6) z' (fieldV w 0 8))
  else if m = 0x42 then named (szOf (fld w 8 3)) .illegalOpcode fun z' => .ok (.ldn (flag1 w 23) (fieldV w 17 6) (fieldV w 11 6) z' (fieldV w 0 8))
  else if m = 0x43 then named (szOf (fld w 8 3)) .illegalOpcode fun z' => zeroField w 23 1 <| .ok (.stn (fieldV w 17 6) (fieldV w 11 6) z' (fieldV w 0 8))
  else if m = 0x44 then named (aopOf (fld w 20 4)) .illegalOpcode fun o' => named (ordOf (fld w 0 2)) .illegalOpcode fun r' => .ok (.ats o' (fieldV w 14 6) (fieldV w 8 6) (fieldV w 2 6) r')
  else if m = 0x45 then named (aopOf (fld w 20 4)) .illegalOpcode fun o' => named (ordOf (fld w 0 2)) .illegalOpcode fun r' => .ok (.atn o' (fieldV w 14 6) (fieldV w 8 6) (fieldV w 2 6) r')
  else if m = 0x46 then named (aopOf (fld w 20 4)) .illegalOpcode fun o' => named (ordOf (fld w 0 2)) .illegalOpcode fun r' => .ok (.atfp o' (fieldV w 14 6) (fieldV w 8 6) (fieldV w 2 6) r')
  else if m = 0x47 then named (aopOf (fld w 20 4)) .illegalOpcode fun o' => named (ordOf (fld w 0 2)) .illegalOpcode fun r' => .ok (.atfd o' (fieldV w 14 6) (fieldV w 8 6) (fieldV w 2 6) r')
  else if m = 0x48 then named (aopOf (fld w 20 4)) .illegalOpcode fun o' => named (ordOf (fld w 0 2)) .illegalOpcode fun r' => .ok (.atfs o' (fieldV w 14 6) (fieldV w 8 6) (fieldV w 2 6) r')
  else if m = 0x49 then zeroField w 1 5 <| .ok (.mmaBf16 (fieldV w 14 10) (fieldV w 10 4) (fieldV w 6 4) (flag1 w 0))
  else if m = 0x4A then zeroField w 1 5 <| .ok (.mmaF16 (fieldV w 14 10) (fieldV w 10 4) (fieldV w 6 4) (flag1 w 0))
  else if m = 0x4B then .ok (.mmaTe8 (fieldV w 14 10) (fieldV w 10 4) (fieldV w 6 4) (fieldV w 1 5) (flag1 w 0))
  else if m = 0x4C then .ok (.mmaTe4 (fieldV w 14 10) (fieldV w 10 4) (fieldV w 6 4) (fieldV w 1 5) (flag1 w 0))
  else if m = 0x4D then zeroField w 1 5 <| .ok (.mmaF32 (fieldV w 14 10) (fieldV w 10 4) (fieldV w 6 4) (flag1 w 0))
  else if m = 0x4E then zeroField w 1 7 <| .ok (.tld (fieldV w 20 4) (fieldV w 14 6) (fieldV w 8 6) (flag1 w 0))
  else if m = 0x4F then zeroField w 1 7 <| .ok (.tst (fieldV w 20 4) (fieldV w 14 6) (fieldV w 8 6) (flag1 w 0))
  else if m = 0x50 then named (scopeOf (fld w 2 3)) .illegalOperand fun s' => named (kindOf (fld w 0 2)) .illegalOperand fun k' => zeroField w 5 19 <| .ok (.phase s' k')
  else if m = 0x51 then zeroField w 7 17 <| .ok (.tfence (flag1 w 6) (fieldV w 0 6))
  else if m = 0x52 then named (pathOf (fld w 0 2)) .illegalOperand fun p' => zeroField w 2 22 <| .ok (.drain p')
  else if m = 0x53 then
    if 5 ≤ fld w 2 3 then .illegalOpcode
    else if fld w 5 5 = 0 then zeroField w 0 5 <| .ok (.accz (fieldV w 14 10) (fieldV w 10 4))
    else if fld w 5 5 = 1 then named (rndOf (fld w 2 3)) .illegalOpcode fun r' => zeroField w 0 1 <| .ok (.accrd (fieldV w 14 10) (fieldV w 10 4) r' (flag1 w 1))
    else if fld w 5 5 = 2 then zeroField w 0 5 <| .ok (.accwr (fieldV w 14 10) (fieldV w 10 4))
    else if fld w 5 5 = 3 then zeroField w 0 5 <| .ok (.accadd (fieldV w 14 10) (fieldV w 10 4))
    else if fld w 5 5 = 4 then zeroField w 0 5 <| zeroField w 14 10 <| .ok (.tzero (fieldV w 10 4))
    else .illegalOpcode
  else .illegalOpcode

/-- Majors 0x58 to 0x6A of the opcode map (R81, R82). -/
def decode58to6A (m w : Nat) : Decoded :=
  if m = 0x58 then zeroField w 18 1 <| .ok (.bra (fieldV w 19 5) (fieldV w 0 18))
  else if m = 0x59 then zeroField w 18 1 <| .ok (.call (fieldV w 19 5) (fieldV w 0 18))
  else if m = 0x5A then zeroField w 5 7 <| zeroField w 18 6 <| .ok (.brx (fieldV w 12 6) (fieldV w 0 5))
  else if m = 0x5B then zeroField w 5 7 <| zeroField w 18 6 <| .ok (.ret (fieldV w 12 6) (fieldV w 0 5))
  else if m = 0x5C then zeroField w 5 19 <| .ok (.exit (fieldV w 0 5))
  else if m = 0x5D then zeroField w 4 20 <| .ok (.join (fieldV w 0 4))
  else if m = 0x5E then zeroField w 4 20 <| .ok (.leave (fieldV w 0 4))
  else if m = 0x5F then zeroField w 4 20 <| .ok (.waitm (fieldV w 0 4))
  else if m = 0x60 then
    if fld w 0 5 = 0 then zeroField w 11 6 <| .ok (.maskopRead (flag1 w 23) (fieldV w 17 6) (fieldV w 5 6))
    else if fld w 0 5 = 1 then zeroField w 17 7 <| .ok (.maskopWrite (fieldV w 11 6) (fieldV w 5 6))
    else if fld w 0 5 = 2 then zeroField w 11 13 <| .ok (.maskopClear (fieldV w 5 6))
    else .illegalOpcode
  else if m = 0x61 then zeroField w 18 6 <| zeroField w 0 12 <| if fld w 12 6 = 62 then .ok .ppt else .illegalOperand
  else if m = 0x64 then zeroField w 5 7 <| zeroField w 18 6 <| .ok (.rvinit (fieldV w 12 6) (fieldV w 0 5))
  else if m = 0x65 then zeroField w 5 19 <| .ok (.rvarrive (fieldV w 0 5))
  else if m = 0x66 then zeroField w 6 18 <| .ok (.rvwait (flag1 w 5) (fieldV w 0 5))
  else if m = 0x67 then zeroField w 1 17 <| .ok (.rvstat (fieldV w 18 6) (flag1 w 0))
  else if m = 0x68 then zeroField w 2 10 <| zeroField w 18 6 <| .ok (.qpush (fieldV w 12 6) (fieldV w 0 2))
  else if m = 0x69 then zeroField w 4 20 <| .ok (.sigset (fieldV w 0 4))
  else if m = 0x6A then zeroField w 5 19 <| .ok (.sigwait (flag1 w 4) (fieldV w 0 4))
  else .illegalOpcode

/-- Majors 0x6C to 0x75 of the opcode map (R81, R82). -/
def decode6Cto75 (m w : Nat) : Decoded :=
  if m = 0x6C then
    if fld w 11 1 = 0 then zeroField w 6 5 <| zeroField w 12 6 <| .ok (.growReq (fieldV w 18 6) (fieldV w 0 6))
    else zeroField w 6 5 <| zeroField w 12 6 <| .ok (.growRel (fieldV w 18 6) (fieldV w 0 6))
  else if m = 0x6D then zeroField w 0 12 <| zeroField w 18 6 <| .ok (.launch (fieldV w 12 6))
  else if m = 0x6E then zeroField w 8 16 <| .ok (.taskdec (fieldV w 0 8))
  else if m = 0x6F then zeroField w 0 24 <| .ok .yield
  else if m = 0x70 then zeroField w 12 6 <| .ok (.srr (fieldV w 18 6) (fieldV w 0 12))
  else if m = 0x71 then zeroField w 18 6 <| .ok (.srw (fieldV w 12 6) (fieldV w 0 12))
  else if m = 0x72 then zeroField w 12 12 <| .ok (.trap (fieldV w 0 12))
  else if m = 0x73 then zeroField w 12 12 <| .ok (.brk (fieldV w 0 12))
  else if m = 0x74 then zeroField w 1 23 <| .ok (.tret (flag1 w 0))
  else if m = 0x75 then zeroField w 4 8 <| .ok (.waitev (fieldV w 18 6) (fieldV w 12 6) (fieldV w 0 4))
  else .illegalOpcode

/-- Majors 0x76 to 0x7E of the opcode map (R81, R82). -/
def decode76to7E (m w : Nat) : Decoded :=
  if m = 0x76 then .ok (.fetch (fieldV w 18 6) (fieldV w 12 6) (fieldV w 7 5) (fieldV w 3 4) (fieldV w 0 3))
  else if m = 0x77 then .ok (.put (fieldV w 18 6) (fieldV w 12 6) (fieldV w 7 5) (fieldV w 3 4) (fieldV w 0 3))
  else if m = 0x78 then zeroField w 0 3 <| .ok (.copyl (fieldV w 18 6) (fieldV w 12 6) (fieldV w 7 5) (fieldV w 3 4))
  else if m = 0x79 then .ok (.fetchr (fieldV w 18 6) (fieldV w 12 6) (fieldV w 7 5) (fieldV w 3 4) (fieldV w 0 3))
  else if m = 0x7A then
    if fld w 8 4 = 0 then zeroField w 0 8 <| .ok (.engmGcreate (fieldV w 18 6) (fieldV w 12 6))
    else if fld w 8 4 = 1 then zeroField w 0 8 <| .ok (.engmGready (fieldV w 18 6) (fieldV w 12 6))
    else if fld w 8 4 = 2 then zeroField w 0 8 <| if fld w 18 6 = 38 then .ok (.engmGdestroy (fieldV w 12 6)) else .illegalOperand
    else if fld w 8 4 = 3 then zeroField w 0 3 <| .ok (.engmFill (fieldV w 18 6) (fieldV w 12 6) (fieldV w 3 5))
    else if fld w 8 4 = 4 then zeroField w 0 3 <| .ok (.engmCopyf (fieldV w 18 6) (fieldV w 12 6) (fieldV w 3 5))
    else .illegalOperand
  else if m = 0x7B then zeroField w 5 13 <| .ok (.wincfg (fieldV w 18 6) (fieldV w 3 2) (fieldV w 0 3))
  else if m = 0x7C then zeroField w 0 3 <| zeroField w 7 5 <| .ok (.abinit (fieldV w 18 6) (fieldV w 12 6) (fieldV w 3 4))
  else if m = 0x7D then zeroField w 0 3 <| zeroField w 7 11 <| .ok (.waita (fieldV w 18 6) (fieldV w 3 4))
  else if m = 0x7E then zeroField w 2 10 <| .ok (.waitt (fieldV w 18 6) (fieldV w 12 6) (fieldV w 0 2))
  else .illegalOpcode

/-- Decodes one slot word; the C bit (R64) is no part of the instruction. Total: every word is an instruction or has a fate
of R83. -/
def decodeWord (w : Nat) : Decoded :=
  let m := fld w 24 7
  if m ≤ 0x13 then decode00to13 m w
  else if m ≤ 0x21 then decode14to21 m w
  else if m ≤ 0x27 then decode22to27 m w
  else if m ≤ 0x3C then decode28to3C m w
  else if m ≤ 0x53 then decode40to53 m w
  else if m ≤ 0x6A then decode58to6A m w
  else if m ≤ 0x75 then decode6Cto75 m w
  else decode76to7E m w

/-- The C bit of a slot word (R64). -/
def chainBit (w : Nat) : Bool := flag1 w 31

/-- Decodes the slot word at the front of some bytes, low byte first (R4), and answers the bytes after it. -/
def decodeBytes (b : List Byte) : Option (Decoded × List Byte) :=
  if b.length < 4 then none else some (decodeWord (ofBytes (b.take 4)), b.drop 4)

/-- The instruction that the decoder reads from a table word. -/
def decodeTableWord (nbits w : Nat) : Option Instr :=
  match decodeBytes (bytesOf 4 (w % 2 ^ nbits)) with
  | some (.ok i, _) => some i
  | _ => none

/-- The word with the fields (value, lowest bit) added to fixed bits. -/
def enc (fixed : Nat) (fields : List (Nat × Nat)) : Option Word :=
  some (BitVec.ofNat 32 (fields.foldl (fun s p => s + p.1 * 2 ^ p.2) fixed))

/-- The word of an instruction with C = 0, by the formats of R74 and the opcode map; events have no word. -/
def encode : Instr → Option Word
  | .nop => enc 0x00000000 []
  | .add n d a b g => enc 0x01000000 [(n.toNat, 23), (d.toNat, 17), (a.toNat, 11), (b.toNat, 5), (g.toNat, 0)]
  | .sub n d a b g => enc 0x02000000 [(n.toNat, 23), (d.toNat, 17), (a.toNat, 11), (b.toNat, 5), (g.toNat, 0)]
  | .mul n d a b g => enc 0x03000000 [(n.toNat, 23), (d.toNat, 17), (a.toNat, 11), (b.toNat, 5), (g.toNat, 0)]
  | .mulh n d a b g => enc 0x04000000 [(n.toNat, 23), (d.toNat, 17), (a.toNat, 11), (b.toNat, 5), (g.toNat, 0)]
  | .mulhu n d a b g => enc 0x05000000 [(n.toNat, 23), (d.toNat, 17), (a.toNat, 11), (b.toNat, 5), (g.toNat, 0)]
  | .mad n d a b g => enc 0x06000000 [(n.toNat, 23), (d.toNat, 17), (a.toNat, 11), (b.toNat, 5), (g.toNat, 0)]
  | .and n d a b g => enc 0x07000000 [(n.toNat, 23), (d.toNat, 17), (a.toNat, 11), (b.toNat, 5), (g.toNat, 0)]
  | .or n d a b g => enc 0x08000000 [(n.toNat, 23), (d.toNat, 17), (a.toNat, 11), (b.toNat, 5), (g.toNat, 0)]
  | .xor n d a b g => enc 0x09000000 [(n.toNat, 23), (d.toNat, 17), (a.toNat, 11), (b.toNat, 5), (g.toNat, 0)]
  | .andn n d a b g => enc 0x0A000000 [(n.toNat, 23), (d.toNat, 17), (a.toNat, 11), (b.toNat, 5), (g.toNat, 0)]
  | .shl n d a b g => enc 0x0B000000 [(n.toNat, 23), (d.toNat, 17), (a.toNat, 11), (b.toNat, 5), (g.toNat, 0)]
  | .shr n d a b g => enc 0x0C000000 [(n.toNat, 23), (d.toNat, 17), (a.toNat, 11), (b.toNat, 5), (g.toNat, 0)]
  | .sar n d a b g => enc 0x0D000000 [(n.toNat, 23), (d.toNat, 17), (a.toNat, 11), (b.toNat, 5), (g.toNat, 0)]
  | .min n d a b g => enc 0x0E000000 [(n.toNat, 23), (d.toNat, 17), (a.toNat, 11), (b.toNat, 5), (g.toNat, 0)]
  | .max n d a b g => enc 0x0F000000 [(n.toNat, 23), (d.toNat, 17), (a.toNat, 11), (b.toNat, 5), (g.toNat, 0)]
  | .minu n d a b g => enc 0x10000000 [(n.toNat, 23), (d.toNat, 17), (a.toNat, 11), (b.toNat, 5), (g.toNat, 0)]
  | .maxu n d a b g => enc 0x11000000 [(n.toNat, 23), (d.toNat, 17), (a.toNat, 11), (b.toNat, 5), (g.toNat, 0)]
  | .sel n d a b g => enc 0x12000000 [(n.toNat, 23), (d.toNat, 17), (a.toNat, 11), (b.toNat, 5), (g.toNat, 0)]
  | .mov n d a g => enc 0x13000000 [(n.toNat, 23), (d.toNat, 17), (a.toNat, 11), (g.toNat, 0)]
  | .add64 n d a b g => enc 0x14000000 [(n.toNat, 23), (d.toNat, 17), (a.toNat, 11), (b.toNat, 5), (g.toNat, 0)]
  | .sub64 n d a b g => enc 0x15000000 [(n.toNat, 23), (d.toNat, 17), (a.toNat, 11), (b.toNat, 5), (g.toNat, 0)]
  | .mul64 n d a b g => enc 0x16000000 [(n.toNat, 23), (d.toNat, 17), (a.toNat, 11), (b.toNat, 5), (g.toNat, 0)]
  | .shl64 n d a b g => enc 0x17000000 [(n.toNat, 23), (d.toNat, 17), (a.toNat, 11), (b.toNat, 5), (g.toNat, 0)]
  | .shr64 n d a b g => enc 0x18000000 [(n.toNat, 23), (d.toNat, 17), (a.toNat, 11), (b.toNat, 5), (g.toNat, 0)]
  | .sar64 n d a b g => enc 0x19000000 [(n.toNat, 23), (d.toNat, 17), (a.toNat, 11), (b.toNat, 5), (g.toNat, 0)]
  | .addi n d a i => enc 0x1A000000 [(n.toNat, 23), (d.toNat, 17), (a.toNat, 11), (i.toNat, 0)]
  | .andi n d a i => enc 0x1B000000 [(n.toNat, 23), (d.toNat, 17), (a.toNat, 11), (i.toNat, 0)]
  | .ori n d a i => enc 0x1C000000 [(n.toNat, 23), (d.toNat, 17), (a.toNat, 11), (i.toNat, 0)]
  | .xori n d a i => enc 0x1D000000 [(n.toNat, 23), (d.toNat, 17), (a.toNat, 11), (i.toNat, 0)]
  | .shli n d a i => enc 0x1E000000 [(n.toNat, 23), (d.toNat, 17), (a.toNat, 11), (i.toNat, 0)]
  | .shri n d a i => enc 0x1F000000 [(n.toNat, 23), (d.toNat, 17), (a.toNat, 11), (i.toNat, 0)]
  | .sari n d a i => enc 0x20000000 [(n.toNat, 23), (d.toNat, 17), (a.toNat, 11), (i.toNat, 0)]
  | .movi n d i => enc 0x21000000 [(n.toNat, 23), (d.toNat, 17), (i.toNat, 0)]
  | .popc n d a => enc 0x22000000 [(n.toNat, 23), (d.toNat, 17), (a.toNat, 11)]
  | .clz n d a => enc 0x22000001 [(n.toNat, 23), (d.toNat, 17), (a.toNat, 11)]
  | .ctz n d a => enc 0x22000002 [(n.toNat, 23), (d.toNat, 17), (a.toNat, 11)]
  | .brev n d a => enc 0x22000003 [(n.toNat, 23), (d.toNat, 17), (a.toNat, 11)]
  | .not n d a => enc 0x22000004 [(n.toNat, 23), (d.toNat, 17), (a.toNat, 11)]
  | .neg n d a => enc 0x22000005 [(n.toNat, 23), (d.toNat, 17), (a.toNat, 11)]
  | .abs n d a => enc 0x22000006 [(n.toNat, 23), (d.toNat, 17), (a.toNat, 11)]
  | .sext8 n d a => enc 0x22000007 [(n.toNat, 23), (d.toNat, 17), (a.toNat, 11)]
  | .sext16 n d a => enc 0x22000008 [(n.toNat, 23), (d.toNat, 17), (a.toNat, 11)]
  | .zext8 n d a => enc 0x22000009 [(n.toNat, 23), (d.toNat, 17), (a.toNat, 11)]
  | .zext16 n d a => enc 0x2200000A [(n.toNat, 23), (d.toNat, 17), (a.toNat, 11)]
  | .bfx n d a b => enc 0x23000000 [(n.toNat, 23), (d.toNat, 17), (a.toNat, 11), (b.toNat, 5)]
  | .bfxn n d a b => enc 0x23000001 [(n.toNat, 23), (d.toNat, 17), (a.toNat, 11), (b.toNat, 5)]
  | .bfi n d a b => enc 0x23000002 [(n.toNat, 23), (d.toNat, 17), (a.toNat, 11), (b.toNat, 5)]
  | .bmix n d a b => enc 0x23000003 [(n.toNat, 23), (d.toNat, 17), (a.toNat, 11), (b.toNat, 5)]
  | .icmp p k m a b => enc 0x24000000 [(p.toNat, 19), (k.code, 15), (m.code, 12), (a.toNat, 6), (b.toNat, 0)]
  | .icmp64 p k m a b => enc 0x25000000 [(p.toNat, 19), (k.code, 15), (m.code, 12), (a.toNat, 6), (b.toNat, 0)]
  | .pand d a b => enc 0x26000000 [(d.toNat, 17), (a.toNat, 11), (b.toNat, 5)]
  | .por d a b => enc 0x26000001 [(d.toNat, 17), (a.toNat, 11), (b.toNat, 5)]
  | .pxor d a b => enc 0x26000002 [(d.toNat, 17), (a.toNat, 11), (b.toNat, 5)]
  | .pandn d a b => enc 0x26000003 [(d.toNat, 17), (a.toNat, 11), (b.toNat, 5)]
  | .pnot d a => enc 0x26000004 [(d.toNat, 17), (a.toNat, 11)]
  | .pmov d a => enc 0x26000005 [(d.toNat, 17), (a.toNat, 11)]
  | .ptov n d => enc 0x26000006 [(n.toNat, 23), (d.toNat, 17)]
  | .vtop a => enc 0x26000007 [(a.toNat, 11)]
  | .ballot n d a => enc 0x26000008 [(n.toNat, 23), (d.toNat, 17), (a.toNat, 11)]
  | .pany d a => enc 0x26000009 [(d.toNat, 17), (a.toNat, 11)]
  | .pall d a => enc 0x2600000A [(d.toNat, 17), (a.toNat, 11)]
  | .shflIdx n d a b => enc 0x27000000 [(n.toNat, 23), (d.toNat, 17), (a.toNat, 11), (b.toNat, 5)]
  | .shflUp n d a b => enc 0x27000001 [(n.toNat, 23), (d.toNat, 17), (a.toNat, 11), (b.toNat, 5)]
  | .shflDn n d a b => enc 0x27000002 [(n.toNat, 23), (d.toNat, 17), (a.toNat, 11), (b.toNat, 5)]
  | .shflXor n d a b => enc 0x27000003 [(n.toNat, 23), (d.toNat, 17), (a.toNat, 11), (b.toNat, 5)]
  | .bcast n d a => enc 0x27000004 [(n.toNat, 23), (d.toNat, 17), (a.toNat, 11)]
  | .lredAdd n d a => enc 0x27000005 [(n.toNat, 23), (d.toNat, 17), (a.toNat, 11)]
  | .lredMin n d a => enc 0x27000006 [(n.toNat, 23), (d.toNat, 17), (a.toNat, 11)]
  | .lredMax n d a => enc 0x27000007 [(n.toNat, 23), (d.toNat, 17), (a.toNat, 11)]
  | .lredFadd n d a => enc 0x27000008 [(n.toNat, 23), (d.toNat, 17), (a.toNat, 11)]
  | .lscanAdd n d a => enc 0x27000009 [(n.toNat, 23), (d.toNat, 17), (a.toNat, 11)]
  | .fadd n d a b g => enc 0x28000000 [(n.toNat, 23), (d.toNat, 17), (a.toNat, 11), (b.toNat, 5), (g.toNat, 0)]
  | .fsub n d a b g => enc 0x29000000 [(n.toNat, 23), (d.toNat, 17), (a.toNat, 11), (b.toNat, 5), (g.toNat, 0)]
  | .fmul n d a b g => enc 0x2A000000 [(n.toNat, 23), (d.toNat, 17), (a.toNat, 11), (b.toNat, 5), (g.toNat, 0)]
  | .ffma n d a b g => enc 0x2B000000 [(n.toNat, 23), (d.toNat, 17), (a.toNat, 11), (b.toNat, 5), (g.toNat, 0)]
  | .fmin n d a b g => enc 0x2C000000 [(n.toNat, 23), (d.toNat, 17), (a.toNat, 11), (b.toNat, 5), (g.toNat, 0)]
  | .fmax n d a b g => enc 0x2D000000 [(n.toNat, 23), (d.toNat, 17), (a.toNat, 11), (b.toNat, 5), (g.toNat, 0)]
  | .fadd64 n d a b g => enc 0x2E000000 [(n.toNat, 23), (d.toNat, 17), (a.toNat, 11), (b.toNat, 5), (g.toNat, 0)]
  | .fmul64 n d a b g => enc 0x2F000000 [(n.toNat, 23), (d.toNat, 17), (a.toNat, 11), (b.toNat, 5), (g.toNat, 0)]
  | .ffma64 n d a b g => enc 0x30000000 [(n.toNat, 23), (d.toNat, 17), (a.toNat, 11), (b.toNat, 5), (g.toNat, 0)]
  | .hxadd n d a b g => enc 0x31000000 [(n.toNat, 23), (d.toNat, 17), (a.toNat, 11), (b.toNat, 5), (g.toNat, 0)]
  | .hxmul n d a b g => enc 0x32000000 [(n.toNat, 23), (d.toNat, 17), (a.toNat, 11), (b.toNat, 5), (g.toNat, 0)]
  | .hxfma n d a b g => enc 0x33000000 [(n.toNat, 23), (d.toNat, 17), (a.toNat, 11), (b.toNat, 5), (g.toNat, 0)]
  | .bxadd n d a b g => enc 0x34000000 [(n.toNat, 23), (d.toNat, 17), (a.toNat, 11), (b.toNat, 5), (g.toNat, 0)]
  | .bxmul n d a b g => enc 0x35000000 [(n.toNat, 23), (d.toNat, 17), (a.toNat, 11), (b.toNat, 5), (g.toNat, 0)]
  | .bxfma n d a b g => enc 0x36000000 [(n.toNat, 23), (d.toNat, 17), (a.toNat, 11), (b.toNat, 5), (g.toNat, 0)]
  | .fabs n d a => enc 0x37000000 [(n.toNat, 23), (d.toNat, 17), (a.toNat, 11)]
  | .fneg n d a => enc 0x37000001 [(n.toNat, 23), (d.toNat, 17), (a.toNat, 11)]
  | .frcp n d a => enc 0x37000002 [(n.toNat, 23), (d.toNat, 17), (a.toNat, 11)]
  | .frsq n d a => enc 0x37000003 [(n.toNat, 23), (d.toNat, 17), (a.toNat, 11)]
  | .fsqrt n d a => enc 0x37000004 [(n.toNat, 23), (d.toNat, 17), (a.toNat, 11)]
  | .fexp2 n d a => enc 0x37000005 [(n.toNat, 23), (d.toNat, 17), (a.toNat, 11)]
  | .flog2 n d a => enc 0x37000006 [(n.toNat, 23), (d.toNat, 17), (a.toNat, 11)]
  | .fsinpi n d a => enc 0x37000007 [(n.toNat, 23), (d.toNat, 17), (a.toNat, 11)]
  | .fcospi n d a => enc 0x37000008 [(n.toNat, 23), (d.toNat, 17), (a.toNat, 11)]
  | .ffloor n d a => enc 0x37000009 [(n.toNat, 23), (d.toNat, 17), (a.toNat, 11)]
  | .fceil n d a => enc 0x3700000A [(n.toNat, 23), (d.toNat, 17), (a.toNat, 11)]
  | .ftrunc n d a => enc 0x3700000B [(n.toNat, 23), (d.toNat, 17), (a.toNat, 11)]
  | .frint n d a => enc 0x3700000C [(n.toNat, 23), (d.toNat, 17), (a.toNat, 11)]
  | .fclass n d a => enc 0x3700000D [(n.toNat, 23), (d.toNat, 17), (a.toNat, 11)]
  | .fcmp p k m a b => enc 0x38000000 [(p.toNat, 19), (k.code, 15), (m.code, 12), (a.toNat, 6), (b.toNat, 0)]
  | .fcmp64 p k m a b => enc 0x39000000 [(p.toNat, 19), (k.code, 15), (m.code, 12), (a.toNat, 6), (b.toNat, 0)]
  | .cvt s d a f g r => enc 0x3A000000 [(s.toNat, 23), (d.toNat, 17), (a.toNat, 11), (f.code, 7), (g.code, 3), (r.code, 0)]
  | .txcvPack n d a b r e => enc 0x3B000000 [(n.toNat, 23), (d.toNat, 17), (a.toNat, 11), (b.toNat, 5), (r.code, 2), (e.toNat, 1)]
  | .txcvUnpack n d a b r e => enc 0x3B000001 [(n.toNat, 23), (d.toNat, 17), (a.toNat, 11), (b.toNat, 5), (r.code, 2), (e.toNat, 1)]
  | .txexp n d a r e => enc 0x3C000000 [(n.toNat, 23), (d.toNat, 17), (a.toNat, 11), (r.code, 2), (e.toNat, 0)]
  | .lds x d a z o => enc 0x40000000 [(x.toNat, 23), (d.toNat, 17), (a.toNat, 11), (z.code, 8), (o.toNat, 0)]
  | .sts d a z o => enc 0x41000000 [(d.toNat, 17), (a.toNat, 11), (z.code, 8), (o.toNat, 0)]
  | .ldn x d a z o => enc 0x42000000 [(x.toNat, 23), (d.toNat, 17), (a.toNat, 11), (z.code, 8), (o.toNat, 0)]
  | .stn d a z o => enc 0x43000000 [(d.toNat, 17), (a.toNat, 11), (z.code, 8), (o.toNat, 0)]
  | .ats o d a b r => enc 0x44000000 [(o.code, 20), (d.toNat, 14), (a.toNat, 8), (b.toNat, 2), (r.code, 0)]
  | .atn o d a b r => enc 0x45000000 [(o.code, 20), (d.toNat, 14), (a.toNat, 8), (b.toNat, 2), (r.code, 0)]
  | .atfp o d a b r => enc 0x46000000 [(o.code, 20), (d.toNat, 14), (a.toNat, 8), (b.toNat, 2), (r.code, 0)]
  | .atfd o d a b r => enc 0x47000000 [(o.code, 20), (d.toNat, 14), (a.toNat, 8), (b.toNat, 2), (r.code, 0)]
  | .atfs o d a b r => enc 0x48000000 [(o.code, 20), (d.toNat, 14), (a.toNat, 8), (b.toNat, 2), (r.code, 0)]
  | .mmaBf16 a t u s => enc 0x49000000 [(a.toNat, 14), (t.toNat, 10), (u.toNat, 6), (s.toNat, 0)]
  | .mmaF16 a t u s => enc 0x4A000000 [(a.toNat, 14), (t.toNat, 10), (u.toNat, 6), (s.toNat, 0)]
  | .mmaTe8 a t u v s => enc 0x4B000000 [(a.toNat, 14), (t.toNat, 10), (u.toNat, 6), (v.toNat, 1), (s.toNat, 0)]
  | .mmaTe4 a t u v s => enc 0x4C000000 [(a.toNat, 14), (t.toNat, 10), (u.toNat, 6), (v.toNat, 1), (s.toNat, 0)]
  | .mmaF32 a t u s => enc 0x4D000000 [(a.toNat, 14), (t.toNat, 10), (u.toNat, 6), (s.toNat, 0)]
  | .tld t a b r => enc 0x4E000000 [(t.toNat, 20), (a.toNat, 14), (b.toNat, 8), (r.toNat, 0)]
  | .tst t a b r => enc 0x4F000000 [(t.toNat, 20), (a.toNat, 14), (b.toNat, 8), (r.toNat, 0)]
  | .phase s k => enc 0x50000000 [(s.code, 2), (k.code, 0)]
  | .tfence s m => enc 0x51000000 [(s.toNat, 6), (m.toNat, 0)]
  | .drain p => enc 0x52000000 [(p.code, 0)]
  | .accz a t => enc 0x53000000 [(a.toNat, 14), (t.toNat, 10)]
  | .accrd a t r s => enc 0x53000020 [(a.toNat, 14), (t.toNat, 10), (r.code, 2), (s.toNat, 1)]
  | .accwr a t => enc 0x53000040 [(a.toNat, 14), (t.toNat, 10)]
  | .accadd a t => enc 0x53000060 [(a.toNat, 14), (t.toNat, 10)]
  | .tzero t => enc 0x53000080 [(t.toNat, 10)]
  | .bra g o => enc 0x58000000 [(g.toNat, 19), (o.toNat, 0)]
  | .call g o => enc 0x59000000 [(g.toNat, 19), (o.toNat, 0)]
  | .brx a g => enc 0x5A000000 [(a.toNat, 12), (g.toNat, 0)]
  | .ret a g => enc 0x5B000000 [(a.toNat, 12), (g.toNat, 0)]
  | .exit g => enc 0x5C000000 [(g.toNat, 0)]
  | .join k => enc 0x5D000000 [(k.toNat, 0)]
  | .leave k => enc 0x5E000000 [(k.toNat, 0)]
  | .waitm k => enc 0x5F000000 [(k.toNat, 0)]
  | .maskopRead n d b => enc 0x60000000 [(n.toNat, 23), (d.toNat, 17), (b.toNat, 5)]
  | .maskopWrite a b => enc 0x60000001 [(a.toNat, 11), (b.toNat, 5)]
  | .maskopClear b => enc 0x60000002 [(b.toNat, 5)]
  | .ppt => enc 0x6103E000 []
  | .rvinit a k => enc 0x64000000 [(a.toNat, 12), (k.toNat, 0)]
  | .rvarrive k => enc 0x65000000 [(k.toNat, 0)]
  | .rvwait s k => enc 0x66000000 [(s.toNat, 5), (k.toNat, 0)]
  | .rvstat d l => enc 0x67000000 [(d.toNat, 18), (l.toNat, 0)]
  | .qpush a k => enc 0x68000000 [(a.toNat, 12), (k.toNat, 0)]
  | .sigset k => enc 0x69000000 [(k.toNat, 0)]
  | .sigwait w k => enc 0x6A000000 [(w.toNat, 4), (k.toNat, 0)]
  | .growReq p n => enc 0x6C000000 [(p.toNat, 18), (n.toNat, 0)]
  | .growRel p n => enc 0x6C000800 [(p.toNat, 18), (n.toNat, 0)]
  | .launch a => enc 0x6D000000 [(a.toNat, 12)]
  | .taskdec k => enc 0x6E000000 [(k.toNat, 0)]
  | .yield => enc 0x6F000000 []
  | .srr d n => enc 0x70000000 [(d.toNat, 18), (n.toNat, 0)]
  | .srw a n => enc 0x71000000 [(a.toNat, 12), (n.toNat, 0)]
  | .trap i => enc 0x72000000 [(i.toNat, 0)]
  | .brk i => enc 0x73000000 [(i.toNat, 0)]
  | .tret x => enc 0x74000000 [(x.toNat, 0)]
  | .waitev d a m => enc 0x75000000 [(d.toNat, 18), (a.toNat, 12), (m.toNat, 0)]
  | .fetch x y l b w => enc 0x76000000 [(x.toNat, 18), (y.toNat, 12), (l.toNat, 7), (b.toNat, 3), (w.toNat, 0)]
  | .put x y l b w => enc 0x77000000 [(x.toNat, 18), (y.toNat, 12), (l.toNat, 7), (b.toNat, 3), (w.toNat, 0)]
  | .copyl x y l b => enc 0x78000000 [(x.toNat, 18), (y.toNat, 12), (l.toNat, 7), (b.toNat, 3)]
  | .fetchr x y l b w => enc 0x79000000 [(x.toNat, 18), (y.toNat, 12), (l.toNat, 7), (b.toNat, 3), (w.toNat, 0)]
  | .engmGcreate x y => enc 0x7A000000 [(x.toNat, 18), (y.toNat, 12)]
  | .engmGready x y => enc 0x7A000100 [(x.toNat, 18), (y.toNat, 12)]
  | .engmGdestroy y => enc 0x7A980200 [(y.toNat, 12)]
  | .engmFill x y l => enc 0x7A000300 [(x.toNat, 18), (y.toNat, 12), (l.toNat, 3)]
  | .engmCopyf x y l => enc 0x7A000400 [(x.toNat, 18), (y.toNat, 12), (l.toNat, 3)]
  | .wincfg x k w => enc 0x7B000000 [(x.toNat, 18), (k.toNat, 3), (w.toNat, 0)]
  | .abinit x y b => enc 0x7C000000 [(x.toNat, 18), (y.toNat, 12), (b.toNat, 3)]
  | .waita p b => enc 0x7D000000 [(p.toNat, 18), (b.toNat, 3)]
  | .waitt x y t => enc 0x7E000000 [(x.toNat, 18), (y.toNat, 12), (t.toNat, 0)]
  | _ => none

/-- The pipes of the opcode map (R65, R81). -/
inductive Pipe | I | F | T | M | S | X | E
  deriving DecidableEq, Repr

/-- The pipe of a major (R81); a reserved major has none. -/
def pipeOf (m : Nat) : Option Pipe :=
  if m = 0x00 then some .S
  else if m ≤ 0x27 then some .I
  else if m ≤ 0x36 then some .F
  else if m = 0x37 then some .T
  else if m ≤ 0x39 then some .F
  else if m ≤ 0x3C then some .T
  else if m ≤ 0x3F then none
  else if m ≤ 0x48 then some .M
  else if m ≤ 0x4F then some .X
  else if m = 0x50 then some .M
  else if m = 0x51 then some .S
  else if m = 0x52 then some .M
  else if m = 0x53 then some .X
  else if m ≤ 0x57 then none
  else if m ≤ 0x61 then some .S
  else if m ≤ 0x63 then none
  else if m ≤ 0x6A then some .S
  else if m = 0x6B then none
  else if m ≤ 0x75 then some .S
  else if m ≤ 0x7E then some .E
  else none

/-- Whether a major is valid in the lane stream (R81). -/
def laneMajor (m : Nat) : Bool :=
  (pipeOf m).isSome && !(m == 0x51 || m == 0x64 || m == 0x67 || m == 0x68 || m == 0x6D || m == 0x6E || 0x75 ≤ m)

/-- Whether a major is valid in the control stream (R81). -/
def ctlMajor (m : Nat) : Bool :=
  (pipeOf m).isSome && !((0x14 ≤ m && m ≤ 0x19) || m == 0x25 || (0x27 ≤ m && m ≤ 0x3C) || (0x46 ≤ m && m ≤ 0x4F)
    || m == 0x53 || (0x5D ≤ m && m ≤ 0x61) || m == 0x6C)

/-- The source fields of a slot word that are register codes, and so may name the literal (R69, R74), by major and FN. Of a word
with a reserved function, condition or size code R69 does not speak: such a word of the majors IUNARY, BITF, XLANE and FUNARY and
of the formats P, M and Q has its register fields read so, and one of PRED and MASKOP has none (DESIGN CHOICE, log entry 46). -/
def sourceCodes (w : Nat) : List Nat :=
  let m := fld w 24 7
  let fn := fld w 0 5
  let aA := [fld w 11 6]
  let aB := [fld w 11 6, fld w 5 6]
  if m = 0x00 then []
  else if m = 0x13 then aA
  else if m ≤ 0x19 then aB
  else if m ≤ 0x20 then aA
  else if m = 0x21 then []
  else if m = 0x22 then aA
  else if m = 0x23 then aB
  else if m ≤ 0x25 then [fld w 6 6, fld w 0 6]
  else if m = 0x26 then (if fn = 7 then aA else [])
  else if m = 0x27 then (if fn ≤ 3 then aB else aA)
  else if m ≤ 0x36 then aB
  else if m = 0x37 then aA
  else if m ≤ 0x39 then [fld w 6 6, fld w 0 6]
  else if m = 0x3A then aA
  else if m = 0x3B then aB
  else if m = 0x3C then aA
  else if m = 0x40 then aA
  else if m = 0x41 then [fld w 17 6, fld w 11 6]
  else if m = 0x42 then aA
  else if m = 0x43 then [fld w 17 6, fld w 11 6]
  else if 0x44 ≤ m ∧ m ≤ 0x48 then (if fld w 20 4 = 13 then [fld w 8 6] else [fld w 8 6, fld w 2 6])
  else if m = 0x4E then [fld w 14 6, fld w 8 6]
  else if m = 0x4F then [fld w 14 6, fld w 8 6]
  else if m = 0x60 then (if fn = 1 then aA else [])
  else if m = 0x5A ∨ m = 0x5B ∨ m = 0x61 ∨ m = 0x64 ∨ m = 0x68 ∨ m = 0x6D ∨ m = 0x71 ∨ m = 0x75 then [fld w 12 6]
  else if 0x76 ≤ m ∧ m ≤ 0x79 then [fld w 18 6, fld w 12 6]
  else if m = 0x7A then
    (if fld w 8 4 = 0 then [fld w 18 6] else if fld w 8 4 = 2 then [fld w 12 6] else [fld w 18 6, fld w 12 6])
  else if m = 0x7B ∨ m = 0x7E then [fld w 18 6]
  else if m = 0x7C then [fld w 18 6, fld w 12 6]
  else []

/-- Whether a slot word names the literal (R69). -/
def namesLit (w : Nat) : Bool := (sourceCodes w).contains 62

end Sys2Proof
end

