-- ==== Sys2Proof/Machine/State.lean ====
section
/-! DEFINITION. The state of a domain of ZC-384 packages and BM-512 modules, as plain data, and the state after reset.
INVENTORY.md lists the rule of spec/ behind each field. Times are in ns, cycles in core-clock periods. -/
namespace Sys2Proof.Machine

/-- The reasons a step stops with a fault. No step of this machine does: the spec turns every fault into an entry into a
handler, a grid that ends FAULTED, or a record (R324, R144). -/
inductive Fault
  /-- Raised by no meaning; safe. -/
  | none
  deriving DecidableEq, Repr

/-- The reasons a step is refused. -/
inductive Refusal
  /-- Raised only by an arm of exec for an instruction without a meaning; safe: the machine stops. -/
  | notModelled (mnemonic : String)
  deriving DecidableEq, Repr

/-- A byte memory: addresses strictly rising, no byte 0; an unlisted address reads 0 (log entry 6). -/
abbrev Memory := List Host.Cell

/-! ## Streams -/

/-- Lane states (R29, R89). -/
inductive LaneState | ready | replyWait | maskWait | rvWait | exited
  deriving DecidableEq, Repr

/-- The trap codes of R324. -/
inductive Trap
  | illegalPacket | illegalOpcode | illegalOperand | badTarget | latchStale | illegalConvergence | maskDeadlock
  | scratchBounds | nearBounds | misaligned | tileShape | accRange | rvBusy | rvOverflow | noncanon | rangeCross
  | permission | world | abOverrun | depthExceeded | software | brk
  deriving DecidableEq, Repr

/-- What happens before a point of a stream: a position in the modification order of every near byte of a package (R189), per
die, and per byte beyond that; per stream the highest number of a far atomic (R222), and per team that of a command (R220). -/
structure View where
  dies : List Nat
  bytes : Map Nat
  fars : Map Nat := []
  cmds : Map Nat := []
  deriving DecidableEq, Repr

/-- The release side that a write carries (R211, R212): its scope, the dies it covers at die scope, who made it, and the
view it releases. -/
structure Release where
  scope : Scope
  dies : List Nat
  port : Nat
  team : Nat
  view : View
  deriving DecidableEq, Repr

/-- The destination of a result in flight: a register, or a predicate. -/
inductive Dest | reg (n : Nat) | pred (n : Nat)
  deriving DecidableEq, Repr

/-- A result not yet visible (R67): the cycle from which it is, its destination, one value per lane that is written, and
the flag it holds (R68). -/
structure PendWrite (w : Nat) where
  at_ : Nat
  pkt : Nat
  dest : Dest
  flag : Option Nat
  vals : List (Option (BitVec w))
  deriving DecidableEq, Repr

/-- A bypass latch (R80): one value per lane; the lanes whose producer is in the packet being issued, in the packet issued
before it, or a trap record (R325); and how many variable-latency producers are outstanding. -/
structure Latch (w : Nat) where
  vals : List (BitVec w)
  cur : Word
  prev : Word
  recd : Word
  deriving DecidableEq, Repr

/-- A latch result that its chain may not see yet (R65). -/
structure LatchWrite (w : Nat) where
  pipe : Nat
  vals : List (Option (BitVec w))
  lanes : Word
  deriving DecidableEq, Repr

/-- The packet being issued (R65): its control word, the slot it was entered at, the current slot, the lanes still in
it, the literal of the current slot; as the current chain began, the number of the stream's next access, whether an
acquire held it, when it had issued last and the producers of its M latch; and whether it is what is left of a packet (R73). -/
structure Pkt where
  entry : Nat
  pc : Nat
  cw : Nat
  ex : Word
  lit : Word
  mark : Nat
  acq : Bool
  last : Nat
  owner : List Nat
  rest : Bool
  deriving DecidableEq, Repr

/-- A slot held at issue (R73): its offset, its lanes, the cycle it began to wait, what it waits with, and whether its own
instruction waits (and not a paused speculation, R200). -/
structure Hold where
  pc : Nat
  ex : Word
  since : Nat
  pair : List Byte
  own : Bool
  deriving DecidableEq, Repr

/-- Handler mode (R325, R327): the handler lanes, the return point, the shadow latches with the packet that trapped and the
M-latch producers of before; the registers, predicates and masks as they are without the handler; and where what trapped is the
rest of a packet, its offset. -/
structure Handler (w : Nat) where
  lanes : Word
  epc : Nat
  shadow : List (Latch w)
  pkt : Nat
  owner : List Nat
  regs : Map (List (BitVec w))
  preds : List Word
  masks : List Word
  mid : Option Nat
  deriving DecidableEq, Repr

/-- Kinds of local access (R291, R296). -/
inductive AccKind | load | store | atomic
  deriving DecidableEq, Repr

/-- An outstanding scratchpad or near access of a stream (R111, R295, R299): the cycle of its issue, lanes with their
addresses, data (of a load, the bytes that a speculation's buffer gives it: R201), what has been read, and the 16-byte rows not
yet served. Near addresses are package near addresses. -/
structure Access where
  id : Nat
  at_ : Nat
  near : Bool
  kind : AccKind
  size : Nat
  lanes : List (Nat × Nat)
  data : Map Nat
  expect : Map Nat
  aop : Aop
  dest : Option Nat
  signed : Bool
  got : Map Nat
  flag : Option Nat
  pkt : Nat
  latch : Bool
  rows : List Nat
  acquire : Option Scope
  rels : List Release
  seen : List Release
  drain : Bool := false
  deriving DecidableEq, Repr

/-- A near store that is not yet published (R189). -/
structure PendStore where
  seq : Nat
  addr : Nat
  bytes : List Byte
  deriving DecidableEq, Repr

/-- A checkpoint (R199). -/
structure Checkpoint (w : Nat) where
  regs : Map (List (BitVec w))
  preds : List Word
  latches : List (Latch w)
  masks : List Word
  vpc : List Nat
  lst : List LaneState
  waits : List Nat
  goesOn : List Nat
  deriving DecidableEq, Repr

/-- Stages of a speculation (R199, R202); `conflicted` lasts for the cycle of a conflict, in which a completion still counts
(R203). -/
inductive SpecStage | wanted | running | conflicted | rolling
  deriving DecidableEq, Repr

/-- A speculation past a rendezvous (R199 to R202): the point, the checkpoint, the blocks it holds, the store buffer of
16-byte rows with the bytes present, the lines read, whether it is paused, whether the rendezvous completed while it was
rolling back, and whose writes conflicted with it in the cycle of a conflict (an engine's: none). -/
structure Spec (w : Nat) where
  rv : Nat
  stage : SpecStage
  ckpt : Checkpoint w
  blocks : Nat
  buf : List (Nat × List (Option Byte))
  lines : List Nat
  paused : Bool
  passed : Bool
  writers : List (Option Sel)
  deriving DecidableEq, Repr

/-- A stream (R25, R84): a group (32-bit values, 32 lanes) or the control thread (64-bit values, one lane). `goesOn` is where each
waiting lane goes on, past the chain in which it came to wait (R65); `mid` the slot at which the rest of a packet is to be entered
(R73); `bypass` the last cycle of its hold of R44, or of a control thread the cycle after its YIELD (R321); `ready` since when its next
slot, a consuming SIGWAIT, qualifies for issue and has not been tried (R317). -/
structure Stream (w : Nat) where
  n : Nat
  regs : Map (List (BitVec w))
  blocks : Nat
  preds : List Word
  vpc : List Nat
  lst : List LaneState
  waits : List Nat
  goesOn : List Nat
  masks : List Word
  flags : List Nat
  latches : List (Latch w)
  latchNew : List (LatchWrite w)
  pend : List (PendWrite w)
  lastIssue : Nat
  pktNo : Nat
  pkt : Option Pkt
  hold : Option Hold
  handler : Option (Handler w)
  acc : List Access
  accNext : Nat
  mOwner : List Nat
  killed : List (Nat × Nat × Nat × Word)
  engPkt : Nat
  view : View
  stores : List PendStore
  acqHeld : Bool
  relFences : List Release
  acqReads : List Release
  spec : Option (Spec w)
  slot : Nat
  started : Bool
  halted : Bool
  light : Bool
  pptLive : Option Word
  bypass : Option Nat
  mid : Option Nat
  ready : Option Nat
  deriving DecidableEq, Repr

/-! ## Teams and grids -/

/-- An entry of a team queue (R131, R132): value, the cycle from which it is visible, the view its pair carries; and, until the release
of R195 has taken effect, below which number the accesses of the pushing thread are that it waits for. -/
structure QEntry where
  val : Word
  from_ : Nat
  view : View
  after : Option Nat := none
  deriving DecidableEq, Repr

/-- A signal flag (R94), the cycle from which it is seen set (R196), the view its pairs carry (R193), the waiters in order of
arrival. -/
structure SigFlag where
  set : Bool
  from_ : Nat
  view : View
  waiters : List Sel
  deriving DecidableEq, Repr

/-- A rendezvous point (R97): E, A, the streams that have arrived, the waiters, the view of the arrivals, and the groups that
have rolled back and speculate no more until it completes (R180). -/
structure Rv where
  expect : Nat
  arrived : Nat
  who : List Sel
  waiters : List Sel
  view : View
  rolled : List Sel
  deriving DecidableEq, Repr

/-- A timeline (R171, R172): ISSUED, DONE, completed numbers above DONE, number and code of the first failure. -/
structure Timeline where
  issued : Nat
  done : Nat
  ahead : List Nat
  failNo : Nat
  failCode : Nat
  deriving DecidableEq, Repr

/-- A window (R173). -/
structure Window where
  allow : Nat
  outst : Nat
  cls : Nat
  err : Bool
  deriving DecidableEq, Repr

/-- States of an arrival barrier (R175). -/
inductive AbState | idle | armed | fired
  deriving DecidableEq, Repr

/-- An arrival barrier (R175). -/
structure Barrier where
  state : AbState
  expect : Nat
  count : Nat
  depc : Option Nat
  err : Bool
  ovr : Bool
  view : View
  deriving DecidableEq, Repr

/-- Where a team stands: on a core, reserved for a span grid (R51), saved in a frame for a reason (R54, R107), or retired. -/
inductive TeamPlace | resident | reserved | saved (frame reason : Nat) | retired
  deriving DecidableEq, Repr

/-- A preemption in progress (R53, R56): urgent or cooperative, its reason (R107), the cycle of the request. -/
structure Preempt where
  coop : Bool
  reason : Nat
  since : Nat
  at_ : Nat
  deriving DecidableEq, Repr

/-- What a matrix queue entry does (R138, R330 to R335). -/
inductive MatOp
  | mma (fmt : Fmt) (acc : Nat) (ta tb : Nat) (sel : Nat) (sa sb : List Nat)
  | tld (t : Nat) (base stride : Nat) (tr : Bool)
  | tst (t : Nat) (base stride : Nat) (tr : Bool)
  | accz (acc n : Nat)
  | accrd (acc t : Nat) (r : Rnd) (sat : Bool)
  | accwr (acc t : Nat)
  | accadd (acc t : Nat)
  | tzero (t : Nat)
  deriving DecidableEq, Repr

/-- An entry of a matrix engine queue (R138): its team and group, the shapes captured, its tl1 number and flag. -/
structure MatEntry where
  team : Nat
  g : Nat
  op : MatOp
  shapes : List Word
  num : Nat
  flag : Option Nat
  seq : Nat
  after : Nat := 0
  deriving DecidableEq, Repr

/-- A team (R25); `listed` marks a saved team that has re-entered the placement list (R41);
`mats` holds the matrix steps of a saved team (R53); `stuck` counts the cycles in a row in which it waits on a held fault (R58);
`mxErrs` the errors of the current cycle, and `mxOld` sr.mxerr before them
(R104). -/
structure Team where
  grid : Nat
  tid : Nat
  port : Nat
  part : Nat
  core : Nat
  slot : Nat
  place : TeamPlace
  since : Nat
  ctl : Stream 64
  grps : Map (Stream 32)
  queues : List (List QEntry)
  sigs : List SigFlag
  rvs : List Rv
  tiles : Memory
  tsh : List Word
  acc : Memory
  accDecl : Nat
  scratch : Memory
  lrbase : DWord
  pptto : DWord
  ltrapvec : DWord
  ctrapvec : DWord
  mxerr : DWord
  mxOld : DWord
  mxErrs : List (List Nat)
  chansel : DWord
  lagesel : DWord
  tls : List Timeline
  wins : List Window
  abs : List Barrier
  specCounts : List Nat
  evMask : Nat
  evs : Nat
  evCycle : Nat
  preempt : Option Preempt
  listed : Bool
  stuck : Nat
  mats : List MatEntry
  errs : List (Nat × Nat × Nat)
  rels : List (Nat × List Release)
  deriving DecidableEq, Repr

/-- A grid (R25, R41): its launch packet, the parent, where its completion goes, progress, status once ended; for a span its
generation (0 until it is known), the issuing port and the anchor module (R51). -/
structure Grid where
  port : Nat
  part : Nat
  num : Nat
  depth : Nat
  parent : Option Nat
  qi : Option Nat
  fn : Nat
  packet : List Byte
  pasid : Nat
  crec : Nat
  order : Nat
  placed : Nat
  placing : Bool
  status : Option Nat
  retired : Bool
  span : Option (Nat × Nat × Nat)
  reports : List (Nat × Nat)
  go : Bool
  view : View
  deriving DecidableEq, Repr

/-- A packet in a launch queue or hold set (R39, R140); `copy` names the generation, issuing port and anchor module of a copy of a
span launch (R51). -/
structure Queued where
  packet : List Byte
  order : Nat
  qi : Option Nat
  fn : Nat
  parent : Option Nat
  depth : Nat
  pasid : Nat
  prio : Nat
  held : Option Nat
  view : View
  copy : Option (Nat × Nat × Nat) := none
  deriving DecidableEq, Repr

/-! ## Cores and the matrix engine -/

/-- A line buffer (R341): its tag (team, X2, record 0 with ORG of its sliding dimension left out), and lines by coordinate. -/
structure LineBuf where
  tag : List Nat
  lines : Map (List Byte)
  deriving DecidableEq, Repr

/-- A core (R11): its cycle counter, the first issue port that has not issued in this cycle (0 to 3 the quads, 4 the control
port), the team slot that the control port served last (R45), matrix queue, engine queue (transfers in order), line buffers,
instruction lines, newest first. -/
structure Core where
  clk : Nat
  port : Nat
  lastCtl : Nat
  mq : List MatEntry
  eq_ : List Nat
  lbs : Map LineBuf
  icache : List (Nat × Nat × List Byte)
  deriving DecidableEq, Repr

/-! ## Transfers and the fabric -/

/-- Kinds of engine command that become transfers or module commands (R336). -/
inductive XKind | fetch | put | copyl | fetchr | gcreate | gready | gdestroy | fill | copyf
  deriving DecidableEq, Repr

/-- States of a grant request entry (R232). -/
inductive ReqState | active | frozen | purging
  deriving DecidableEq, Repr

/-- A pull token (R227, R231): its number, chunks covered from a first one on, bytes not yet used, when its timer started. -/
structure Token where
  id : Nat
  bytes : Nat
  start : Nat
  deriving DecidableEq, Repr

/-- A grant request entry (R139, R232); `born` is the tick of 1 µs in which its age began, `frozenAt` when it was frozen or began
to purge. -/
structure Req where
  state : ReqState
  remaining : Nat
  born : Nat
  tokens : List Token
  expiries : Nat
  frozenAt : Nat
  deferred : Bool
  deriving DecidableEq, Repr

/-- An engine command after issue (R136, R226, R336): its operands and records; the instruction that issued it; the bytes
it is accounted for; the index values, the element numbers that are sent, what is landed locally; then progress: chunks
still to send, landed, and set aside for a fault with their page; tokens at the source and the request at the receiver;
the status of a module command, the status to come, and whether it is complete; the far atomics that happen before its issue (R218), and
whether its team has been saved since (R305). -/
structure Xfer where
  kind : XKind
  team : Nat
  grid : Nat
  port : Nat
  part : Nat
  core : Nat
  lmod : Nat
  pmod : Nat
  tenant : Nat
  pasid : Nat
  secure : Bool
  x1 : DWord
  x2 : DWord
  rec0 : List Byte
  rec1 : List Byte
  lr : Nat
  ab : Nat
  win : Nat
  cls : Nat
  tl : Nat
  num : Nat
  flag : Option Nat
  pkt : Nat
  insn : Nat
  dest : Nat
  bytes : Nat
  unacct : Nat
  indices : List Nat
  sent : List Nat
  vals : List Nat
  local_ : List Nat
  kept : Map (List Byte)
  started : Bool
  atSource : Bool
  todo : List Nat
  landed : List Nat
  held : List (Nat × Nat)
  tokens : List Token
  rearmed : Bool
  rts : Option Nat
  req : Option Req
  status : Option Nat
  pend : Nat
  done : Bool
  queued : Bool
  view : View
  rels : List Release
  seq : Nat
  fars : Map Nat := []
  saved : Bool := false
  deriving DecidableEq, Repr

/-- Messages of a channel or a management channel (R388, R389), and chunks of data with the token that covers them and the request to
send that they carry: remaining bytes and grant class. A request to send in an inbox says whether it came in a chunk of its own. -/
inductive Msg
  | data (x j : Nat) (bytes : List Byte) (token : Option Nat) (rts : Option (Nat × Nat))
  | readReq (x : Nat)
  | rearm (x : Nat) (remaining : Nat)
  | rts (x remaining cls : Nat) (own : Bool)
  | token (x : Nat) (k : Token)
  | tokenBack (x k : Nat)
  | expiry (x k : Nat)
  | deferred (x : Nat)
  | farReq (i : Nat)
  | farRep (i : Nat)
  | engm (x : Nat)
  | engmDone (x : Nat) (status : Nat) (handle : DWord)
  | span (packet : List Byte) (part port : Nat) (grid : Nat)
  | copy (g part port grid : Nat) (packet : List Byte)
  | ack (g port : Nat)
  | refuse (g port : Nat)
  | go (g : Nat)
  | abort (g : Nat)
  | retired (g issuer port status : Nat)
  | revoke (part pasid : Nat) (idx : Nat)
  | enable (part pasid : Nat) (idx : Nat)
  | revokeDone (idx : Nat)
  | enableDone (idx : Nat)
  | access (o : Nat) (x : HostAccess) (fw : Bool)
  | readBack (bytes : List Byte)
  | recommission (part : Nat)
  deriving DecidableEq, Repr

/-- An acknowledgement flit (R178, R179, R235). -/
structure AckFlit where
  ack : Nat
  freed : Nat
  used : Nat
  nak : Bool
  deriving DecidableEq, Repr

/-- States of an optical lane (R237); a locking lane has its spare and the time it began, a dead or failed lane the laser
that last carried it. -/
inductive Lane
  | ok
  | locking (spare since failed : Nat)
  | spare (k : Nat)
  | dead (failed : Nat)
  deriving DecidableEq, Repr

/-- What triggers a resume (R238, R384): planes whose lanes changed, each with its state before and after; a plane that joined or left
the channel; the end of a retrain. -/
inductive Trigger
  | lanes (changes : List (Nat × Lane × Lane))
  | plane (k : Nat) (joined : Bool)
  | retrained
  deriving DecidableEq, Repr

/-- An entry of the resume trace (R384): its number, when and why, ACK, the counts FREED and USED of sender and receiver before the
exchange, those adopted, q0, the live set, the first number after the chunks that its replay ends with (none when numbers have restarted, or
a later replay has begun before this one sent a chunk), how many have been replayed and how many duplicates of that replay were
discarded, and when ACK passed the last chunk replayed. -/
structure Resumed where
  num : Nat
  time : Nat
  why : Trigger
  ack : Nat
  sender : Nat × Nat
  receiver : Nat × Nat
  adopted : Nat × Nat
  q0 : Nat
  live : List Nat
  upTo : Option Nat
  replayed : Nat
  discarded : Nat
  passed : Option Nat
  deriving DecidableEq, Repr

/-- One channel direction (R223): sender, fabric and receiver; a chunk under way has its plane, its number and the resume whose replay
sent it; `rxUsed` is USED as the receiver holds it (R179), and counts already the `ahead` numbers from `expect` on that an exchange has
adopted; `slots` counts the ingress slots that are offered and not yet free again
(R236), `why` is the trigger of the resume in progress, `resumes` counts the resumes completed, `replay` is the resume whose replay
goes on, `trace` the last 16 resumes, newest first (R384). -/
structure Link where
  next : Nat
  ack : Nat
  freed : Nat
  used : Nat
  q0 : Nat
  retry : List (Nat × Msg)
  outq : List Msg
  ackAt : Nat
  sendFrom : Nat
  flights : List (Nat × Nat × Msg × Option Nat)
  expect : Nat
  heldBack : List (Nat × Msg)
  offered : Nat
  rxUsed : Nat
  ahead : Nat
  slots : Nat
  gapAt : Option Nat
  flitAt : Nat
  flits : List AckFlit
  replays : List Nat
  resume : Option Nat
  why : Trigger
  retrain : Option Nat
  down : Bool
  resumes : Nat
  replay : Option Nat
  trace : List Resumed
  deriving DecidableEq, Repr

/-- A laser (R181): seconds lit, drift, aged; a spare that is out of service. -/
structure Laser where
  ontime : Nat
  drift : Int
  aged : Bool
  out : Bool
  deriving DecidableEq, Repr

/-- A far atomic on one location (R300): its lanes with operand and expected value, how far it has come, whether its reply
waits for a saved team, and when the teardown of its context began (R55). -/
structure FarReq where
  team : Nat
  sel : Sel
  grid : Nat
  port : Nat
  part : Nat
  pmod : Nat
  lmod : Nat
  tenant : Nat
  pasid : Nat
  secure : Bool
  addr : Nat
  aop : Aop
  lanes : List (Nat × Nat × Nat)
  dest : Option Nat
  ret : Bool
  flag : Option Nat
  insn : Nat
  pkt : Nat
  performed : Bool
  vals : Map Nat
  rels : List Release
  acquire : Option Scope
  seen : List Release
  arrived : Bool
  reserved : Option Nat
  deriving DecidableEq, Repr

/-! ## Modules -/

/-- A reduction group (R166, R346). -/
structure Group where
  port : Nat
  part : Nat
  pasid : Nat
  n : Nat
  ifmt : Nat
  tmo : Nat
  len : Nat
  bases : List Nat
  ready : List Nat
  born : Nat
  err : Bool
  stopped : Option Nat
  rels : List Release
  deriving DecidableEq, Repr

/-- A token bucket (R168); LEVEL is signed, what is written waits for the next window (R150); byte 15 stands above FLAGS. -/
structure Bucket where
  rate : Nat
  burst : Nat
  level : Int
  port : Nat
  part : Nat
  flags : Nat
  newRate : Nat
  newBurst : Nat
  newPort : Nat
  newPart : Nat
  newFlags : Nat
  deriving DecidableEq, Repr

/-- A cached translation (R215): context, page of the input address, page of the module, permissions of both stages. -/
structure TlbEntry where
  port : Nat
  part : Nat
  pasid : Nat
  va : Nat
  size : Nat
  pa : Nat
  perms : Nat
  deriving DecidableEq, Repr

/-- A generation of a launch mailbox (R141), with the arrival of each acknowledgement (R380); `ended` once its go or abort is on its way
to the packages; `start` is when its replication was complete (R52). -/
structure MailEntry where
  g : Nat
  packet : List Byte
  part : Nat
  port : Nat
  grid : Nat
  acks : List (Nat × Nat)
  start : Option Nat
  ended : Bool
  deriving DecidableEq, Repr

/-- A memory module (R22); `past` holds what each write to it replaced, newest first, and `fenceAt`, per partition, how many writes
its last translation fence covers (R215), `mailDue` the span launches on their way to its mailbox (R141); `wmAct` and `wmMem` are the world map's base and the memory as of the last window (R150). -/
structure Module where
  mem : Memory
  past : List (Nat × List Byte)
  fenceAt : Map Nat
  tlb : List TlbEntry
  roots : Map (DWord × DWord)
  revoked : List (Nat × Nat × Nat)
  buckets : Map Bucket
  wmbase : DWord
  wmAct : DWord
  wmMem : Memory
  hotctl : Nat
  rings : Map (DWord × DWord)
  ringIdx : Map (Nat × Nat)
  accCount : Map Nat
  managers : DWord
  inbox : List (Nat × Nat × Msg)
  waiting : List (Nat × Nat × Msg)
  groups : Map Group
  table : List Nat
  mail : List MailEntry
  gNext : Nat
  mailDue : Nat
  lasers : Map Laser
  counts : Map Nat
  rels : List (Nat × List Release)
  refillAt : Nat
  deriving DecidableEq, Repr

/-! ## Packages and partitions -/

/-- A write in the modification order of near memory (R209): position, bytes written and replaced, the team to which it is
published at team scope only, the agent and its store number; the release that a completion record carries (R214). -/
structure NearWrite where
  pos : Nat
  addr : Nat
  new : List Byte
  old : List Byte
  only : Option Nat
  agent : Option (Nat × Sel)
  seq : Nat
  rels : List Release := []
  deriving DecidableEq, Repr

/-- What an access held by the fault queue is (R127); a code fetch has the module and the tenant that the module map gave it (R154), and
the world in which it was issued (R150). -/
inductive Faulted
  | command (x : Nat)
  | far (i : Nat)
  | code (grid core line mod tenant : Nat) (secure : Bool)
  deriving DecidableEq, Repr

/-- A fault record (R144) on its way or in its place, and the access it holds. -/
structure FaultRec where
  cause : Nat
  source : Nat
  count : Nat
  held : Option Faulted
  pasid : Nat
  addr : Nat
  grid : Nat
  tid : Nat
  lmod : Nat
  tl : Nat
  num : Nat
  time : Nat
  page : Nat
  deriving DecidableEq, Repr

/-- A partition of a package (R362). -/
structure Part where
  pctl : DWord
  weight : Nat
  quantum : Nat
  nearMap : Map DWord
  saveMap : Map DWord
  fqBase : DWord
  fqHead : Word
  fqTail : Word
  fqRecs : Map FaultRec
  fqWait : List FaultRec
  erBase : DWord
  erHead : Word
  erTail : Word
  erLost : Nat
  depc : Map (BitVec 16)
  modMap : Map Word
  gridCtr : Nat
  queue : List Queued
  placement : List Nat
  frames : List (Nat × Nat × Nat)
  meters : Map Nat
  resetMask : BitVec 256
  resetSeen : Bool
  snapNo : Nat
  snap : List Byte
  chain : List Byte
  counts : Map Nat
  caphead : DWord
  got : Nat
  deriving DecidableEq, Repr

/-- A queue interface (R142, R355); `tails` holds the accepted tail counts with the near position each releases (R214). -/
structure Qi where
  sub : DWord
  comp : DWord
  en : Bool
  part : Nat
  fn : Nat
  log2 : Nat
  head : Word
  tail : Word
  chead : Word
  reserved : Word
  written : Word
  level : Nat
  ignored : Nat
  tails : List (Word × Nat)
  deriving DecidableEq, Repr

/-- States of a virtual function (R359). -/
inductive VfState | off | running | paused | descheduled | draining
  deriving DecidableEq, Repr

/-- A virtual function (R359): state, generation, pending vectors, dropped interrupts, when its teardown began. -/
structure Vf where
  state : VfState
  gen : BitVec 16
  pending : DWord
  dropped : Nat
  since : Nat
  deriving DecidableEq, Repr

/-- A translation fence in progress (R215). -/
structure Fence where
  id : Nat
  port : Nat
  part : Nat
  mods : List Nat
  team : Option Nat
  deriving DecidableEq, Repr

/-- A package (R8); `fused` lists the cores that are fused off or retired, as 64 × die + position (R9); `clash` the slices whose
remap entry named a position that another slice already named (R151); an entry of `allocWait`
has the grant requests that were active when it was written and are not complete, none where there were none (R153); `pasidWait` counts the modules that a PASID entry waits for (R357), `aborts` holds the generations whose
abort came before their copy (R52), `spansHeld` the span launches that wait for a place in a mailbox (R141): packet, partition, GRID
number, anchor module. -/
structure Pkg where
  up : Bool
  near : Memory
  hist : List NearWrite
  pos : Nat
  hostPos : Nat
  nearRels : List (Nat × List Release)
  errs : List (Nat × Nat)
  fused : List Nat
  remap : Map (List Byte)
  clash : List Nat
  secSlices : Word
  secQis : List Nat
  alloc : Map (BitVec 16)
  allocWait : List (Nat × Nat × BitVec 16 × Option (List Nat))
  pasids : Map DWord
  irt : Map DWord
  qis : Map Qi
  vfs : Map Vf
  parts : Map Part
  farwin : Map DWord
  tfBusy : Option Nat
  preemptBusy : Option Nat
  pasidWait : Map Nat
  aborts : List (Nat × Nat)
  spansHeld : List (List Byte × Nat × Nat × Nat)
  chanBusy : Option (Nat × Nat)
  cap : Nat
  floor : Nat
  clocks : List Nat
  counts : Map Nat
  pfDropped : Nat
  table : List Nat
  round : List Nat
  inbox : List (Nat × Nat × Msg)
  lasers : Map Laser
  gbuf : List Byte
  gridsOrder : Nat
  deriving DecidableEq, Repr

/-- What the last slot came to, for the check of a whole packet at issue (R73): it is over, it trapped, it is held, its chain
cannot issue yet (R66), or it needs the line of an offset of the code (R122). -/
inductive SlotEnd | none | trapped (t : Trap) (imm : Nat) (addrs : List Nat) | held | waits | noLine (o : Nat)
  deriving DecidableEq, Repr

/-- A DMA access of a package (R351): port, the function whose requester ID it carries, whether it writes, address, bytes. -/
structure Dma where
  port : Nat
  fn : Nat
  write : Bool
  addr : Nat
  len : Nat
  deriving DecidableEq, Repr

/-- An act of the outside world or of the machine's own schedule (log entry 1): an issue, an event of the opcode table, a cycle of
a core, a passage of time; and what no row of the table names: firmware retires a core (R9) or publishes a capability list
(R169), something is attached to a router port or taken from it (R17), a flit of a chunk arrives damaged (R224), a
package is re-commissioned (R181), the host reads a register (R353). -/
inductive Act
  | issue (t : Nat) (q : Sel)
  | event (i : Instr)
  | cycle (core : Nat)
  | time (ns : Nat)
  | retire (p die pos : Nat)
  | capabilities (p n : Nat) (head : DWord)
  | attach (port : Nat) (on : Bool)
  | badFlit (l : LinkId) (q flit : Nat)
  | recommission (p : Nat)
  | read (p bar fn o n : Nat)
  deriving DecidableEq, Repr

/-- The state of the domain; `dma` lists the accesses that the packages have made to host memory (R351), `dark` the router ports
with nothing attached (R17). -/
structure State where
  now : Nat
  agenda : List Act
  curTeam : Nat
  curSel : Sel
  slotEnd : SlotEnd
  freeCount : Nat
  teams : Map Team
  grids : Map Grid
  cores : Map Core
  pkgs : Map Pkg
  mods : Map Module
  links : List (LinkId × Link)
  lanes : List ((Nat × Nat × Nat × Bool) × Lane)
  xfers : Map Xfer
  fars : Map FarReq
  fences : List Fence
  nextTeam : Nat
  nextGrid : Nat
  nextXfer : Nat
  nextFar : Nat
  nextId : Nat
  host : Memory
  dma : List Dma
  msix : List (Nat × Nat × Nat)
  dark : List Nat
  hostRead : List Byte
  spdm : List Byte
  deriving DecidableEq, Repr

/-- The machine right after reset, before power-good: nothing placed, nothing commissioned. An absent entry of a table
stands for its reset value, which Machine/Ops.lean gives (Pkg.blank, Module.blank, Part.blank and so on). -/
def State.reset : State where
  now := 0
  agenda := []
  curTeam := 0
  curSel := .ctl
  slotEnd := .none
  freeCount := 0
  teams := []
  grids := []
  cores := []
  pkgs := []
  mods := []
  links := []
  lanes := []
  xfers := []
  fars := []
  fences := []
  nextTeam := 1
  nextGrid := 1
  nextXfer := 1
  nextFar := 1
  nextId := 1
  host := []
  dma := []
  msix := []
  dark := []
  hostRead := []
  spdm := []

end Sys2Proof.Machine
end

