-- ==== Sys2Proof/Machine/Ops.lean ====
section
/-! DEFINITION. Reset values of the parts of the machine, the named operations over memory, registers and streams, and
taking a trap and returning from one. -/
namespace Sys2Proof.Machine

/-- The outcome of a meaning. -/
abbrev Out := Host.Outcome State Fault Refusal

/-! ## Values at reset and at placement -/

/-- A view that has seen nothing. -/
def View.none : View := { dies := copies 8 0, bytes := [] }

/-- The vector of a stream without a handler (R103). -/
def noVector : Nat := 0xFFFFFFFF

/-- A latch at placement: value 0, not valid (R85). -/
def Latch.blank (w n : Nat) : Latch w := { vals := copies n 0, cur := 0, prev := 0, recd := 0 }

/-- A stream at placement (R85), with its lane count, held blocks and entry offset. -/
def Stream.blank (w n blocks entry : Nat) : Stream w where
  n := n
  regs := []
  blocks := blocks
  preds := copies n 1
  vpc := copies n entry
  lst := copies n .ready
  waits := copies n 0
  goesOn := copies n entry
  masks := copies 12 0
  flags := copies 12 0
  latches := copies 4 (Latch.blank w n)
  latchNew := []
  pend := []
  lastIssue := 0
  pktNo := 0
  pkt := none
  hold := none
  handler := none
  acc := []
  accNext := 1
  mOwner := copies n 0
  killed := []
  engPkt := 0
  view := View.none
  stores := []
  acqHeld := false
  relFences := []
  acqReads := []
  spec := none
  slot := 0
  started := false
  halted := false
  light := false
  pptLive := none
  bypass := none
  mid := none
  ready := none

/-- A timeline, a window, a barrier, a flag and a point at placement (R171, R173, R175, R85). -/
def Timeline.blank : Timeline := { issued := 0, done := 0, ahead := [], failNo := 0, failCode := 0 }
/-- A window at placement (R173). -/
def Window.blank : Window := { allow := 0x100000, outst := 0, cls := 0, err := false }
/-- A barrier at placement (R175). -/
def Barrier.blank : Barrier :=
  { state := .idle, expect := 0, count := 0, depc := none, err := false, ovr := false, view := View.none }
/-- A signal flag at placement (R85). -/
def SigFlag.blank : SigFlag := { set := false, from_ := 0, view := View.none, waiters := [] }
/-- A rendezvous point at placement (R85). -/
def Rv.blank : Rv := { expect := 0, arrived := 0, who := [], waiters := [], view := View.none, rolled := [] }

/-- A team that has not been placed: no lane of it executes. -/
def Team.blank : Team where
  grid := 0
  tid := 0
  port := 0
  part := 0
  core := 0
  slot := 0
  place := .retired
  since := 0
  ctl := { Stream.blank 64 1 0 0 with lst := [.exited] }
  grps := []
  queues := copies 4 []
  sigs := copies 16 SigFlag.blank
  rvs := copies 24 Rv.blank
  tiles := []
  tsh := copies 16 0x0007101F
  acc := []
  accDecl := 0
  scratch := []
  lrbase := 0
  pptto := 0x4E20
  ltrapvec := 0xFFFFFFFF
  ctrapvec := 0xFFFFFFFF
  mxerr := 0
  mxOld := 0
  mxErrs := []
  chansel := 0
  lagesel := 0
  tls := copies 3 Timeline.blank
  wins := copies 8 Window.blank
  abs := copies 16 Barrier.blank
  specCounts := copies 4 0
  evMask := 0
  evs := 0
  evCycle := 0
  preempt := none
  listed := false
  stuck := 0
  mats := []
  errs := []
  rels := []

/-- A grid that was never accepted. -/
def Grid.blank : Grid where
  port := 0
  part := 0
  num := 0
  depth := 0
  parent := none
  qi := none
  fn := 0
  packet := copies 64 0
  pasid := 0
  crec := 0
  order := 0
  placed := 0
  placing := false
  status := none
  retired := false
  span := none
  reports := []
  go := false
  view := View.none

/-- A core at reset (R11). R45 does not say which team slot the control port serves first: slot 0, as after slot 7 (DESIGN CHOICE, log
entry 5). -/
def Core.blank : Core := { clk := 0, port := 0, lastCtl := 7, mq := [], eq_ := [], lbs := [], icache := [] }

/-- A partition that has not been set up (R365). -/
def Part.blank : Part where
  pctl := 0
  weight := 0
  quantum := 0
  nearMap := []
  saveMap := []
  fqBase := 0
  fqHead := 0
  fqTail := 0
  fqRecs := []
  fqWait := []
  erBase := 0
  erHead := 0
  erTail := 0
  erLost := 0
  depc := []
  modMap := []
  gridCtr := 1
  queue := []
  placement := []
  frames := []
  meters := []
  resetMask := 0
  resetSeen := false
  snapNo := 0
  snap := []
  chain := copies 48 0
  counts := []
  caphead := 0
  got := 0

/-- A queue interface at reset (R355). -/
def Qi.blank : Qi where
  sub := 0
  comp := 0
  en := false
  part := 0
  fn := 0
  log2 := 4
  head := 0
  tail := 0
  chead := 0
  reserved := 0
  written := 0
  level := 0
  ignored := 0
  tails := []

/-- A virtual function at reset (R359). -/
def Vf.blank : Vf := { state := .off, gen := 0, pending := 0, dropped := 0, since := 0 }

/-- A package at reset; the remap table is unassigned and positions 48 to 51 of each die are fused off (log entry 5). -/
def Pkg.blank : Pkg where
  up := false
  near := []
  hist := []
  pos := 0
  hostPos := 0
  nearRels := []
  errs := []
  fused := (List.range 8).flatMap (fun d => [64 * d + 48, 64 * d + 49, 64 * d + 50, 64 * d + 51])
  remap := []
  clash := []
  secSlices := 0
  secQis := []
  alloc := []
  allocWait := []
  pasids := []
  irt := []
  qis := []
  vfs := []
  parts := []
  farwin := []
  tfBusy := none
  preemptBusy := none
  pasidWait := []
  aborts := []
  spansHeld := []
  chanBusy := none
  cap := 3600
  floor := 12
  clocks := copies 8 21
  counts := []
  pfDropped := 0
  table := []
  round := copies 32 0
  inbox := []
  lasers := []
  gbuf := []
  gridsOrder := 0

/-- A token bucket at reset: invalid (log entry 5). -/
def Bucket.blank : Bucket :=
  { rate := 0, burst := 0, level := 0, port := 0, part := 0, flags := 0, newRate := 0, newBurst := 0,
    newPort := 0, newPart := 0, newFlags := 0 }

/-- A laser at reset (R181). -/
def Laser.blank : Laser := { ontime := 0, drift := 0, aged := false, out := false }

/-- A module at reset. -/
def Module.blank : Module where
  mem := []
  past := []
  fenceAt := []
  tlb := []
  roots := []
  revoked := []
  buckets := []
  wmbase := 0
  wmAct := 0
  wmMem := []
  hotctl := 0
  rings := []
  ringIdx := []
  accCount := []
  managers := 0xFFFFFFFFFFFFFFFF
  inbox := []
  waiting := []
  groups := []
  table := []
  mail := []
  gNext := 1
  mailDue := 0
  lasers := []
  counts := []
  rels := []
  refillAt := 0

/-- A channel direction as commissioned (R371): numbers at 0, the receiver's first `n` ingress slots offered (R179). -/
def Link.blank (n : Nat) : Link where
  next := 0
  ack := 0
  freed := n
  used := 0
  q0 := 0
  retry := []
  outq := []
  ackAt := 0
  sendFrom := 0
  flights := []
  expect := 0
  heldBack := []
  offered := n
  rxUsed := 0
  ahead := 0
  slots := n
  gapAt := none
  flitAt := 0
  flits := []
  replays := []
  resume := none
  why := .lanes []
  resumes := 0
  replay := none
  retrain := none
  down := false
  trace := []

/-! ## Access to the parts of the state -/

/-- A team. -/
def State.team (s : State) (t : Nat) : Team := Map.get s.teams t Team.blank
/-- Replaces a team. -/
def State.setTeam (s : State) (t : Nat) (x : Team) : State := { s with teams := Map.set s.teams t x }
/-- A grid. -/
def State.grid (s : State) (g : Nat) : Grid := Map.get s.grids g Grid.blank
/-- Replaces a grid. -/
def State.setGrid (s : State) (g : Nat) (x : Grid) : State := { s with grids := Map.set s.grids g x }
/-- A core, keyed by package, die and position (R9). -/
def State.core (s : State) (c : Nat) : Core := Map.get s.cores c Core.blank
/-- Replaces a core. -/
def State.setCore (s : State) (c : Nat) (x : Core) : State := { s with cores := Map.set s.cores c x }
/-- A package, by its router port (R17). -/
def State.pkg (s : State) (p : Nat) : Pkg := Map.get s.pkgs p Pkg.blank
/-- Replaces a package. -/
def State.setPkg (s : State) (p : Nat) (x : Pkg) : State := { s with pkgs := Map.set s.pkgs p x }
/-- A module, by its physical number (R17). -/
def State.mod (s : State) (m : Nat) : Module := Map.get s.mods m Module.blank
/-- Replaces a module. -/
def State.setMod (s : State) (m : Nat) (x : Module) : State := { s with mods := Map.set s.mods m x }
/-- A partition of a package. -/
def State.part (s : State) (p n : Nat) : Part := Map.get (s.pkg p).parts n Part.blank
/-- Replaces a partition. -/
def State.setPart (s : State) (p n : Nat) (x : Part) : State :=
  s.setPkg p { s.pkg p with parts := Map.set (s.pkg p).parts n x }
/-- A queue interface. -/
def State.qi (s : State) (p q : Nat) : Qi := Map.get (s.pkg p).qis q Qi.blank
/-- Replaces a queue interface. -/
def State.setQi (s : State) (p q : Nat) (x : Qi) : State :=
  s.setPkg p { s.pkg p with qis := Map.set (s.pkg p).qis q x }
/-- A virtual function. -/
def State.vf (s : State) (p v : Nat) : Vf := Map.get (s.pkg p).vfs v Vf.blank
/-- Replaces a virtual function. -/
def State.setVf (s : State) (p v : Nat) (x : Vf) : State :=
  s.setPkg p { s.pkg p with vfs := Map.set (s.pkg p).vfs v x }
/-- Replaces a channel direction. -/
def State.setLink (s : State) (l : LinkId) (x : Link) : State :=
  { s with links := (l, x) :: s.links.filter (fun e => e.1 != l) }
/-- The lane of a plane in one direction (R19, R237); as commissioned it is OK, and it serves once its package is up. -/
def State.lane (s : State) (p m plane : Nat) (up : Bool) : Lane :=
  ((s.lanes.find? (fun e => e.1 = (p, m, plane, up))).map (fun e => e.2)).getD .ok
/-- Replaces a lane. -/
def State.setLane (s : State) (p m plane : Nat) (up : Bool) (x : Lane) : State :=
  { s with lanes := ((p, m, plane, up), x) :: s.lanes.filter (fun e => e.1 != (p, m, plane, up)) }
/-- The group of a team; an absent group has no lane that executes. -/
def Team.grp (t : Team) (g : Nat) : Stream 32 :=
  Map.get t.grps g { Stream.blank 32 32 0 0 with lst := copies 32 .exited }
/-- Replaces a group. -/
def Team.setGrp (t : Team) (g : Nat) (x : Stream 32) : Team := { t with grps := Map.set t.grps g x }
/-- Adds to a count that saturates at 2^32 − 1 (R183). -/
def Part.count (p : Part) (k : Nat) : Part :=
  { p with counts := Map.set p.counts k (min (Map.get p.counts k 0 + 1) 0xFFFFFFFF) }
/-- Adds to a package count. -/
def Pkg.count (p : Pkg) (k : Nat) : Pkg :=
  { p with counts := Map.set p.counts k (min (Map.get p.counts k 0 + 1) 0xFFFFFFFF) }
/-- Adds to a module count. -/
def Module.count (p : Module) (k : Nat) : Module :=
  { p with counts := Map.set p.counts k (min (Map.get p.counts k 0 + 1) 0xFFFFFFFF) }

/-- Numbers of the counts of R183, for the maps of partition, package and module. -/
def cntReplayIgnored : Nat := 0
/-- Ring head write ignored. -/
def cntHeadIgnored : Nat := 1
/-- Partition write ignored. -/
def cntPartIgnored : Nat := 2
/-- Fault record dropped. -/
def cntFaultDropped : Nat := 3
/-- Token issued. -/
def cntTokIssued : Nat := 4
/-- Token expired. -/
def cntTokExpired : Nat := 5
/-- Orphan purged. -/
def cntOrphan : Nat := 6
/-- Request to send refused. -/
def cntRtsRefused : Nat := 7
/-- Mailbox discard. -/
def cntMailDiscard : Nat := 8
/-- Remap write ignored. -/
def cntRemapIgnored : Nat := 9
/-- Counter underflow. -/
def cntUnderflow : Nat := 10
/-- Hotness samples dropped. -/
def cntHotDropped : Nat := 11
/-- Late reply discarded. -/
def cntLate : Nat := 12
/-- Host far-window fault. -/
def cntFarWindow : Nat := 13
/-- Management writes dropped at the module (R358). -/
def cntMgmtDropped : Nat := 14
/-- Other package register writes that are ignored and counted (R216, R356, R360, R364, R370). -/
def cntRegIgnored : Nat := 15

/-! ## Byte memories -/

/-- The byte at an address; an unlisted address reads 0. -/
def Memory.read : Memory → Nat → Byte
  | [], _ => 0
  | (k, v) :: m, a => if k = a then v else if a < k then 0 else Memory.read m a

/-- Puts a listed byte in front, unless it is 0. -/
def Memory.cell (a : Nat) (v : Byte) (m : Memory) : Memory := if v = 0 then m else (a, v) :: m

/-- Writes one byte, keeping the canonical form. -/
def Memory.write : Memory → Nat → Byte → Memory
  | [], a, v => Memory.cell a v []
  | (k, w) :: m, a, v =>
    if a < k then Memory.cell a v ((k, w) :: m)
    else if a = k then Memory.cell a v m
    else (k, w) :: Memory.write m a v

/-- The canonical form from a lower bound on: addresses strictly rising, no byte 0. -/
def Memory.wfFrom : Memory → Nat → Bool
  | [], _ => true
  | (k, v) :: m, lo => decide (lo ≤ k) && decide (v ≠ 0) && Memory.wfFrom m (k + 1)

/-- The canonical form of a byte memory. -/
def Memory.wf (m : Memory) : Bool := Memory.wfFrom m 0

/-- The `n` bytes from an address upward. -/
def Memory.readN (m : Memory) (a n : Nat) : List Byte := (List.range n).map (fun i => m.read (a + i))

/-- Writes bytes from an address upward. -/
def Memory.writeN : Memory → Nat → List Byte → Memory
  | m, _, [] => m
  | m, a, b :: l => Memory.writeN (Memory.write m a b) (a + 1) l

/-- A little-endian number of `n` bytes (R4). -/
def Memory.num (m : Memory) (a n : Nat) : Nat := ofBytes (m.readN a n)

/-- Clears a range of bytes. -/
def Memory.clear (m : Memory) (a n : Nat) : Memory := m.filter (fun c => c.1 < a || a + n ≤ c.1)

/-- sr.mxerr after an uncorrectable operand error of the matrix engine (R104): operand, block, tile, row, column within the
step. -/
def mxRecord (m : DWord) (e : List Nat) : DWord :=
  if m.getLsbD 63 then m ||| (1#64 <<< 62)
  else BitVec.ofNat 64 (2 ^ 63 + (if m.getLsbD 62 then 2 ^ 62 else 0) + e.getD 0 0 * 2 ^ 61 + e.getD 1 0 * 2 ^ 51 +
    e.getD 2 0 * 2 ^ 47 + e.getD 3 0 * 2 ^ 42 + e.getD 4 0 * 2 ^ 37)

/-! ## Lanes of a stream -/

/-- The lane numbers of a mask. -/
def lanesOf (m : Word) (n : Nat) : List Nat := (List.range n).filter (fun l => m.getLsbD l)

/-- The mask of the lanes with a property. -/
def maskOf (n : Nat) (f : Nat → Bool) : Word :=
  (List.range n).foldl (fun m l => if f l then m ||| (1#32 <<< l) else m) 0

/-- The state of a lane. -/
def Stream.laneState {w : Nat} (st : Stream w) (l : Nat) : LaneState := st.lst.getD l .exited
/-- The PC of a lane. -/
def Stream.pcOf {w : Nat} (st : Stream w) (l : Nat) : Nat := st.vpc.getD l 0xFFFFFFFF
/-- The lanes that have not exited. -/
def Stream.live {w : Nat} (st : Stream w) : Word := maskOf st.n (fun l => st.laneState l != .exited)
/-- Predicate k of a lane; p0 is true (R88). -/
def Stream.pred {w : Nat} (st : Stream w) (k l : Nat) : Bool := k == 0 || (st.preds.getD l 0).getLsbD k
/-- The value of a register in a lane. -/
def Stream.reg {w : Nat} (st : Stream w) (r l : Nat) : BitVec w := (Map.get st.regs r []).getD l 0
/-- The lanes executing the current packet (R30). -/
def Stream.ex {w : Nat} (st : Stream w) : Word := match st.pkt with | some k => k.ex | none => 0
/-- The offset of the current slot. -/
def Stream.pc {w : Nat} (st : Stream w) : Nat := match st.pkt with | some k => k.pc | none => 0
/-- The literal of the current slot (R69). -/
def Stream.lit {w : Nat} (st : Stream w) : Word := match st.pkt with | some k => k.lit | none => 0
/-- The flag that the current slot's SET names (R63, R68). -/
def Stream.setFlag {w : Nat} (st : Stream w) : Option Nat :=
  match st.pkt with
  | some k => let v := fld k.cw (20 - 4 * (k.pc / 4 % 4)) 4; if v < 12 then some v else none
  | none => none
/-- Whether LITMAP marks the slot after the current one as a literal (R63). -/
def Stream.litNext {w : Nat} (st : Stream w) : Bool :=
  match st.pkt with
  | some k => let q := k.pc / 4 % 4; (q == 1 && flag1 k.cw 0) || (q == 2 && flag1 k.cw 1)
  | none => false

/-- A packet as it is entered at an offset by some lanes. -/
def Pkt.enter (pc cw : Nat) (ex : Word) : Pkt :=
  { entry := pc, pc := pc, cw := cw, ex := ex, lit := 0, mark := 0, acq := false, last := 0, owner := [], rest := false }

/-- The offset of the slot after the one at `pc`, past a literal slot if there is one (R62). -/
def nextSlot (pc : Nat) (lit : Bool) : Nat :=
  let q := pc / 4 % 4 + (if lit then 2 else 1)
  if q ≤ 3 then pc / 16 * 16 + 4 * q else pc / 16 * 16 + 20

/-- Writes one lane's entry wherever a new value is given. -/
def overlay {α : Type} (n : Nat) (old : List α) (dflt : α) (new : List (Option α)) : List α :=
  (List.range n).map (fun l => match new.getD l none with | some v => v | none => old.getD l dflt)

/-- Writes a register at once. -/
def Stream.setReg {w : Nat} (st : Stream w) (r : Nat) (new : List (Option (BitVec w))) : Stream w :=
  { st with regs := Map.set st.regs r (overlay st.n (Map.get st.regs r []) 0 new) }

/-- Writes predicate k at once; p0 is never written (R88). -/
def Stream.setPred {w : Nat} (st : Stream w) (k : Nat) (new : List (Option Bool)) : Stream w :=
  if k = 0 then st else
  { st with preds := (List.range st.n).map (fun l =>
      let old := st.preds.getD l 1
      match new.getD l none with
      | some true => old ||| (1#32 <<< k)
      | some false => old &&& ~~~(1#32 <<< k)
      | none => old) }

/-- Raises a flag: one more holder (R68). -/
def Stream.raise {w : Nat} (st : Stream w) (f : Option Nat) : Stream w :=
  match f with
  | some k => { st with flags := setAt st.flags k (st.flags.getD k 0 + 1) }
  | none => st

/-- Lowers a flag: one holder less (R68). -/
def Stream.lower {w : Nat} (st : Stream w) (f : Option Nat) : Stream w :=
  match f with
  | some k => { st with flags := setAt st.flags k (st.flags.getD k 0 - 1) }
  | none => st

/-- A write of registers or predicates by packet `pkt`; one that is older than the handler changes also what a save in handler
mode keeps (R327). -/
def Stream.writeBy {w : Nat} (st : Stream w) (pkt : Nat) (f : Stream w → Stream w) : Stream w :=
  let st1 := f st
  match st.handler with
  | some h =>
    if h.pkt < pkt then st1
    else
      let sh := f { st with regs := h.regs, preds := h.preds }
      { st1 with handler := some { h with regs := sh.regs, preds := sh.preds } }
  | none => st1

/-- Makes one result in flight visible. -/
def Stream.land {w : Nat} (st : Stream w) (p : PendWrite w) : Stream w :=
  match p.dest with
  | .reg r => (st.writeBy p.pkt (fun t => t.setReg r p.vals)).lower p.flag
  | .pred k => (st.writeBy p.pkt (fun t => t.setPred k (p.vals.map (fun o => o.map (fun v => v.getLsbD 0))))).lower p.flag

/-- Puts a latch result in place: value, and the lanes whose producer is in the current packet (R80, R92). -/
def Stream.landLatch {w : Nat} (st : Stream w) (p : LatchWrite w) : Stream w :=
  let l := st.latches.getD p.pipe (Latch.blank w st.n)
  let new : Latch w :=
    { vals := overlay st.n l.vals 0 p.vals, cur := l.cur ||| p.lanes, prev := l.prev, recd := l.recd &&& ~~~p.lanes }
  { st with latches := setAt st.latches p.pipe new }

/-- Makes visible what is due at a cycle (R67); a chained slot sees no latch result of its own chain (R65). -/
def Stream.settle {w : Nat} (st : Stream w) (clk : Nat) (chained : Bool) : Stream w :=
  let st1 := (st.pend.filter (fun p => p.at_ ≤ clk)).foldl Stream.land { st with pend := st.pend.filter (fun p => clk < p.at_) }
  if chained then st1 else st1.latchNew.foldl Stream.landLatch { st1 with latchNew := [] }

/-- Inserts a result in completion order (R67). -/
def insertPend {w : Nat} (p : PendWrite w) : List (PendWrite w) → List (PendWrite w)
  | [] => [p]
  | q :: l => if p.at_ < q.at_ then p :: q :: l else q :: insertPend p l

/-- Drops the lanes of a result that a later slot of the same packet writes (R67). -/
def PendWrite.drop {w : Nat} (p : PendWrite w) (pkt : Nat) (d : Dest) (new : List (Option (BitVec w))) : PendWrite w :=
  if p.pkt = pkt ∧ p.dest = d then
    { p with vals := (List.range p.vals.length).map (fun l => if (new.getD l none).isSome then none else p.vals.getD l none) }
  else p

/-- The lanes that a list of results writes. -/
def someLanes {α : Type} (n : Nat) (v : List (Option α)) : Word := maskOf n (fun l => (v.getD l none).isSome)

/-- Starts a result of the current slot, visible `lat` cycles after the cycle `clk` of its issue, that holds a flag
(R67, R68). -/
def Stream.resultF {w : Nat} (st : Stream w) (f : Option Nat) (clk lat : Nat) (d : Dest) (vals : List (Option (BitVec w))) :
    Stream w :=
  let k := match d with
    | .reg r =>
      if st.acc.any (fun a => a.pkt = st.pktNo) || st.engPkt = st.pktNo then [(st.pktNo, st.accNext, r, someLanes st.n vals)] else []
    | .pred _ => []
  let new : PendWrite w := { at_ := clk + lat, pkt := st.pktNo, dest := d, flag := f, vals := vals }
  let st1 := st.raise f
  { st1 with
    pend := insertPend new (st.pend.map (fun p => p.drop st.pktNo d vals))
    killed := k ++ st.killed }

/-- Starts a result of the current slot that holds the flag its SET names. -/
def Stream.result {w : Nat} (st : Stream w) (clk lat : Nat) (d : Dest) (vals : List (Option (BitVec w))) : Stream w :=
  st.resultF st.setFlag clk lat d vals

/-- Starts a latch result of the current slot (R80). -/
def Stream.latch {w : Nat} (st : Stream w) (pipe : Nat) (vals : List (Option (BitVec w))) : Stream w :=
  { st with latchNew := st.latchNew ++ [{ pipe := pipe, vals := vals, lanes := st.ex }] }

/-- Whether a later slot than the access `id` of packet `pkt` wrote register r in lane l (R67). -/
def Stream.wasKilled {w : Nat} (st : Stream w) (pkt id r l : Nat) : Bool :=
  st.killed.any (fun k => k.1 = pkt && id < k.2.1 && k.2.2.1 = r && k.2.2.2.getLsbD l)

/-- Sets the PC of the lanes of a mask. -/
def Stream.setPc {w : Nat} (st : Stream w) (m : Word) (pc : Nat) : Stream w :=
  { st with vpc := (List.range st.n).map (fun l => if m.getLsbD l then pc else st.pcOf l) }

/-- Sets the state of the lanes of a mask. -/
def Stream.setState {w : Nat} (st : Stream w) (m : Word) (x : LaneState) : Stream w :=
  { st with lst := (List.range st.n).map (fun l => if m.getLsbD l then x else st.laneState l) }

/-- Takes lanes out of the current packet (a taken branch, a wait, an exit: R66, R89). -/
def Stream.leavePkt {w : Nat} (st : Stream w) (m : Word) : Stream w :=
  match st.pkt with
  | some k => { st with pkt := some { k with ex := k.ex &&& ~~~m } }
  | none => st

/-- Ends the current slot: the lanes still in the packet move to the next slot, and the packet ends with its last slot
or its last lane (R65, R66). -/
def Stream.advance {w : Nat} (st : Stream w) : Stream w :=
  match st.pkt with
  | some k =>
    let nx := nextSlot k.pc st.litNext
    let st1 := st.setPc k.ex nx
    { st1 with
      pkt := if nx / 16 = k.pc / 16 ∧ k.ex ≠ 0 then some { k with pc := nx, lit := 0 } else none }
  | none => st

/-- Applies a change to the stream that exec acts for. -/
def State.modCur (s : State) (f : (w : Nat) → Stream w → Stream w) : State :=
  let t := s.team s.curTeam
  match s.curSel with
  | .ctl => s.setTeam s.curTeam { t with ctl := f 64 t.ctl }
  | .grp g => s.setTeam s.curTeam (t.setGrp g (f 32 (t.grp g)))

/-- Applies a change to a stream. -/
def State.modStream (s : State) (t : Nat) (q : Sel) (f : (w : Nat) → Stream w → Stream w) : State :=
  let x := s.team t
  match q with
  | .ctl => s.setTeam t { x with ctl := f 64 x.ctl }
  | .grp g => s.setTeam t (x.setGrp g (f 32 (x.grp g)))

/-- Reads something of a stream. -/
def State.onStream {α : Type} (s : State) (t : Nat) (q : Sel) (f : (w : Nat) → Stream w → α) : α :=
  match q with
  | .ctl => f 64 (s.team t).ctl
  | .grp g => f 32 ((s.team t).grp g)

/-- Reads something of the stream that exec acts for. -/
def State.onCur {α : Type} (s : State) (f : (w : Nat) → Stream w → α) : α := s.onStream s.curTeam s.curSel f

/-- The team that exec acts for. -/
def State.curT (s : State) : Team := s.team s.curTeam

/-- Whether exec acts for a group. -/
def State.inLane (s : State) : Bool := match s.curSel with | .ctl => false | .grp _ => true

/-- The cycle counter of a team's core. -/
def State.clkOf (s : State) (t : Nat) : Nat := (s.core (s.team t).core).clk

/-- Ends the slot of the current stream with nothing else to do. -/
def State.done (s : State) : State := { s.modCur (fun _ st => st.advance) with slotEnd := .none }

/-- The n-th free value of the state, and the state after it is used. -/
def State.fresh (s : State) : Nat × State := (s.freeCount, { s with freeCount := s.freeCount + 1 })

/-! ## The launch packet of a grid (R160) -/

/-- A field of the launch packet of a grid: bytes a to a + n − 1. -/
def Grid.field (g : Grid) (a n : Nat) : Nat := ofBytes ((g.packet.drop a).take n)
/-- Whether the code segment is in far memory. -/
def Grid.far (g : Grid) : Bool := g.field 0 8 % 2 == 1
/-- The length of the code segment in bytes (R121). -/
def Grid.segLen (g : Grid) : Nat := (bits (g.field 0 8) 12 1 + 1) * 4096
/-- The base of the code segment. -/
def Grid.segBase (g : Grid) : Nat := g.field 0 8 / 2 ^ 24 * 2 ^ 24
/-- The resource word (R102). -/
def Grid.res (g : Grid) : Nat := g.field 20 4
/-- Groups per team. -/
def Grid.groups (g : Grid) : Nat := bits g.res 31 27
/-- Declared lane registers. -/
def Grid.regsDecl (g : Grid) : Nat := bits g.res 26 21
/-- Register blocks per group (R13). -/
def Grid.blocks (g : Grid) : Nat := (g.regsDecl + 7) / 8
/-- Declared tiles. -/
def Grid.tilesDecl (g : Grid) : Nat := bits g.res 20 16
/-- Declared accumulator blocks. -/
def Grid.accDecl (g : Grid) : Nat := bits g.res 15 10 * 32
/-- Declared scratchpad bytes. -/
def Grid.scratchLen (g : Grid) : Nat := bits g.res 9 4 * 65536
/-- Launched with the cohort flag. -/
def Grid.cohort (g : Grid) : Bool := bits g.res 3 3 == 1
/-- Launched with speculation enabled. -/
def Grid.specOn (g : Grid) : Bool := bits g.res 2 2 == 1
/-- The number of teams. -/
def Grid.nteams (g : Grid) : Nat := g.field 16 4
/-- The priority level. -/
def Grid.prio (g : Grid) : Nat := g.field 24 4 % 8
/-- The span (R160). -/
def Grid.spanN (g : Grid) : Nat := bits (g.field 24 4) 17 12 + 1

/-- The grid of a team. -/
def State.gridOf (s : State) (t : Nat) : Grid := s.grid (s.team t).grid

/-! ## Near memory: extents, homes and the modification order (R118, R209) -/

/-- The bytes of one near-map or save-area extent: base in the package's near memory, length, secure (R363). -/
def extentOf (v : DWord) : Option (Nat × Nat × Bool) :=
  let n := v.toNat
  if bits n 63 63 = 1 then
    some (bits n 34 32 * 0x8000000 + bits n 5 0 * 0x200000, bits n 22 16 * 0x200000, bits n 62 62 == 1)
  else none

/-- The valid extents of a map, in index order (R118). -/
def extents (m : Map DWord) (n : Nat) : List (Nat × Nat × Bool) :=
  (List.range n).filterMap (fun i => extentOf (Map.get m i 0))

/-- The sum of extent lengths: the near-range total. -/
def total (e : List (Nat × Nat × Bool)) : Nat := e.foldl (fun n x => n + x.2.1) 0

/-- The package near address of an offset into concatenated extents, and whether its extent is secure. -/
def place : List (Nat × Nat × Bool) → Nat → Option (Nat × Bool)
  | [], _ => none
  | (b, len, sec) :: l, o => if o < len then some (b + o, sec) else place l (o - len)

/-- The extents of a partition's near range. -/
def Part.nearExt (p : Part) : List (Nat × Nat × Bool) := extents p.nearMap 16
/-- The extents of a partition's save area. -/
def Part.saveExt (p : Part) : List (Nat × Nat × Bool) := extents p.saveMap 4
/-- The package near address of a near-window offset. -/
def Part.near (p : Part) (o : Nat) : Option (Nat × Bool) := place p.nearExt o

/-- The home die of a near address (R118). -/
def dieOf (a : Nat) : Nat := a / 0x8000000

/-- The position of a view at a byte (R189). -/
def View.at (v : View) (a : Nat) : Nat := max (v.dies.getD (dieOf a) 0) (Map.get v.bytes a 0)

/-- Merges the larger of two positions for each byte of a list. -/
def mergeBytes (m : Map Nat) (l : Map Nat) : Map Nat :=
  l.foldl (fun m e => Map.set m e.1 (max (Map.get m e.1 0) e.2)) m

/-- The join of two views. -/
def View.join (v u : View) : View :=
  { dies := (List.range 8).map (fun d => max (v.dies.getD d 0) (u.dies.getD d 0)), bytes := mergeBytes v.bytes u.bytes
    fars := mergeBytes v.fars u.fars, cmds := mergeBytes v.cmds u.cmds }

/-- A view restricted to some dies (R206, R212). -/
def View.only (v : View) (ds : List Nat) : View :=
  { v with
    dies := (List.range 8).map (fun d => if ds.contains d then v.dies.getD d 0 else 0)
    bytes := v.bytes.filter (fun e => ds.contains (dieOf e.1)) }

/-- The key of a stream of a team in a view. -/
def streamKey (t : Nat) : Sel → Nat
  | .ctl => 32 * t + 16
  | .grp g => 32 * t + g

/-- Whether every far atomic that happens before a point, at some modules, is performed (R195, R215, R222). -/
def State.farsPerformed (s : State) (v : View) (at_ : Nat → Bool) : Bool :=
  s.fars.all (fun e => e.2.performed || !at_ e.2.pmod || decide (Map.get v.fars (streamKey e.2.team e.2.sel) 0 < e.1))

/-- All dies. -/
def allDies : List Nat := List.range 8

/-- A view that has seen the bytes of a range up to a position. -/
def View.raiseAt (a n pos : Nat) : View := { dies := copies 8 0, bytes := (List.range n).map (fun i => (a + i, pos)) }

/-- A view that has seen everything up to a position. -/
def View.upto (n : Nat) : View := { dies := copies 8 n, bytes := [] }

/-- Whether a near write covers a byte. -/
def NearWrite.covers (h : NearWrite) (a : Nat) : Bool := h.addr ≤ a && a < h.addr + h.new.length

/-- The byte a reader sees: the newest write to the byte that the test admits; else the byte before all of them. -/
def readBack (cur : Byte) (a : Nat) (ok : NearWrite → Bool) : List NearWrite → Byte
  | [] => cur
  | h :: l =>
    if h.covers a then
      if ok h then h.new.getD (a - h.addr) 0 else readBack (h.old.getD (a - h.addr) 0) a ok l
    else readBack cur a ok l

/-- The newest byte of the modification order that a team sees at the home (R207, R209). -/
def Pkg.latest (p : Pkg) (team : Option Nat) (a : Nat) : Byte :=
  readBack (p.near.read a) a (fun h => h.only == none || h.only == team) p.hist

/-- Whether a write to a byte stands at a view's position or before it, for an agent whose own stores from `seq` on are later in its
program order (R189). -/
def NearWrite.inView (h : NearWrite) (v : View) (agent : Nat × Sel) (seq : Nat) (a : Nat) : Bool :=
  (h.only == none || h.only == some agent.1) &&
    (if h.agent == some agent then h.seq < seq || (h.seq == 0 && h.pos ≤ v.at a) else h.pos ≤ v.at a)

/-- The byte at a view's position (R189). -/
def Pkg.viewByte (p : Pkg) (v : View) (agent : Nat × Sel) (seq : Nat) (a : Nat) : Byte :=
  readBack (p.near.read a) a (fun h => h.inView v agent seq a) p.hist

/-- The release of the completion record whose byte a view gives, if it is one of a record (R214). -/
def Pkg.viewRels (p : Pkg) (v : View) (agent : Nat × Sel) (seq : Nat) (a : Nat) : List Release :=
  ((p.hist.find? (fun h => h.covers a && h.inView v agent seq a)).map (fun h => h.rels)).getD []

/-- Enters a write into the modification order (R209); the units it writes have fresh ECC (R119). -/
def Pkg.nearWrite (p : Pkg) (a : Nat) (b : List Byte) (only : Option Nat) (agent : Option (Nat × Sel)) (seq : Nat) : Pkg :=
  { p with
    pos := p.pos + 1
    errs := p.errs.filter (fun e => e.1 < a / 64 || decide (a + b.length ≤ 64 * e.1))
    hist := { pos := p.pos + 1, addr := a, new := b, old := p.near.readN a b.length, only := only, agent := agent, seq := seq }
      :: p.hist
    near := p.near.writeN a b }

/-- Ends the release sequences of the bytes of a range: a write that is no RMW (R211). -/
def endRels (r : List (Nat × List Release)) (a n : Nat) : List (Nat × List Release) :=
  r.filter (fun e => e.1 + 4 ≤ a || a + n ≤ e.1)

/-- A write to near memory by an engine, the host or a published store, which ends release sequences (R211). -/
def State.nearWrite (s : State) (p a : Nat) (b : List Byte) (only : Option Nat) (agent : Option (Nat × Sel)) (seq : Nat) :
    State :=
  let k := (s.pkg p).nearWrite a b only agent seq
  s.setPkg p { k with nearRels := endRels k.nearRels a b.length }

/-- The newest bytes that a team sees at the home. -/
def State.nearLatest (s : State) (p : Nat) (team : Option Nat) (a n : Nat) : List Byte :=
  (List.range n).map (fun i => (s.pkg p).latest team (a + i))

/-! ## Ending a grid (R49, R50) -/

/-- A launch completion status (R50). -/
def stComplete : Nat := 0
/-- A fatal trap or fault in a team. -/
def stFaulted : Nat := 1
/-- Stopped because an ancestor faulted, or by teardown. -/
def stAborted : Nat := 2
/-- Refused by R38 or R40. -/
def stUnfit : Nat := 3
/-- A multi-package start failed. -/
def stPartial : Nat := 4
/-- PASID revoked before dispatch. -/
def stRevoked : Nat := 5

/-- The teams of a grid. -/
def State.teamsOf (s : State) (g : Nat) : List Nat := (s.teams.filter (fun e => e.2.grid = g)).map (fun e => e.1)

/-- Takes a team's work out of its core: matrix queue entries, engine queue entries, waiting fences (R49). Its transfers are
abandoned: what still arrives for them is discarded. -/
def State.dropWork (s : State) (t : Nat) : State :=
  let c := (s.team t).core
  let k := s.core c
  let s := s.setCore c { k with
    mq := k.mq.filter (fun e => e.team != t)
    eq_ := k.eq_.filter (fun x => (Map.find s.xfers x).all (fun y => y.team != t))
    lbs := k.lbs.filter (fun e => e.2.tag.head? != some t) }
  { s with
    xfers := s.xfers.map (fun e => if e.2.team = t then
      (e.1, { e.2 with done := true, queued := false }) else e)
    fences := s.fences.map (fun f => if f.team = some t then { f with team := none } else f) }

/-- BUSY of PREEMPT falls when the team that the last request named is saved, or is no more (R364). -/
def State.preempted (s : State) (t : Nat) : State :=
  let p := (s.team t).port
  if (s.pkg p).preemptBusy = some t then s.setPkg p { s.pkg p with preemptBusy := none } else s

/-- Stops a team: its streams end and its resources are free (R28, R49). -/
def State.stopTeam (s : State) (t : Nat) : State :=
  let s := (s.dropWork t).preempted t
  let x := s.team t
  let p := s.part x.port x.part
  let s := s.setPart x.port x.part { p with frames := p.frames.filter (fun f => f.2.2 != t) }
  s.setTeam t { x with
    place := .retired
    ctl := { x.ctl with lst := [.exited], vpc := [0xFFFFFFFF], pkt := none, hold := none }
    grps := x.grps.map (fun e => (e.1, { e.2 with lst := copies 32 .exited, vpc := copies 32 0xFFFFFFFF, pkt := none, hold := none }))
    preempt := none
    listed := false }

/-- The 32 bytes of a completion record (R143). -/
def recordBytes (grid qi status flags tag time : Nat) : List Byte :=
  bytesOf 4 grid ++ bytesOf 2 qi ++ bytesOf 1 status ++ bytesOf 1 flags ++ bytesOf 8 tag ++ bytesOf 8 time ++ bytesOf 8 0

/-- Writes a child's record to its CREC (R161), a release write at package scope with a view (R214); CREC 0 means none. -/
def State.childRecord (s : State) (p n crec grid status refused : Nat) (v : View) : State :=
  match (if crec = 0 then none else (s.part p n).near (crec - 0x40000000)) with
  | none => s
  | some (a, _) =>
    let s := s.nearWrite p a (recordBytes grid 0xFFFF status (0x80 + refused) crec s.now) none none 0
    let k := s.pkg p
    let r : Release := { scope := .package, dies := allDies, port := p, team := 0, view := v.join (View.raiseAt a 32 k.pos) }
    s.setPkg p { k with
      nearRels := (List.range 8).map (fun i => (a + 4 * i, [r])) ++ k.nearRels
      hist := (k.hist.take 1).map (fun h => { h with rels := [r] }) ++ k.hist.drop 1 }

/-- Discards the queued children of a grid that has ended, each with its record (R49). -/
def State.dropQueued (s : State) (g : Nat) : State :=
  let x := s.grid g
  let p := s.part x.port x.part
  let gone := p.queue.filter (fun q => q.parent == some g)
  let s := s.setPart x.port x.part { p with queue := p.queue.filter (fun q => q.parent != some g) }
  gone.foldl (fun s q => s.childRecord x.port x.part (ofBytes ((q.packet.drop 56).take 8)) 0xFFFFFFFF stAborted 0 q.view) s

/-- Ends one grid with a status, its queued children discarded; the first status stands. -/
def State.endOne (s : State) (g st : Nat) : State :=
  let x := s.grid g
  if x.retired then s else
  let s := s.setGrid g { x with status := some (x.status.getD st), placing := false }
  let p := s.part x.port x.part
  let s := s.setPart x.port x.part { p with placement := p.placement.filter (fun k => k != g) }
  ((s.teamsOf g).foldl State.stopTeam s).dropQueued g

/-- Ends a grid and, as ABORTED, its descendants, to the nesting depth given (R49). -/
def endGrids : Nat → State → Nat → Nat → State
  | 0, s, _, _ => s
  | d + 1, s, g, st =>
    let s := s.endOne g st
    (s.grids.filter (fun e => e.2.parent == some g && !e.2.retired)).foldl (fun s e => endGrids d s e.1 stAborted) s

/-- Ends the grid and its descendants (R49). Nesting is at most 10 deep (R47). -/
def State.endGrid (s : State) (g st : Nat) : State := endGrids 11 s g st

/-! ## Branch targets (R71) -/

/-- The byte of a grid's code segment at an offset, in the instruction cache of the core of team `t` (R121). -/
def State.codeByte (s : State) (t o : Nat) : Byte :=
  let x := s.team t
  match (s.core x.core).icache.find? (fun e => e.1 = x.grid && e.2.1 = o / 64) with
  | some e => e.2.2.getD (o % 64) 0
  | none => 0

/-- The word of the code segment at an offset. -/
def State.codeWord (s : State) (t o : Nat) : Nat := ofBytes ((List.range 4).map (fun i => s.codeByte t (o + i)))

/-- Whether the code at an offset can be looked at: the instruction cache holds its line, or it lies past the segment
(R121, R122). -/
def State.codeHere (s : State) (t o : Nat) : Bool :=
  let x := s.team t
  decide ((s.grid x.grid).segLen ≤ o) || (s.core x.core).icache.any (fun e => e.1 == x.grid && e.2.1 == o / 64)

/-- Whether an offset may be branched to or entered (R71). -/
def State.targetOk (s : State) (t o : Nat) : Bool :=
  let q := o / 4 % 4
  let cw := s.codeWord t (o / 16 * 16)
  decide (o % 4 = 0) && decide (o < (s.gridOf t).segLen) && q != 0 &&
  !(q == 2 && flag1 cw 0) && !(q == 3 && flag1 cw 1) &&
  (q == 1 || (if q == 3 && flag1 cw 0 then true else !chainBit (s.codeWord t (o - 4))))

/-! ## Taking a trap and returning from one (R324 to R329) -/

/-- The code of a trap (R324). -/
def Trap.code : Trap → Nat
  | .illegalPacket => 1
  | .illegalOpcode => 2
  | .illegalOperand => 3
  | .badTarget => 4
  | .latchStale => 5
  | .illegalConvergence => 6
  | .maskDeadlock => 7
  | .scratchBounds => 8
  | .nearBounds => 9
  | .misaligned => 10
  | .tileShape => 11
  | .accRange => 12
  | .rvBusy => 13
  | .rvOverflow => 14
  | .noncanon => 15
  | .rangeCross => 16
  | .permission => 17
  | .world => 18
  | .abOverrun => 19
  | .depthExceeded => 20
  | .software => 21
  | .brk => 22

/-- Whether a trap record carries ADDR (R326). -/
def Trap.hasAddr (t : Trap) : Bool := (8 ≤ t.code && t.code ≤ 10) || (15 ≤ t.code && t.code ≤ 18)

/-- The four record latches (R326), valid for the handler lanes (R325). -/
def recordLatches (w n : Nat) (lanes : Word) (code slot imm epc spc : Nat) (addrs : List Nat) : List (Latch w) :=
  let b0 : Nat := code + slot * 2 ^ 8 + imm * 2 ^ 16
  let all (v : Nat) : Latch w := { vals := copies n (BitVec.ofNat w v), cur := 0, prev := 0, recd := lanes }
  [all b0, all epc, all spc,
   { vals := (List.range n).map (fun l => BitVec.ofNat w (addrs.getD l 0)), cur := 0, prev := 0, recd := lanes }]

/-- Whether a packet that is entered at an offset is the rest of one, after its slot was held (R73): also after a save or a TRET. -/
def Stream.restAt {w : Nat} (st : Stream w) (pc : Nat) : Bool := st.hold.any (fun h => h.pc == pc) || st.mid == some pc

/-- Enters the handler (R325): shadow, record, handler lanes ready at the vector; the packet ends. The record is no load's result: the
M latch that holds part of it has no producer outstanding (R66). -/
def Stream.enterHandler {w : Nat} (st : Stream w) (lanes : Word) (vec code slot imm epc spc : Nat) (addrs : List Nat) : Stream w :=
  let st1 := (st.setPc lanes vec).setState lanes .ready
  let left := st.pkt.any (fun k => k.rest) || st.restAt epc
  { st1 with
    handler := some { lanes := lanes, epc := epc, shadow := st.latches, pkt := st.pktNo, owner := st.mOwner,
                      regs := st.regs, preds := st.preds, masks := st.masks, mid := if left then some epc else none }
    latches := recordLatches w st.n lanes code slot imm epc spc addrs
    mOwner := copies st.n 0
    latchNew := []
    pkt := none
    hold := none }

/-- A speculating stream that faults rolls back instead of trapping (R205). -/
def Stream.specFault {w : Nat} (st : Stream w) : Option (Stream w) :=
  match st.spec with
  | some x => if x.stage = .running then some { st with spec := some { x with stage := .rolling }, pkt := none, hold := none } else none
  | none => none

/-- Holds the current slot at issue (R73, R306): the packet ends, the stream stands at the slot. It waits since it first
qualified (R317). -/
def Stream.holdHere {w : Nat} (st : Stream w) (clk : Nat) (pair : List Byte) : Stream w :=
  match st.pkt with
  | some k =>
    let st1 := st.setPc k.ex k.pc
    { st1 with
      pkt := none
      lastIssue := k.last
      hold := some { pc := k.pc, ex := k.ex, pair := pair, own := true
                     since := ((st.hold.filter (fun h => h.pc == k.pc && h.own)).map (fun h => h.since)).getD (st.ready.getD clk) } }
  | none => st

/-- Takes a trap at the current slot of the current stream: a rollback while speculating; the end of the grid when
there is no handler, the vector is bad or a handler is running; a wait while the core lacks the line of the vector; otherwise
entry into the handler. `slot` is 0 for a packet
that traps as a whole. `addrs` gives ADDR per lane. -/
def State.takeTrap (s : State) (t : Trap) (slot imm : Nat) (addrs : List Nat) : State :=
  let x := s.curT
  let mark := SlotEnd.trapped t imm addrs
  let vec := (if s.inLane then x.ltrapvec else x.ctrapvec).toNat % 2 ^ 32
  if s.onCur (fun _ st => st.specFault.isSome) then
    { s.modCur (fun _ st => st.specFault.getD st) with slotEnd := mark }
  else if s.onCur (fun _ st => st.handler.isSome) || vec = noVector || (s.codeHere s.curTeam vec && !s.targetOk s.curTeam vec) then
    { s.endGrid x.grid stFaulted with slotEnd := mark }
  else if !s.codeHere s.curTeam vec then
    { s.modCur (fun _ st => st.holdHere (s.clkOf s.curTeam) []) with slotEnd := mark }
  else
    { s.modCur (fun _ st =>
        match st.pkt with
        | some k => st.enterHandler k.ex vec t.code slot imm k.entry (if slot = 0 then k.entry else k.pc) (if t.hasAddr then addrs else [])
        | none => st) with slotEnd := mark }

/-- A trap of the slot at the current PC, without IMM. -/
def State.trap (s : State) (t : Trap) : State := s.takeTrap t (s.onCur (fun _ st => st.pc / 4 % 4)) 0 []

/-- A trap of the current slot with ADDR per lane (R326). -/
def State.trapAt (s : State) (t : Trap) (addrs : List Nat) : State :=
  s.takeTrap t (s.onCur (fun _ st => st.pc / 4 % 4)) 0 addrs

/-- Returns from a handler (R329): latches from the shadow, the lanes that have not exited resume at EPC or at the packet
after it. -/
def Stream.leaveHandler {w : Nat} (st : Stream w) (next : Bool) : Stream w :=
  match st.handler with
  | some h =>
    let lanes := h.lanes &&& st.live
    let pc := if next then h.epc / 16 * 16 + 20 else h.epc
    let st1 := st.setPc lanes pc
    { st1 with latches := h.shadow, mOwner := h.owner, latchNew := [], handler := none, pkt := none
               mid := if next then none else h.mid }
  | none => st

/-- A stream in handler mode as it is saved (R327): what the handler did with it is discarded, and its lanes stand at the packet
that trapped. -/
def Stream.unwind {w : Nat} (st : Stream w) : Stream w :=
  match st.handler with
  | some h =>
    let st1 := (st.setPc h.lanes h.epc).setState h.lanes .ready
    { st1 with regs := h.regs, preds := h.preds, masks := h.masks, latches := h.shadow, mOwner := h.owner, latchNew := [],
               handler := none, pkt := none, hold := none, mid := h.mid }
  | none => st

/-- The blocks that a GROW held with this wait has asked for and not yet got (R59): its wait is the number, and 2. -/
def growWanted (h : Hold) : Nat :=
  match h.pair with
  | n :: c :: _ => if c = 2 ∧ h.pair.length ≤ 3 then n.toNat else 0
  | _ => 0

/-- The chain of the current slot cannot issue yet: a latch that it reads has not got its result (R66), or an acquire holds
its access (R190, R207). -/
def State.waitSlot (s : State) : State := { s with slotEnd := .waits }

/-- Holds the current slot of the current stream. -/
def State.holdSlot (s : State) (pair : List Byte) : State :=
  { s.modCur (fun _ st => st.holdHere (s.clkOf s.curTeam) pair) with slotEnd := .held }

end Sys2Proof.Machine
end

