-- ==== Sys2Proof/Machine/Operands.lean ====
section
/-! DEFINITION. Operand forms: register codes of both contexts (R69, R77 to R80), w-pairs (R269), queue pops (R79, R131),
and the frame that every meaning runs in: the checks of R73, the pause of R200, the holds of R133. -/
namespace Sys2Proof.Machine

/-- What a source code names (R77). -/
inductive Src | reg (r : Nat) | latch (k : Nat) | queue (k : Nat) | lit | zero | lane | gid | tid | core | clk
  deriving DecidableEq, Repr

/-- Lane context source codes (R77); a register lies in a held block (R86). -/
def laneSrc (blocks c : Nat) : Option Src :=
  if c ≤ 47 then (if c / 8 < blocks then some (.reg c) else none)
  else if c ≤ 51 then some (.latch (c - 48))
  else if c = 52 then some .lane
  else if c = 53 then some .gid
  else if c = 54 then some .tid
  else if c = 55 then some .zero
  else if c ≤ 59 then some (.queue (c - 56))
  else if c = 60 then some .clk
  else if c = 62 then some .lit
  else none

/-- Control context source codes (R77). -/
def ctlSrc (c : Nat) : Option Src :=
  if c ≤ 31 then some (.reg c)
  else if c ≤ 35 then some (.latch (c - 32))
  else if c = 36 then some .tid
  else if c = 37 then some .core
  else if c = 38 then some .zero
  else if c = 39 then some .clk
  else if c = 62 then some .lit
  else none

/-- What a source code names in a stream's context. -/
def srcOf (lane : Bool) (blocks c : Nat) : Option Src := if lane then laneSrc blocks c else ctlSrc c

/-- A destination register (R77): the register, `zero`, or no destination. -/
inductive Dst | reg (r : Nat) | zero
  deriving DecidableEq, Repr

/-- What a destination code names in a stream's context. -/
def dstOf (lane : Bool) (blocks c : Nat) : Option Dst :=
  if lane then
    if c ≤ 47 then (if c / 8 < blocks then some (.reg c) else none) else if c = 55 then some .zero else none
  else
    if c ≤ 31 then some (.reg c) else if c = 38 then some .zero else none

/-- Whether a code names a w-pair whose halves are held (R77, R86). -/
def pairOk (blocks c : Nat) : Bool := c % 2 == 0 && decide (c ≤ 46) && decide ((c + 1) / 8 < blocks)

/-- Whether a code may be a w-pair source: a pair or the literal (R269). -/
def pairSrcOk (blocks c : Nat) : Bool := c == 62 || pairOk blocks c

/-- What the values of special sources are for one instruction, and what it popped (R77, R79). -/
structure Ctx where
  lane : Bool
  gid : Nat
  tid : Nat
  core : Nat
  clk : Nat
  pops : Map Word

/-- The value of a source in a lane (R263). -/
def Stream.value {w : Nat} (st : Stream w) (c : Ctx) (r : Reg) (l : Nat) : BitVec w :=
  match srcOf c.lane st.blocks r.toNat with
  | some (.reg k) => st.reg k l
  | some (.latch k) => (st.latches.getD k (Latch.blank w st.n)).vals.getD l 0
  | some (.queue k) => (Map.get c.pops k 0).setWidth w
  | some .lit => st.lit.signExtend w
  | some .lane => BitVec.ofNat w l
  | some .gid => BitVec.ofNat w c.gid
  | some .tid => BitVec.ofNat w c.tid
  | some .core => BitVec.ofNat w c.core
  | some .clk => BitVec.ofNat w c.clk
  | _ => 0

/-- The 64-bit value of a w-pair, of the literal sign-extended, or 0 for `zero` (R69, R77, R292). -/
def Stream.pair {w : Nat} (st : Stream w) (r : Reg) (l : Nat) : DWord :=
  if r.toNat = 62 then st.lit.signExtend 64
  else if r.toNat = 55 then 0
  else BitVec.ofNat 64 ((st.reg (r.toNat + 1) l).toNat * 2 ^ 32 + (st.reg r.toNat l).toNat % 2 ^ 32)

/-- The latches that sources name. -/
def latchSrcs (lane : Bool) (blocks : Nat) (rs : List Reg) : List Nat :=
  rs.filterMap (fun r => match srcOf lane blocks r.toNat with | some (.latch k) => some k | _ => none)

/-- The queues that sources name. -/
def queueSrcs (lane : Bool) (blocks : Nat) (rs : List Reg) : List Nat :=
  (rs.filterMap (fun r => match srcOf lane blocks r.toNat with | some (.queue k) => some k | _ => none)).eraseDups

/-- Whether a latch may be read: every executing lane executed its producer (R80, R325). A lane whose guard on the reader is false
executes the reader all the same, and counts (R73 says that such a lane contributes no fault: DEDUCED, log entry 13). -/
def Stream.latchOk {w : Nat} (st : Stream w) (k : Nat) : Bool :=
  let l := st.latches.getD k (Latch.blank w st.n)
  st.ex &&& ~~~(l.cur ||| l.prev ||| l.recd) == 0

/-- Whether the M latch of some executing lane still waits for its producer, as the current chain began (R65, R66, R80). -/
def Stream.latchBusy {w : Nat} (st : Stream w) (k : Nat) : Bool :=
  let owner := (st.pkt.map (fun p => p.owner)).getD st.mOwner
  k == 2 && st.acc.any (fun a => a.latch && (List.range st.n).any (fun l => st.ex.getLsbD l && owner.getD l 0 == a.id))

/-- Whether a scratchpad store or atomic from before the current chain is still to be performed: a boundary within the chain holds
the chain's accesses for it (R190). -/
def Stream.storesBefore {w : Nat} (st : Stream w) : Bool :=
  st.acc.any (fun a => !a.near && a.kind != .load && decide (a.id < (st.pkt.map (fun p => p.mark)).getD (a.id + 1)))

/-- Whether an access of the current stream from before the current chain is outstanding. -/
def Stream.accBefore {w : Nat} (st : Stream w) : Bool :=
  st.acc.any (fun a => decide (a.id < (st.pkt.map (fun p => p.mark)).getD (a.id + 1)))

/-- The wait of an instruction that comes behind its stream's own accesses, if one is outstanding: its chain waits for those of before.
It issues with those of its own chain, whose results it does not see (R65), and what it starts waits for them. -/
def State.behindAccesses (s : State) : Option State := if s.onCur (fun _ st => st.accBefore) then some s.waitSlot else none

/-- Whether an acquire boundary or an earlier scratchpad store holds the accesses of the current chain (R190, R207). -/
def Stream.acqBlocked {w : Nat} (st : Stream w) : Bool :=
  st.acqHeld && ((st.pkt.map (fun p => p.acq)).getD true || st.storesBefore)

/-- Whether a collective instruction may issue: all 32 lanes non-exited, ready and executing (R34). -/
def Stream.converged {w : Nat} (st : Stream w) : Bool := st.ex == BitVec.allOnes 32

/-- The lanes of the current packet in which a guard is true (R75, R263). -/
def Stream.active {w : Nat} (st : Stream w) (g : Nat) : Word := maskOf st.n (fun l => st.ex.getLsbD l && st.pred g l)

/-- The number of lanes of a mask. -/
def countLanes (m : Word) (n : Nat) : Nat := (lanesOf m n).length

/-- Whether the remap entry of a slice is valid (R151): no position fused off, retired or named twice, and none that another slice
named already when the entry was written. A position of 52 to 254 makes the entry invalid too, and an OWNER of 32 to 254 owns it for no
partition: R151 gives neither a meaning (DESIGN CHOICE, log entry 46). -/
def sliceValid (p : Pkg) (k : Nat) : Bool :=
  let e := Map.get p.remap k []
  let pos := (e.take 12).filter (fun b => b != 0xFF)
  e.length == 16 && ((e.drop 13).all (fun b => b == 0)) &&
  pos.all (fun b => b.toNat < 52 && !p.fused.contains (k / 4 * 64 + b.toNat)) && decide pos.Nodup && !p.clash.contains k

/-- The valid physical cores of a slice, in POS order: core keys of the package (R151, R152). -/
def sliceCores (p : Pkg) (port k : Nat) : List Nat :=
  if sliceValid p k then
    (((Map.get p.remap k []).take 12).filter (fun b => b != 0xFF)).map (fun b => port * 1024 + k / 4 * 64 + b.toNat)
  else []

/-- The slices a partition owns (R151). -/
def slicesOf (p : Pkg) (n : Nat) : List Nat :=
  (List.range 32).filter (fun k => ((Map.get p.remap k []).getD 12 0xFF).toNat == n)

/-- A partition's cores in logical order (R152). -/
def coresOf (p : Pkg) (port n : Nat) : List Nat := (slicesOf p n).flatMap (sliceCores p port)

/-- The modules of a partition's module map, by logical number (R154): the higher of two entries that name one module is
invalid. -/
def Part.modules (x : Part) : List (Nat × Nat × Nat) :=
  let e (i : Nat) : Nat := (Map.get x.modMap i 0).toNat
  (List.range 64).filterMap (fun i =>
    if bits (e i) 31 31 = 1 ∧ !(List.range i).any (fun j => bits (e j) 31 31 = 1 && bits (e j) 5 0 = bits (e i) 5 0)
    then some (i, bits (e i) 5 0, bits (e i) 23 16) else none)

/-- The physical module and tenant of a logical module. -/
def Part.module (x : Part) (i : Nat) : Option (Nat × Nat) := (x.modules.find? (fun e => e.1 = i)).map (fun e => e.2)

/-- The logical core number of a team (R10, R57). -/
def State.logical (s : State) (t : Nat) : Nat :=
  let x := s.team t
  (coresOf (s.pkg x.port) x.port x.part).idxOf x.core

/-- Whether a team's core is in the secure world (R14, R155): the slice that holds it is secure. -/
def State.secure (s : State) (t : Nat) : Bool :=
  let x := s.team t
  let p := s.pkg x.port
  (slicesOf p x.part).any (fun k => (sliceCores p x.port k).contains x.core && p.secSlices.getLsbD k)

/-- The values of special sources for the current stream, with given pops. -/
def State.ctx (s : State) (pops : Map Word) : Ctx where
  lane := s.inLane
  gid := match s.curSel with | .grp g => g | .ctl => 0
  tid := s.curT.tid
  core := if s.inLane then 0 else s.logical s.curTeam
  clk := s.clkOf s.curTeam
  pops := pops

/-- The oldest entry of a queue that is visible (R131, R132, R195). -/
def Team.front (t : Team) (k clk : Nat) : Option QEntry :=
  match (t.queues.getD k []).head? with
  | some e => if e.from_ ≤ clk ∧ e.after = none then some e else none
  | none => none

/-- Records a WAITEV event of a team (R323): the selected events of the first cycle in which one occurs. -/
def Team.event (t : Team) (clk bit : Nat) : Team :=
  if bitOf t.evMask bit ∧ (t.evs = 0 ∨ t.evCycle = clk) then
    { t with evs := if bitOf t.evs bit then t.evs else t.evs + 2 ^ bit, evCycle := clk }
  else t

/-- Records a WAITEV event of a team. -/
def State.event (s : State) (t bit : Nat) : State := s.setTeam t ((s.team t).event (s.clkOf t) bit)

/-- A boundary holds the stream's later accesses while an earlier scratchpad store of it is not performed (R190). -/
def Stream.bound {w : Nat} (st : Stream w) : Stream w :=
  { st with acqHeld := st.acqHeld || st.acc.any (fun a => !a.near && a.kind != .load) }

/-- Pops the front of a queue; the popping stream acquires what the entry's pair carries (R193). -/
def State.pop (s : State) (k : Nat) : State :=
  let t := s.curT
  let v := ((t.queues.getD k []).head?.map (fun e => e.view)).getD View.none
  let s := s.setTeam s.curTeam ({ t with queues := setAt t.queues k ((t.queues.getD k []).drop 1) }.event (s.clkOf s.curTeam) 3)
  s.modCur (fun _ st => { st with view := st.view.join v }.bound)

/-- Whether the current stream speculates (R199). -/
def Stream.speculating {w : Nat} (st : Stream w) : Bool :=
  match st.spec with | some x => x.stage == .running | none => false

/-- Pauses a speculation at the current slot (R200). -/
def State.pauseSpec (s : State) : State :=
  let s1 := (s.modCur (fun _ st => { st with spec := st.spec.map (fun x => { x with paused := true }) })).holdSlot []
  s1.modCur (fun _ st => { st with hold := st.hold.map (fun h => { h with own := false }) })

/-- What an instruction uses: the streams it is valid in, the W-bit sources, those of them on whose values its own faults rest, whether
its other operand rules hold, whether it pauses a speculation, whether it accesses memory, and whether it is collective (R34). -/
structure Use where
  lane : Bool
  ctl : Bool
  srcs : List Reg := []
  keys : List Reg := []
  ok : Bool := true
  pauses : Bool := false
  mem : Bool := false
  conv : Bool := false

/-- Whether a slot ended in a trap. -/
def SlotEnd.isTrap : SlotEnd → Bool
  | .trapped _ _ _ => true
  | _ => false

/-- The checks before an instruction's own faults, in the order of R73; then the pause of R200, the waits for a latch's
result (R80) and for an acquire (R207), and the hold on an empty queue (R133), for which some lane of `act` must be active; before
that hold come the instruction's own faults, where they rest on no value that it is to pop (R73). An
access waits also for the boundary that its own pop is (R190). An
instruction that names a queue pauses a speculation also where it would pop nothing (the model's choice: log entry 19).
The rest of the meaning gets the state, the values at the fronts of the queues, and the queues that it is to pop. -/
def State.withPeek (s : State) (u : Use) (act : Word) (k : State → Map Word → List Nat → State) : State :=
  let lane := s.inLane
  let blocks := s.onCur (fun _ st => st.blocks)
  if !(if lane then u.lane else u.ctl) then s.trap .illegalOpcode
  else if !(u.ok && u.srcs.all (fun r => (srcOf lane blocks r.toNat).isSome)) then s.trap .illegalOperand
  else
    let ls := latchSrcs lane blocks u.srcs
    let qs := queueSrcs lane blocks u.srcs
    if ls.any (fun i => !s.onCur (fun _ st => st.latchOk i)) then s.trap .latchStale
    else if u.conv && !s.onCur (fun _ st => st.converged) then s.trap .illegalConvergence
    else if (u.pauses || !qs.isEmpty) && s.onCur (fun _ st => st.speculating) then s.pauseSpec
    else if ls.any (fun i => s.onCur (fun _ st => st.latchBusy i)) || (u.mem && s.onCur (fun _ st => st.acqBlocked)) then s.waitSlot
    else if act = 0 || qs.isEmpty then k s [] []
    else if qs.any (fun i => (s.curT.front i (s.clkOf s.curTeam)).isNone) then
      if (queueSrcs lane blocks u.keys).isEmpty && (k s [] []).slotEnd.isTrap then k s [] [] else s.holdSlot []
    else if u.mem && s.onCur (fun _ st => st.storesBefore) then s.waitSlot
    else k s (qs.map (fun i => (i, ((s.curT.front i (s.clkOf s.curTeam)).map (fun e => e.val)).getD 0))) qs

/-- The checks of withPeek, then the pops. -/
def State.withUse (s : State) (u : Use) (act : Word) (k : State → Map Word → State) : State :=
  s.withPeek u act fun s pops qs => k (qs.foldl State.pop s) pops

/-- The latency of a pipe's result (R67). -/
def latency : Pipe → Nat
  | .I => 2
  | .F => 4
  | .T => 6
  | _ => 1

/-- The latch of a pipe (R80). -/
def latchOf : Pipe → Option Nat
  | .I => some 0
  | .F => some 1
  | .M => some 2
  | .T => some 3
  | _ => none

/-- Starts the result of the current slot: to its latch, and to D unless D is `zero` or NW is set (R264). -/
def Stream.produce {w : Nat} (st : Stream w) (clk : Nat) (p : Pipe) (d : Option Dst) (vals : List (Option (BitVec w))) : Stream w :=
  let st := match latchOf p with | some k => st.latch k vals | none => st
  match d with
  | some (.reg r) => st.result clk (latency p) (.reg r) vals
  | _ => st.result clk (latency p) (.pred 0) (copies st.n none)

/-- Adds to a Garnet meter, which saturates (R182). -/
def State.meter (s : State) (p n k v : Nat) : State :=
  if v = 0 then s else
  let x := s.part p n
  s.setPart p n { x with meters := Map.set x.meters k (min (Map.get x.meters k 0 + v) (2 ^ 64 - 1)) }

/-- Moves the cycle counter of a core; its cycles count for the partition that has a resident team there (R182). -/
def State.setClk (s : State) (c n : Nat) : State :=
  let s := match s.teams.find? (fun e => e.2.core == c && e.2.place == .resident) with
    | some e => s.meter e.2.port e.2.part 6 (n - (s.core c).clk)
    | none => s
  s.setCore c { s.core c with clk := n }

/-- Adds to the VFLOP meter of the current team's partition (R182). -/
def State.flops (s : State) (v : Nat) : State := s.meter s.curT.port s.curT.part 5 v

/-- The values of the lanes of a mask. -/
def valsOf {α : Type} (n : Nat) (m : Word) (f : Nat → α) : List (Option α) :=
  (List.range n).map (fun l => if m.getLsbD l then some (f l) else none)

/-- What a W-bit computation reads in a lane. -/
structure Args (w : Nat) where
  a : BitVec w
  b : BitVec w
  d : BitVec w
  g : Bool

/-- The destination of a result with NW (R264): none when NW is set, which needs D = 0. -/
def resultDst (lane : Bool) (blocks : Nat) (n : Bool) (d : Reg) : Option (Option Dst) :=
  if n then (if d = 0 then some none else none) else (dstOf lane blocks d.toNat).map some

/-- A computation on W-bit operands (R263, R264): sources `a`, `b` (where used) and old D, a guard `g`, lanes `act` in which
it acts, `flops` counted per lane, and the function of each width. -/
def State.compute (s : State) (u : Use) (p : Pipe) (n : Bool) (d a b : Reg) (g : Nat) (all : Bool) (flops : Nat)
    (f : (w : Nat) → Args w → BitVec w) : State :=
  let lane := s.inLane
  let blocks := s.onCur (fun _ st => st.blocks)
  let act := s.onCur (fun _ st => if all then st.ex else st.active g)
  let dst := resultDst lane blocks n d
  s.withUse { u with ok := u.ok && dst.isSome } act fun s pops =>
    let c := s.ctx pops
    let s := s.modCur (fun w st =>
      let vals := valsOf st.n act (fun l => f w
        { a := st.value c a l, b := st.value c b l, d := if dst = some (some .zero) then 0 else st.reg d.toNat l, g := st.pred g l })
      st.produce c.clk p (dst.getD none) vals)
    (s.flops (flops * countLanes act 32)).done

/-- Starts the two halves of a 64-bit result in one write (R269), low half to the latch. -/
def Stream.producePair {w : Nat} (st : Stream w) (clk : Nat) (p : Pipe) (d : Option Nat) (vals : List (Option DWord)) : Stream w :=
  let lo := vals.map (fun o => o.map (fun (v : DWord) => v.setWidth w))
  let hi := vals.map (fun o => o.map (fun (v : DWord) => (v >>> 32).setWidth w))
  let st := match latchOf p with | some k => st.latch k lo | none => st
  match d with
  | some r => (st.result clk (latency p) (.reg r) lo).resultF none clk (latency p) (.reg (r + 1)) hi
  | none => st.result clk (latency p) (.pred 0) (copies st.n none)

/-- A computation on w-pairs in the lane stream (R269): D a pair, or NW with D = 0; A and B pairs or the literal. -/
def State.computePair (s : State) (p : Pipe) (n : Bool) (d a b : Reg) (useB : Bool) (g : Nat) (flops : Nat) (f : Args 64 → DWord) : State :=
  let blocks := s.onCur (fun _ st => st.blocks)
  let act := s.onCur (fun _ st => st.active g)
  let ok := (if n then d == 0 else pairOk blocks d.toNat) && pairSrcOk blocks a.toNat && (!useB || pairSrcOk blocks b.toNat)
  s.withUse { lane := true, ctl := false, ok := ok } act fun s _ =>
    let clk := s.clkOf s.curTeam
    let s := s.modCur (fun _ st =>
      st.producePair clk p (if n then none else some d.toNat)
        (valsOf st.n act (fun l => f { a := st.pair a l, b := st.pair b l, d := st.pair d l, g := true })))
    (s.flops (flops * countLanes act 32)).done

end Sys2Proof.Machine
end

