-- ==== Sys2Proof/Machine/Flags.lean ====
section
/-! DEFINITION. Predicates and completion flags: comparisons and how they combine (R75, R82, R273), predicate results
(R88, R262), the WAIT mask and flag holders (R63, R68). -/
namespace Sys2Proof.Machine

/-- How a comparison combines into the old predicate (R75, R273). -/
def combine : Cmb → Bool → Bool → Bool
  | .set, _, c => c
  | .and, p, c => p && c
  | .or, p, c => p || c
  | .xor, p, c => p != c
  | .andNot, p, c => p && !c
  | .setNot, _, c => !c

/-- The integer comparisons of R273. -/
def cndHolds {w : Nat} : Cnd → BitVec w → BitVec w → Bool
  | .eq, a, b => a == b
  | .ne, a, b => a != b
  | .lt, a, b => decide (a.toInt < b.toInt)
  | .le, a, b => decide (a.toInt ≤ b.toInt)
  | .gt, a, b => decide (a.toInt > b.toInt)
  | .ge, a, b => decide (a.toInt ≥ b.toInt)
  | .ltn, a, b => decide (a.toNat < b.toNat)
  | .len, a, b => decide (a.toNat ≤ b.toNat)
  | .gtn, a, b => decide (a.toNat > b.toNat)
  | .gen, a, b => decide (a.toNat ≥ b.toNat)

/-- Starts a predicate result that holds a flag. -/
def Stream.setpF {w : Nat} (st : Stream w) (f : Option Nat) (clk : Nat) (p : Pipe) (k : Nat) (vals : List (Option Bool)) : Stream w :=
  st.resultF f clk (latency p) (.pred k) (vals.map (fun o => o.map (fun b => BitVec.ofNat w b.toNat)))

/-- Starts a predicate result, visible as a register result of its pipe (R262). -/
def Stream.setp {w : Nat} (st : Stream w) (clk : Nat) (p : Pipe) (k : Nat) (vals : List (Option Bool)) : Stream w :=
  st.setpF st.setFlag clk p k vals

/-- A comparison into a predicate (R273, R284); PD 0 traps ILLEGAL_OPERAND (R78). -/
def State.compare (s : State) (u : Use) (p : Pipe) (pd : Nat) (m : Cmb) (a b : Reg) (flops : Nat)
    (f : (w : Nat) → BitVec w → BitVec w → Bool) : State :=
  let act := s.onCur (fun _ st => st.ex)
  s.withUse { u with ok := u.ok && pd != 0 } act fun s pops =>
    let c := s.ctx pops
    let s := s.modCur (fun w st =>
      st.setp c.clk p pd (valsOf st.n act (fun l => combine m (st.pred pd l) (f w (st.value c a l) (st.value c b l)))))
    (s.flops (flops * countLanes act 32)).done

/-- A comparison of w-pairs into a predicate (R273, R284). -/
def State.comparePair (s : State) (p : Pipe) (pd : Nat) (m : Cmb) (a b : Reg) (flops : Nat) (f : DWord → DWord → Bool) : State :=
  let blocks := s.onCur (fun _ st => st.blocks)
  let act := s.onCur (fun _ st => st.ex)
  s.withUse { lane := true, ctl := false, ok := pd != 0 && pairSrcOk blocks a.toNat && pairSrcOk blocks b.toNat } act fun s _ =>
    let clk := s.clkOf s.curTeam
    let s := s.modCur (fun _ st =>
      st.setp clk p pd (valsOf st.n act (fun l => combine m (st.pred pd l) (f (st.pair a l) (st.pair b l)))))
    (s.flops (flops * countLanes act 32)).done

/-- A predicate result computed from the predicates of each lane (R274). -/
def State.predOp (s : State) (u : Use) (pd : Nat) (f : (w : Nat) → Stream w → Nat → Bool) : State :=
  let act := s.onCur (fun _ st => st.ex)
  s.withUse u act fun s _ =>
    let clk := s.clkOf s.curTeam
    (s.modCur (fun w st => st.setp clk .I pd (valsOf st.n act (fun l => f w st l)))).done

/-- Whether every flag that a WAIT mask names is clear (R63). -/
def Stream.waitClear {w : Nat} (st : Stream w) (cw : Nat) : Bool :=
  (List.range 12).all (fun k => !flag1 cw (20 + k) || st.flags.getD k 0 == 0)

/-- Whether an instruction may leave something outstanding as it issues, so that it holds the flag of its SET (R68). -/
def leavesWork : Instr → Bool
  | .nop | .yield | .bra _ _ | .brx _ _ | .ret _ _ | .exit _ | .join _ | .leave _ | .waitm _ | .maskopWrite _ _ | .maskopClear _
  | .ppt | .rvinit _ _ | .rvarrive _ | .rvwait _ _ | .qpush _ _ | .sigset _ | .sigwait _ _ | .taskdec _ | .srw _ _ | .trap _ | .brk _
  | .tret _ | .phase _ _ | .tfence _ _ | .drain _ | .launch _ | .wincfg _ _ _ | .abinit _ _ _ => false
  | _ => true

/-- Whether a slot word raises the flag that its SET names (R68). -/
def wordHolds (w : Nat) : Bool := match decodeWord w with | .ok i => leavesWork i | _ => false

/-- Whether a packet's SET fields leave every flag at most 64 holders (R68): of the slot words from the entered one on, those
that raise a flag. -/
def Stream.holdersOk {w : Nat} (st : Stream w) (cw q : Nat) (ws : List Nat) : Bool :=
  (List.range 12).all (fun k =>
    st.flags.getD k 0 + ((List.range 3).filter (fun i => q ≤ i + 1 && fld cw (16 - 4 * i) 4 == k && wordHolds (ws.getD i 0))).length ≤ 64)

end Sys2Proof.Machine
end

