-- ==== Sys2Proof/Machine/Fetch.lean ====
section
/-! DEFINITION. What stands before the slots of a packet: the choice of the issue address (R30), code reads (R121), the
malformation check (R72), and the start of a packet and of a slot (R65 to R67, R80). -/
namespace Sys2Proof.Machine

/-- Whether a slot word's major and function are valid in a stream (R81, R83). -/
def streamWord (lane : Bool) (w : Nat) : Bool :=
  let m := fld w 24 7
  if lane then laneMajor m else ctlMajor m && !(m == 0x26 && 6 ≤ fld w 0 5 && fld w 0 5 ≤ 10)

/-- The malformations of R72, for a control word and three slots. -/
def malformed (cw s1 s2 s3 : Nat) : Bool :=
  let l2 := flag1 cw 0
  let l3 := flag1 cw 1
  let set (q : Nat) : Nat := fld cw (20 - 4 * q) 4
  let dist (q : Nat) : Nat := fld cw (8 - 2 * q) 2
  let badSet (q : Nat) : Bool := 12 ≤ set q && set q ≤ 14
  let n1 := namesLit s1
  let n2 := !l2 && namesLit s2
  let n3 := !l3 && namesLit s3
  let c1 := chainBit s1
  let c2 := !l2 && chainBit s2
  let c3 := !l3 && chainBit s3
  let p (w : Nat) := pipeOf (fld w 24 7)
  let same (a b : Nat) : Bool := (p a).isSome && p a == p b
  badSet 1 || badSet 2 || badSet 3 ||
  (l2 && (set 2 != 15 || dist 2 != 0)) || (l3 && (set 3 != 15 || dist 3 != 0)) ||
  (l2 && !n1) || (l3 && !n2) ||
  (n1 && !l2) || (n2 && !l3) || n3 ||
  (n1 && c1) || (n2 && c2) || c3 || (c1 && l2) || (c2 && l3) ||
  (c1 && same s1 s2) || (c2 && same s2 s3) || (c1 && c2 && same s1 s3)

/-- The slots that issue together from slot q on (R65): the members of its chain. -/
def chainFrom (cw : Nat) (ws : List Nat) : Nat → Nat → List Nat
  | 0, _ => []
  | n + 1, q => q :: (if chainBit (ws.getD (q - 1) 0) && decide (q < 3) && !flag1 cw (q - 1) then chainFrom cw ws n (q + 1) else [])

/-- Whether the DIST of each of some slots has elapsed since the stream's previous issue, which was in an earlier cycle
(R63, R66). -/
def Stream.distOver {w : Nat} (st : Stream w) (clk cw : Nat) (qs : List Nat) : Bool :=
  st.lastIssue == 0 || qs.all (fun q => decide (st.lastIssue - 1 + max 1 (fld cw (8 - 2 * q) 2) ≤ clk))

/-- Whether a packet that is entered at `pc` qualifies for issue (R43, R63, R66, R68): its WAIT flags are clear, the DIST of the
slots that would issue has elapsed (of the entered slot alone where the packet is malformed, R72), and no flag gets a 65th
holder. -/
def Stream.packetReady {w : Nat} (st : Stream w) (clk cw pc : Nat) (ws : List Nat) : Bool :=
  let q := pc / 4 % 4
  let bad := malformed cw (ws.getD 0 0) (ws.getD 1 0) (ws.getD 2 0)
  st.waitClear cw && st.distOver clk cw (if bad then [q] else chainFrom cw ws 3 q) && st.holdersOk cw q ws

/-- The slot words of the packet that holds an offset. -/
def State.slotWords (s : State) (t pc : Nat) : List Nat :=
  [s.codeWord t (pc / 16 * 16 + 4), s.codeWord t (pc / 16 * 16 + 8), s.codeWord t (pc / 16 * 16 + 12)]

/-- The flag of a consuming SIGWAIT. -/
def consumes (w : Nat) : Option Nat := if fld w 24 7 = 0x6A ∧ flag1 w 4 then some (fld w 0 4) else none

/-- Whether a word is YIELD. -/
def isYield (w : Nat) : Bool := fld w 24 7 == 0x6F

/-- The words of the slots that a stream would issue together at an offset. -/
def State.chainWords (s : State) (t pc : Nat) : List Nat :=
  let ws := s.slotWords t pc
  (chainFrom (s.codeWord t (pc / 16 * 16)) ws 3 (pc / 4 % 4)).map (fun q => ws.getD (q - 1) 0)

/-- Where a stream would issue, and which lanes: a held slot first, else the lowest PC over the ready lanes, the handler
lanes alone in handler mode (R30, R73, R325). -/
def Stream.issuePoint {w : Nat} (st : Stream w) : Option (Nat × Word) :=
  match st.hold with
  | some h => some (h.pc, h.ex)
  | none =>
    let allowed := match st.handler with | some h => h.lanes | none => BitVec.allOnes 32
    let ready := (List.range st.n).filter (fun l => st.laneState l == .ready && allowed.getLsbD l)
    match ready with
    | [] => none
    | l0 :: _ =>
      let pc := ready.foldl (fun m l => min m (st.pcOf l)) (st.pcOf l0)
      some (pc, maskOf st.n (fun l => ready.contains l && st.pcOf l == pc))

/-- Where a stream would issue: the next slot of its packet in flight, or its issue address. -/
def Stream.standsAt {w : Nat} (st : Stream w) : Option Nat :=
  match st.pkt with
  | some k => some k.pc
  | none => st.issuePoint.map (fun e => e.1)

/-- The flag that a stream would consume with what it issues next (R94). -/
def State.consumesNext (s : State) (t : Nat) (q : Sel) : Option Nat :=
  match s.onStream t q (fun _ st => st.standsAt) with
  | some pc => if s.codeHere t pc then ((s.chainWords t pc).filterMap consumes).head? else none
  | none => none

/-- Starts a packet: its number, and the latch producers of the packet before it (R80). The rest of a packet keeps the number and
the producers of the slots before it (R67, R73). -/
def Stream.beginPacket {w : Nat} (st : Stream w) (pc cw : Nat) (ex : Word) : Stream w :=
  let rest := st.restAt pc
  { st with
    pktNo := if st.hold.any (fun h => h.pc == pc) then st.pktNo else st.pktNo + 1
    started := true
    latches := if rest then st.latches else st.latches.map (fun l => { l with prev := l.cur, cur := 0 })
    bypass := none
    mid := none
    pkt := some { Pkt.enter pc cw ex with rest := rest } }

/-- Starts the current slot of the current stream in this cycle: what has become visible, the literal; the first slot of a chain
notes what its members may not see (R65). -/
def State.beginSlot (s : State) (chained : Bool) : State :=
  let t := s.curTeam
  let clk := s.clkOf t
  let lit := s.codeWord t (s.onCur (fun _ st => st.pc) + 4)
  s.modCur (fun _ st =>
    let st1 := st.settle clk chained
    { st1 with
      lastIssue := clk + 1
      pkt := st1.pkt.map (fun k =>
        let k1 := { k with lit := if st1.litNext then BitVec.ofNat 32 lit else 0, last := st.lastIssue }
        if chained then k1 else { k1 with mark := st1.accNext, acq := st1.acqHeld, owner := st1.mOwner }) })

/-- Makes the current slot the entry of what is left of its packet (R73). -/
def Stream.restart {w : Nat} (st : Stream w) : Stream w := { st with pkt := st.pkt.map (fun k => { k with entry := k.pc, rest := true }) }

end Sys2Proof.Machine
end

