-- ==== Sys2Proof/Machine/Faults.lean ====
section
/-! DEFINITION. Interrupts (R167, R148), fault records and the fault queue (R144), and errors found by ECC on a read
(R114, R117, R119). -/
namespace Sys2Proof.Machine

/-- Adds 1 to a 32-bit count that saturates (R183). -/
def sat32 (n : Nat) : Nat := min (n + 1) 0xFFFFFFFF

/-- Counts a dropped interrupt for the function that its entry names. R183 gives a count to a VF only: where the entry names the PF or
a number above 1,024, a count of the PF rises (DESIGN CHOICE, log entry 26). -/
def State.dropInterrupt (s : State) (p fn : Nat) : State :=
  if fn = 0 ∨ 1024 < fn then s.setPkg p { s.pkg p with pfDropped := sat32 (s.pkg p).pfDropped }
  else s.setVf p fn { s.vf p fn with dropped := sat32 (s.vf p fn).dropped }

/-- Raises an interrupt of a source through the remap table (R167, R385): the generation of the PF is always 0. -/
def State.interrupt (s : State) (p src : Nat) : State :=
  let e := (Map.get (s.pkg p).irt src 0).toNat
  let fn := bits e 10 0
  let v := s.vf p fn
  if bits e 63 63 = 0 ∨ 1024 < fn ∨ bits e 47 32 ≠ v.gen.toNat then s.dropInterrupt p fn
  else if v.state = .paused ∨ v.state = .descheduled then
    s.setVf p fn { v with pending := v.pending ||| (1#64 <<< bits e 16 11) }
  else { s with msix := s.msix ++ [(p, fn, bits e 16 11)] }

/-- A DMA write of a package to host memory, under the requester ID of a function (R351): that of its QI, or the PF for what
belongs to a partition. -/
def State.hostWrite (s : State) (p fn a : Nat) (b : List Byte) : State :=
  { s with host := s.host.writeN a b, dma := s.dma ++ [{ port := p, fn := fn, write := true, addr := a, len := b.length }] }

/-! ## Fault records (R144) -/

/-- Causes of a fault record. -/
def cauTrans1 : Nat := 1
/-- TRANSLATION stage 2. -/
def cauTrans2 : Nat := 2
/-- PERMISSION. -/
def cauPerm : Nat := 3
/-- WORLD. -/
def cauWorld : Nat := 4
/-- ECC corrected. -/
def cauEcc : Nat := 5
/-- ECC_FATAL. -/
def cauFatal : Nat := 6
/-- SAVE_SPACE. -/
def cauSave : Nat := 7

/-- The 64 bytes of a fault record. -/
def FaultRec.bytes (r : FaultRec) : List Byte :=
  bytesOf 1 r.cause ++ bytesOf 1 r.source ++ bytesOf 1 r.count ++ bytesOf 1 (if r.held.isSome then 1 else 0) ++
  bytesOf 4 r.pasid ++ bytesOf 8 r.addr ++ bytesOf 4 r.grid ++ bytesOf 2 r.tid ++ bytesOf 1 r.lmod ++ bytesOf 1 r.tl ++
  bytesOf 8 r.num ++ bytesOf 8 r.time ++ copies 24 0

/-- Whether a record is correctable, the only kind that may be lost. -/
def FaultRec.correctable (r : FaultRec) : Bool := r.cause == cauEcc

/-- A record about a team, not held. -/
def State.teamRec (s : State) (t cause source addr : Nat) : FaultRec :=
  let x := s.team t
  let g := s.grid x.grid
  { cause := cause, source := source, count := 0, held := none, pasid := g.pasid, addr := addr, grid := g.num, tid := x.tid,
    lmod := 0, tl := 0, num := 0, time := 0, page := 0 }

/-- A fault event: its record waits to be written, in the order of events (R144). -/
def State.record (s : State) (p n : Nat) (r : FaultRec) : State :=
  let x := s.part p n
  s.setPart p n { x with fqWait := x.fqWait ++ [r] }

/-- Whether the place at the tail of a fault queue is free. -/
def Part.tailFree (x : Part) : Bool :=
  decide ((x.fqTail - x.fqHead).toNat < 256) &&
  match Map.find x.fqRecs (x.fqTail.toNat % 256) with
  | some r => r.held.isNone
  | none => true

/-- Puts a record into a place, in the queue and in host memory. -/
def State.placeRecord (s : State) (p n k : Nat) (r : FaultRec) : State :=
  let x := s.part p n
  let r := { r with time := s.now }
  (s.setPart p n { x with fqRecs := Map.set x.fqRecs k r }).hostWrite p 0 (x.fqBase.toNat + 64 * k) r.bytes

/-- The places between head and tail, oldest first. -/
def Part.places (x : Part) : List Nat :=
  (List.range (x.fqTail - x.fqHead).toNat).map (fun i => (x.fqHead.toNat + i) % 256)

/-- The oldest correctable record between head and tail. -/
def Part.oldestCorrectable (x : Part) : Option Nat :=
  x.places.find? (fun k => match Map.find x.fqRecs k with | some r => r.correctable | none => false)

/-- What can be done with one waiting record: written at the tail when nothing waits before it and the place is free; a
correctable one dropped, a fatal one in the place of a correctable one; a record of PERMISSION or WORLD that is not held is taken as
fatal, whatever it ends, and a correctable one whose place a fatal one takes is not counted as dropped (both DESIGN CHOICE, log entry
46). A record that is written raises the partition's
fault-queue interrupt (R167). -/
def State.writeRecord (s : State) (p n : Nat) (first : Bool) (r : FaultRec) : Option State :=
  let x := s.part p n
  if first && x.tailFree then
    let k := x.fqTail.toNat % 256
    let s := s.placeRecord p n k r
    some ((s.setPart p n { s.part p n with fqTail := x.fqTail + 1 }).interrupt p (8192 + 2 * n))
  else if r.correctable then some (s.setPart p n (x.count cntFaultDropped))
  else if r.held.isNone then (x.oldestCorrectable).map (fun k => (s.placeRecord p n k r).interrupt p (8192 + 2 * n))
  else none

/-- Handles the first waiting record that can be handled. -/
def State.writeWaiting (s : State) (p n : Nat) : List FaultRec → List FaultRec → Option State
  | _, [] => none
  | before, r :: rest =>
    match s.writeRecord p n before.isEmpty r with
    | some s' => some (s'.setPart p n { s'.part p n with fqWait := before ++ rest })
    | none => s.writeWaiting p n (before ++ [r]) rest

/-- FAULT_RECORD_WRITE (R144): one record is written or dropped. -/
def execFaultRecordWrite (p n : Nat) (s : State) : Out :=
  .next ((s.writeWaiting p n [] (s.part p n).fqWait).getD s)

/-! ## ECC -/

/-- Source codes of a record. -/
def srcScratch : Nat := 3
/-- The accumulator store. -/
def srcAcc : Nat := 4
/-- Near memory. -/
def srcNear : Nat := 5

/-- How many bits of a codeword of a team are wrong: kind 0 scratchpad row, 1 accumulator word, 2 tile element. -/
def Team.errCount (x : Team) (kind i : Nat) : Nat := (x.errs.filter (fun e => e.1 = kind && e.2.1 = i)).length

/-- A team without the wrong bits of a codeword. -/
def Team.clean (x : Team) (kind i : Nat) : Team := { x with errs := x.errs.filter (fun e => !(e.1 = kind && e.2.1 = i)) }

/-- An uncorrectable error that a team reads: its grid ends FAULTED with cause ECC_FATAL (R114). -/
def State.eccFatal (s : State) (t source addr : Nat) : State :=
  let x := s.team t
  (s.record x.port x.part (s.teamRec t cauFatal source addr)).endGrid x.grid stFaulted

/-- Reads a codeword of a team: one wrong bit is corrected and reported, more are fatal. Answers whether the read gives the
stored value. -/
def State.checkTeam (s : State) (t kind i source addr : Nat) : State × Bool :=
  let x := s.team t
  let n := x.errCount kind i
  if n = 0 then (s, true)
  else if n = 1 then ((s.record x.port x.part (s.teamRec t cauEcc source addr)).setTeam t (x.clean kind i), true)
  else (s.eccFatal t source addr, false)

/-- Reads a scratchpad row (R114). -/
def State.checkRow (s : State) (t row : Nat) : State × Bool := s.checkTeam t 0 row srcScratch (16 * row)

/-- How many bits of a 64-byte near unit are wrong. -/
def Pkg.errCount (p : Pkg) (unit : Nat) : Nat := (p.errs.filter (fun e => e.1 = unit)).length

/-- A package without the wrong bits of a near unit. -/
def Pkg.clean (p : Pkg) (unit : Nat) : Pkg := { p with errs := p.errs.filter (fun e => e.1 != unit) }

/-- Reads a near unit for a team (R119). Its record holds the near address of the unit in the package, that of a code line the team-local
address of the line (State.nearLine): which address it is no rule says (DESIGN CHOICE, log entry 46). -/
def State.checkNear (s : State) (t unit : Nat) : State × Bool :=
  let x := s.team t
  let k := s.pkg x.port
  let n := k.errCount unit
  if n = 0 then (s, true)
  else if n = 1 then ((s.setPkg x.port (k.clean unit)).record x.port x.part (s.teamRec t cauEcc srcNear (64 * unit)), true)
  else (s.eccFatal t srcNear (64 * unit), false)

/-- Reads several codewords in turn, up to the first that is fatal. -/
def checkAll {α : Type} (f : State → α → State × Bool) : List α → State → State × Bool
  | [], s => (s, true)
  | i :: l, s =>
    match f s i with
    | (s', true) => checkAll f l s'
    | (s', false) => (s', false)

end Sys2Proof.Machine
end

