-- ==== Sys2Proof/Machine/Translate.lean ====
section
/-! DEFINITION. Translation at a module (R126, R156 to R159, R215), the order of failures (R127), and access counting
(R147, R184). -/
namespace Sys2Proof.Machine

/-- The result of a walk: the address at the module, the page shift and the permissions (bit 0 R, 1 W, 2 A), or a fault of
a stage. -/
inductive Walked
  | page (pa shift perms : Nat)
  | fault (stage : Nat)
  deriving DecidableEq, Repr

/-- The levels of a table: highest index bit and page shift (R156). -/
def levels : List (Nat × Nat) := [(49, 35), (34, 29), (28, 21), (20, 16)]

/-- Whether a descriptor is valid as it stands: V, and reserved bits 0 (R157). -/
def descOk (d : Nat) : Bool := bits d 0 0 == 1 && bits d 63 50 == 0 && bits d 11 5 == 0

/-- A walk down the levels (R157): `rd` reads a descriptor at a table address, or answers the stage of its own fault. The
permissions are those of the leaf; A, W and R of the descriptor of a table do not restrict what lies below it (DESIGN CHOICE,
log entry 46). -/
def walkLevels (stage : Nat) (rd : Nat → Except Nat Nat) (ia : Nat) : List (Nat × Nat) → Nat → Walked
  | [], _ => .fault stage
  | (hi, sh) :: rest, table =>
    match rd (table + 8 * bits ia hi sh) with
    | .error st => .fault st
    | .ok d =>
      let addr := bits d 49 12 * 4096
      if !descOk d then .fault stage
      else if bits d 1 1 = 1 then
        if addr % 2 ^ sh = 0 then .page (addr + ia % 2 ^ sh) sh (bits d 4 2) else .fault stage
      else walkLevels stage rd ia rest addr

/-- Stage 2 (R126, R158), `desc` giving the descriptor at an address of the module: an intermediate address to a module physical address below 512 GiB. -/
def walk2 (desc : Nat → Nat) (root ia : Nat) : Walked :=
  if bits root 0 0 = 0 then .fault 2 else
  match walkLevels 2 (fun a => .ok (desc a)) ia levels (bits root 49 18 * 2 ^ 18) with
  | .page pa sh perms => if pa < 2 ^ 39 then .page pa sh perms else .fault 2
  | f => f

/-- Reads a descriptor at an intermediate address: stage 2 must permit reads (R157). -/
def readVia2 (desc : Nat → Nat) (root a : Nat) : Except Nat Nat :=
  match walk2 desc root a with
  | .page pa _ perms => if bits perms 0 0 = 1 then .ok (desc pa) else .error 2
  | .fault st => .error st

/-- Both stages (R125, R158): the smaller page, the permissions of both. -/
def walkBoth (desc : Nat → Nat) (root ptbase pasid ia : Nat) : Walked :=
  if bits root 0 0 = 0 then .fault 2
  else if bits ptbase 0 0 = 0 ∨ 20 < bits ptbase 5 1 ∨ 2 ^ bits ptbase 5 1 ≤ pasid then .fault 1
  else
    match readVia2 desc root (bits ptbase 49 12 * 4096 + 8 * pasid) with
    | .error st => .fault st
    | .ok e =>
      if bits e 0 0 = 0 ∨ bits e 17 1 ≠ 0 ∨ bits e 63 50 ≠ 0 then .fault 1
      else
        match walkLevels 1 (readVia2 desc root) ia levels (bits e 49 18 * 2 ^ 18) with
        | .fault st => .fault st
        | .page ia2 sh1 p1 =>
          match walk2 desc root ia2 with
          | .fault st => .fault st
          | .page pa sh2 p2 => .page pa (min sh1 sh2) (p1 &&& p2)

/-- The context of a far access: port, partition, PASID. -/
structure FarCtx where
  port : Nat
  part : Nat
  pasid : Nat
  tenant : Nat
  secure : Bool

/-- The cached translation of an offset. -/
def Module.cached (x : Module) (c : FarCtx) (off : Nat) : Option TlbEntry :=
  x.tlb.find? (fun e => e.port = c.port && e.part = c.part && e.pasid = c.pasid && off / 2 ^ e.size = e.va)

/-- The memory of a module as it was some writes ago. -/
def Module.ago (x : Module) (n : Nat) : Memory := (x.past.take n).foldl (fun m e => m.writeN e.1 e.2) x.mem

/-- The descriptor that a walk finds at an address (R215): as stored now, or an older value that no translation fence of the
partition has covered; the value may be another one for each address. -/
def Module.desc (x : Module) (c : FarCtx) (how : Walk) (a : Nat) : Nat :=
  match how with
  | .older l => (x.ago (min (Map.get l a 0) (x.past.length - Map.get x.fenceAt (32 * c.port + c.part) 0))).num a 8
  | _ => x.mem.num a 8

/-- A walk of a module (R215): from its TLB, or from the tables; without a cached translation the tables are read. -/
def Module.walk (x : Module) (c : FarCtx) (off : Nat) (how : Walk) : Walked :=
  let regs := Map.get x.roots (32 * c.port + c.part) (0, 0)
  match (if how = .cached then x.cached c off else none) with
  | some e => .page (e.pa * 2 ^ e.size + off % 2 ^ e.size) e.size e.perms
  | none => walkBoth (x.desc c how) regs.1.toNat regs.2.toNat c.pasid off

/-- Keeps a translation in the TLB. -/
def Module.fill (x : Module) (c : FarCtx) (off : Nat) (w : Walked) : Module :=
  match w with
  | .page pa sh perms =>
    let e : TlbEntry := { port := c.port, part := c.part, pasid := c.pasid, va := off / 2 ^ sh, size := sh, pa := pa / 2 ^ sh, perms := perms }
    { x with tlb := e :: x.tlb.filter (fun f => !(f.port = c.port && f.part = c.part && f.pasid = c.pasid && f.size = sh && f.va = e.va)) }
  | .fault _ => x

/-- Whether a physical address is in a secure unit, by the world map as of the last window (R150, R159). -/
def Module.secureAt (x : Module) (pa : Nat) : Bool :=
  (x.wmMem.read (x.wmAct.toNat + pa / 65536 / 8)).getLsbD (pa / 65536 % 8)

/-- The permission bit that an access needs (R157). -/
inductive Need | read | write | atomic
  deriving DecidableEq, Repr

/-- The bit of a need. -/
def Need.bit : Need → Nat
  | .read => 0
  | .write => 1
  | .atomic => 2

/-- The need of an atomic operation (R157). -/
def needOf (op : Aop) : Need :=
  match op with
  | .load => .read
  | .store => .write
  | _ => .atomic

/-- How a module decides an access (R127). -/
inductive Verdict
  | ok (pa : Nat)
  | revoked
  | perm
  | fault (stage : Nat)
  | world
  deriving DecidableEq, Repr

/-- Whether a tenant's bucket entry is valid (R149, R168). -/
def Module.tenantOk (x : Module) (tenant : Nat) : Bool := (Map.get x.buckets tenant Bucket.blank).flags == 1

/-- The first failure of an access, in the order of R127, or its physical address. -/
def Module.judge (x : Module) (c : FarCtx) (off : Nat) (need : Need) (how : Walk) : Verdict :=
  if x.revoked.contains (c.port, c.part, c.pasid) then .revoked
  else if !x.tenantOk c.tenant then .perm
  else
    match x.walk c off how with
    | .fault st => .fault st
    | .page pa _ perms =>
      if !bitOf perms need.bit then .perm
      else if x.secureAt pa && !c.secure then .world
      else .ok pa

/-- The module after a walk: the translation is cached. -/
def Module.after (x : Module) (c : FarCtx) (off : Nat) (how : Walk) : Module :=
  if x.revoked.contains (c.port, c.part, c.pasid) || !x.tenantOk c.tenant then x else x.fill c off (x.walk c off how)

/-- Kinds of a sample (R147). -/
def kindOfNeed : Need → Nat
  | .read => 0
  | .write => 1
  | .atomic => 2

/-- Writes bytes to a module; what they replace stays known to the walks that no fence orders (R215). -/
def Module.put (x : Module) (a : Nat) (b : List Byte) : Module :=
  { x with mem := x.mem.writeN a b, past := (a, x.mem.readN a b.length) :: x.past }

/-- Counts an access of a tenant and samples it (R147, R184): the counter of 20 bits; with hotness on, the access that
makes its low k bits 0 writes a sample, unless the ring is full. The ring's size register counts samples (log entry 11). Of a
place outside the module's 512 GiB (R23) nothing is written (DESIGN CHOICE, log entry 11). -/
def State.sample (s : State) (m tenant pa kind : Nat) : State :=
  let x := s.mod m
  let n := (Map.get x.accCount tenant 0 + 1) % 2 ^ 20
  let x := { x with accCount := Map.set x.accCount tenant n }
  let k := bits x.hotctl 4 0
  if bits x.hotctl 7 7 = 0 ∨ n % 2 ^ k ≠ 0 then s.setMod m x
  else
    let ring := Map.get x.rings tenant (0, 0)
    let idx := Map.get x.ringIdx tenant (0, 0)
    if ring.2.toNat ≤ (idx.1 + 2 ^ 32 - idx.2) % 2 ^ 32 then s.setMod m (x.count (cntHotDropped + 256 * tenant))
    else
      let b := bytesOf 8 pa ++ bytesOf 2 tenant ++ bytesOf 1 kind ++ bytesOf 1 0 ++ bytesOf 4 (s.now / 1000)
      let a := ring.1.toNat + 16 * (idx.1 % ring.2.toNat)
      let x := if a + 16 ≤ 2 ^ 39 then x.put a b else x
      s.setMod m { x with
        ringIdx := Map.set x.ringIdx tenant ((idx.1 + 1) % 2 ^ 32, idx.2) }

/-- A far write performed at a module: the bytes, and the end of release sequences (R211, R213). -/
def State.farWrite (s : State) (m pa : Nat) (b : List Byte) : State :=
  let x := s.mod m
  let y := x.put pa b
  s.setMod m { y with rels := endRels x.rels pa b.length }

/-! ## Token buckets (R168, R230) -/

/-- The bucket of a tenant. -/
def Module.bucket (x : Module) (t : Nat) : Bucket := Map.get x.buckets t Bucket.blank

/-- Draws bytes from a tenant's level. -/
def State.draw (s : State) (m t n : Nat) : State :=
  let x := s.mod m
  let b := x.bucket t
  s.setMod m { x with buckets := Map.set x.buckets t { b with level := b.level - n } }

/-- Returns unused bytes to a tenant's level, never above BURST. -/
def State.giveBack (s : State) (m t n : Nat) : State :=
  let x := s.mod m
  let b := x.bucket t
  s.setMod m { x with buckets := Map.set x.buckets t { b with level := min (b.level + n) b.burst } }

end Sys2Proof.Machine
end

