-- ==== Sys2Proof/Machine/Links.lean ====
section
/-! DEFINITION. Channels of a partition and management channels (R153, R223, R225, R237, R389): planes, live lanes, states,
and messages that wait to be sent (R388). -/
namespace Sys2Proof.Machine

/-- The number of the management channel in a LinkId (R389). -/
def mgmt : Nat := 32

/-! ## The router (R16 to R18) -/

/-- The port at which light leaves a plane of the router that enters port i in slot w, of band A or of its twin in band B (R16). -/
def routerOut (i w : Nat) : Nat := (i + w) % 128

/-- The port of a module (R17). -/
def modPort (m : Nat) : Nat := 64 + m

/-- The port of the sending end of a lane between a package and a module (R17, R18). -/
def lanePort (p m : Nat) (up : Bool) : Nat := if up then p else modPort m

/-- The wavelength slot of a lane (R18): the same for its band-A laser and for a spare that has taken its place (R20). -/
def laneSlot (p m : Nat) (up : Bool) : Nat := if up then 64 + m - p else 64 + p - m

/-- The port that a lane's light reaches. -/
def laneLands (p m : Nat) (up : Bool) : Nat := routerOut (lanePort p m up) (laneSlot p m up)

/-- Whether a lane joins two ports with something attached (R17): a package port and a module port. -/
def State.attached (s : State) (p m : Nat) (up : Bool) : Bool :=
  decide (p < 64 ∧ m < 64) && !s.dark.contains (lanePort p m up) && !s.dark.contains (laneLands p m up)

/-- The planes that a partition owns to a module (R153). -/
def State.planes (s : State) (port part m : Nat) : List Nat :=
  (List.range 16).filter (fun p =>
    let e := (Map.get (s.pkg port).alloc (16 * m + p) 0).toNat
    bits e 15 15 == 1 && bits e 4 0 == part)

/-- Whether a lane carries chunks (R237). -/
def Lane.live : Lane → Bool
  | .ok => true
  | .spare _ => true
  | _ => false

/-- The live set of a channel direction (R225), or the one plane of a management channel (R389). -/
def State.live (s : State) (l : LinkId) : List Nat :=
  let ok (p : Nat) : Bool := (s.lane l.port l.pmod p l.up).live && s.attached l.port l.pmod l.up
  if l.part = mgmt then ((List.range 16).filter ok).take 1
  else (s.planes l.port l.part l.pmod).filter ok

/-- The number of live lanes below which a channel goes DOWN (R237). -/
def downLimit (a : Nat) : Nat := (3 * a + 3) / 4

/-- The tenant number under which a partition is known to a module (R154). -/
def State.tenantAt (s : State) (port part m : Nat) : Option Nat :=
  ((s.part port part).modules.find? (fun e => e.2.1 == m)).map (fun e => e.2.2)

/-- The ingress slots that a module reserves for a channel: 16 where its tenant is valid (R236); a channel of a package has 256
(R236), and a management channel too, outside the pool of 16,384: R236 and R389 give no number (DESIGN CHOICE, log entry 27). -/
def State.reserve (s : State) (l : LinkId) : Nat :=
  if !l.up ∨ l.part = mgmt then 256
  else match s.tenantAt l.port l.part l.pmod with
    | some t => if (Map.get (s.mod l.pmod).buckets t Bucket.blank).flags = 1 then 16 else 0
    | none => 0

/-- A channel direction; one that nothing has used yet stands as it was commissioned, its reserved slots offered (R236, R371). -/
def State.link (s : State) (l : LinkId) : Link :=
  ((s.links.find? (fun e => e.1 = l)).map (fun e => e.2)).getD (Link.blank (s.reserve l))

/-- Whether the channel of a partition to a module is DOWN in a direction (R239). -/
def State.isDown (s : State) (port part m : Nat) : Bool :=
  (s.link ⟨port, part, m, true⟩).down || (s.link ⟨port, part, m, false⟩).down

/-- Whether lanes carry light in both directions between a package and a module for a partition: ports with nothing attached, and lanes
that are out, answer nothing (R17). -/
def State.reaches (s : State) (port part m : Nat) : Bool :=
  !s.isDown port part m && !(s.live ⟨port, part, m, true⟩).isEmpty && !(s.live ⟨port, part, m, false⟩).isEmpty

/-- Whether a channel direction may move chunks: up, not in a resume, not in a retrain. -/
def State.moving (s : State) (l : LinkId) : Bool :=
  let k := s.link l
  (s.pkg l.port).up && !k.down && k.resume.isNone && k.retrain.isNone && !(s.live l).isEmpty

/-- Puts a message at the end of those that wait for a channel direction. -/
def State.enqueue (s : State) (l : LinkId) (m : Msg) : State :=
  let k := s.link l
  s.setLink l { k with outq := k.outq ++ [m] }

/-- Channel states (R105, R237): 0 UP, 1 SUBST, 2 DEGRADED, 3 RETRAIN, 4 DOWN, of one direction. -/
def State.chanState (s : State) (l : LinkId) : Nat :=
  let k := s.link l
  let ls := (s.planes l.port l.part l.pmod).map (fun p => s.lane l.port l.pmod p l.up)
  if k.retrain.isSome then 3
  else if k.down then 4
  else if ls.any (fun x => match x with | .locking _ _ _ => true | _ => false) then 1
  else if ls.any (fun x => match x with | .dead _ => true | _ => false) then 2
  else 0

/-- Whether a message of the sender is still to be sent or not yet acknowledged. -/
def State.unacked (s : State) (l : LinkId) (m : Msg) : Bool :=
  let k := s.link l
  k.outq.contains m || k.retry.any (fun e => e.2 == m)

/-- Puts a message into the inbox of the receiving end of a channel direction. -/
def State.toInbox (s : State) (l : LinkId) (m : Msg) : State :=
  if l.up then s.setMod l.pmod { s.mod l.pmod with inbox := (s.mod l.pmod).inbox ++ [(l.port, l.part, m)] }
  else s.setPkg l.port { s.pkg l.port with inbox := (s.pkg l.port).inbox ++ [(l.pmod, l.part, m)] }

/-- The inbox of an end. -/
def State.inboxOf (s : State) (e : End) : List (Nat × Nat × Msg) :=
  match e with
  | .pkg p => (s.pkg p).inbox
  | .mod m => (s.mod m).inbox

/-- An ingress slot of a channel at a module is free again (R236). -/
def State.freeSlot (s : State) (port part m : Nat) : State :=
  if part = mgmt then s else
  let l : LinkId := ⟨port, part, m, true⟩
  s.setLink l { s.link l with slots := (s.link l).slots - 1 }

/-- Whether a message that leaves an inbox frees no ingress slot: a lane far atomic, which keeps it until it is performed (R235), and
a request to send that came in a data chunk, whose slot is the data's (R236). -/
def Msg.keepsSlot : Msg → Bool
  | .farReq _ => true
  | .rts _ _ _ own => !own
  | _ => false

/-- Removes the first of some equal messages from the inbox of an end; at a module its ingress slot is free. -/
def State.takeInbox (s : State) (e : End) (x : Nat × Nat × Msg) : State :=
  match e with
  | .pkg p => s.setPkg p { s.pkg p with inbox := (s.pkg p).inbox.erase x }
  | .mod m =>
    let s := s.setMod m { s.mod m with inbox := (s.mod m).inbox.erase x }
    if x.2.2.keepsSlot then s else s.freeSlot x.1 x.2.1 m

/-- Whether a message is a request that a module performs in its place (R213, R222). -/
def Msg.performs : Msg → Bool
  | .readReq _ => true
  | .rearm _ _ => true
  | .farReq _ => true
  | .engm _ => true
  | _ => false

/-- The oldest request of a channel in a module's inbox that is still to be performed (R213). -/
def Module.head (x : Module) (port part : Nat) : Option Msg :=
  (x.inbox.find? (fun e => e.1 = port && e.2.1 = part && e.2.2.performs)).map (fun e => e.2.2)

end Sys2Proof.Machine
end

