-- ==== Sys2Proof/Machine/Integer.lean ====
section
/-! DEFINITION. Integer, bit-field, comparison and predicate instructions (R267 to R274). -/
namespace Sys2Proof.Machine

/-- Instructions valid in both streams. -/
def both : Use := { lane := true, ctl := true }
/-- Instructions valid in the lane stream only. -/
def laneUse : Use := { lane := true, ctl := false }
/-- Instructions valid in the control stream only. -/
def ctlUse : Use := { lane := false, ctl := true }

/-- NOP (R267). -/
def execNop (s : State) : Out := .next (s.withUse both 0 fun s _ => s.done)

/-! ## Three-register forms (R268) -/

/-- A guarded A-format integer operation on two sources. -/
def State.int3 (s : State) (n : Bool) (d a b : Reg) (g : BitVec 5) (f : (w : Nat) → Args w → BitVec w) : State :=
  s.compute { both with srcs := [a, b] } .I n d a b g.toNat false 0 f

/-- SHL with the whole of b as amount. -/
def shlW {w : Nat} (a : BitVec w) (n : Nat) : BitVec w := if n ≥ w then 0 else a <<< n
/-- SHR with the whole of b as amount. -/
def shrW {w : Nat} (a : BitVec w) (n : Nat) : BitVec w := if n ≥ w then 0 else a >>> n
/-- SAR with the whole of b as amount. -/
def sarW {w : Nat} (a : BitVec w) (n : Nat) : BitVec w := if n ≥ w then (if a.msb then BitVec.allOnes w else 0) else a.sshiftRight n
/-- The signed minimum (R268). -/
def minS {w : Nat} (a b : BitVec w) : BitVec w := if a.toInt ≤ b.toInt then a else b
/-- The signed maximum. -/
def maxS {w : Nat} (a b : BitVec w) : BitVec w := if a.toInt ≥ b.toInt then a else b
/-- The unsigned minimum. -/
def minU {w : Nat} (a b : BitVec w) : BitVec w := if a.toNat ≤ b.toNat then a else b
/-- The unsigned maximum. -/
def maxU {w : Nat} (a b : BitVec w) : BitVec w := if a.toNat ≥ b.toNat then a else b

/-- ADD (R268). -/
def execAdd (n : Bool) (d a b : Reg) (g : BitVec 5) (s : State) : Out := .next (s.int3 n d a b g fun _ x => x.a + x.b)
/-- SUB. -/
def execSub (n : Bool) (d a b : Reg) (g : BitVec 5) (s : State) : Out := .next (s.int3 n d a b g fun _ x => x.a - x.b)
/-- MUL. -/
def execMul (n : Bool) (d a b : Reg) (g : BitVec 5) (s : State) : Out := .next (s.int3 n d a b g fun _ x => x.a * x.b)
/-- MULH. -/
def execMulh (n : Bool) (d a b : Reg) (g : BitVec 5) (s : State) : Out :=
  .next (s.int3 n d a b g fun w x => BitVec.ofInt w (x.a.toInt * x.b.toInt / 2 ^ w))
/-- MULHU. -/
def execMulhu (n : Bool) (d a b : Reg) (g : BitVec 5) (s : State) : Out :=
  .next (s.int3 n d a b g fun w x => BitVec.ofNat w (x.a.toNat * x.b.toNat / 2 ^ w))
/-- MAD. -/
def execMad (n : Bool) (d a b : Reg) (g : BitVec 5) (s : State) : Out := .next (s.int3 n d a b g fun _ x => x.d + x.a * x.b)
/-- AND. -/
def execAnd (n : Bool) (d a b : Reg) (g : BitVec 5) (s : State) : Out := .next (s.int3 n d a b g fun _ x => x.a &&& x.b)
/-- OR. -/
def execOr (n : Bool) (d a b : Reg) (g : BitVec 5) (s : State) : Out := .next (s.int3 n d a b g fun _ x => x.a ||| x.b)
/-- XOR. -/
def execXor (n : Bool) (d a b : Reg) (g : BitVec 5) (s : State) : Out := .next (s.int3 n d a b g fun _ x => x.a ^^^ x.b)
/-- ANDN. -/
def execAndn (n : Bool) (d a b : Reg) (g : BitVec 5) (s : State) : Out := .next (s.int3 n d a b g fun _ x => x.a &&& ~~~x.b)
/-- SHL. -/
def execShl (n : Bool) (d a b : Reg) (g : BitVec 5) (s : State) : Out := .next (s.int3 n d a b g fun _ x => shlW x.a x.b.toNat)
/-- SHR. -/
def execShr (n : Bool) (d a b : Reg) (g : BitVec 5) (s : State) : Out := .next (s.int3 n d a b g fun _ x => shrW x.a x.b.toNat)
/-- SAR. -/
def execSar (n : Bool) (d a b : Reg) (g : BitVec 5) (s : State) : Out := .next (s.int3 n d a b g fun _ x => sarW x.a x.b.toNat)
/-- MIN. -/
def execMin (n : Bool) (d a b : Reg) (g : BitVec 5) (s : State) : Out := .next (s.int3 n d a b g fun _ x => minS x.a x.b)
/-- MAX. -/
def execMax (n : Bool) (d a b : Reg) (g : BitVec 5) (s : State) : Out := .next (s.int3 n d a b g fun _ x => maxS x.a x.b)
/-- MINU. -/
def execMinu (n : Bool) (d a b : Reg) (g : BitVec 5) (s : State) : Out := .next (s.int3 n d a b g fun _ x => minU x.a x.b)
/-- MAXU. -/
def execMaxu (n : Bool) (d a b : Reg) (g : BitVec 5) (s : State) : Out := .next (s.int3 n d a b g fun _ x => maxU x.a x.b)
/-- SEL: every executing lane acts, the guard selects. -/
def execSel (n : Bool) (d a b : Reg) (g : BitVec 5) (s : State) : Out :=
  .next (s.compute { both with srcs := [a, b] } .I n d a b g.toNat true 0 fun _ x => if x.g then x.a else x.b)
/-- MOV: B is unused. -/
def execMov (n : Bool) (d a : Reg) (g : BitVec 5) (s : State) : Out :=
  .next (s.compute { both with srcs := [a] } .I n d a a g.toNat false 0 fun _ x => x.a)

/-! ## 64-bit lane forms (R269) -/

/-- ADD64. -/
def execAdd64 (n : Bool) (d a b : Reg) (g : BitVec 5) (s : State) : Out := .next (s.computePair .I n d a b true g.toNat 0 fun x => x.a + x.b)
/-- SUB64. -/
def execSub64 (n : Bool) (d a b : Reg) (g : BitVec 5) (s : State) : Out := .next (s.computePair .I n d a b true g.toNat 0 fun x => x.a - x.b)
/-- MUL64. -/
def execMul64 (n : Bool) (d a b : Reg) (g : BitVec 5) (s : State) : Out := .next (s.computePair .I n d a b true g.toNat 0 fun x => x.a * x.b)
/-- SHL64. -/
def execShl64 (n : Bool) (d a b : Reg) (g : BitVec 5) (s : State) : Out :=
  .next (s.computePair .I n d a b true g.toNat 0 fun x => shlW x.a x.b.toNat)
/-- SHR64. -/
def execShr64 (n : Bool) (d a b : Reg) (g : BitVec 5) (s : State) : Out :=
  .next (s.computePair .I n d a b true g.toNat 0 fun x => shrW x.a x.b.toNat)
/-- SAR64. -/
def execSar64 (n : Bool) (d a b : Reg) (g : BitVec 5) (s : State) : Out :=
  .next (s.computePair .I n d a b true g.toNat 0 fun x => sarW x.a x.b.toNat)

/-! ## Immediate forms (R270) -/

/-- An unguarded operation with the sign-extended immediate as b. -/
def State.imm (s : State) (n : Bool) (d a : Reg) (i : BitVec 11) (f : (w : Nat) → BitVec w → BitVec w → BitVec w) : State :=
  s.compute { both with srcs := [a] } .I n d a a 0 true 0 fun w x => f w x.a (i.signExtend w)

/-- A shift by an unsigned immediate, at most 31 in lanes and 63 in control (R75). -/
def State.immShift (s : State) (n : Bool) (d a : Reg) (i : BitVec 11) (f : (w : Nat) → BitVec w → Nat → BitVec w) : State :=
  s.compute { both with srcs := [a], ok := decide (i.toNat ≤ (if s.inLane then 31 else 63)) } .I n d a a 0 true 0
    fun w x => f w x.a i.toNat

/-- ADDI. -/
def execAddi (n : Bool) (d a : Reg) (i : BitVec 11) (s : State) : Out := .next (s.imm n d a i fun _ x y => x + y)
/-- ANDI. -/
def execAndi (n : Bool) (d a : Reg) (i : BitVec 11) (s : State) : Out := .next (s.imm n d a i fun _ x y => x &&& y)
/-- ORI. -/
def execOri (n : Bool) (d a : Reg) (i : BitVec 11) (s : State) : Out := .next (s.imm n d a i fun _ x y => x ||| y)
/-- XORI. -/
def execXori (n : Bool) (d a : Reg) (i : BitVec 11) (s : State) : Out := .next (s.imm n d a i fun _ x y => x ^^^ y)
/-- SHLI. -/
def execShli (n : Bool) (d a : Reg) (i : BitVec 11) (s : State) : Out := .next (s.immShift n d a i fun _ x k => shlW x k)
/-- SHRI. -/
def execShri (n : Bool) (d a : Reg) (i : BitVec 11) (s : State) : Out := .next (s.immShift n d a i fun _ x k => shrW x k)
/-- SARI. -/
def execSari (n : Bool) (d a : Reg) (i : BitVec 11) (s : State) : Out := .next (s.immShift n d a i fun _ x k => sarW x k)
/-- MOVI: A is unused. -/
def execMovi (n : Bool) (d : Reg) (i : BitVec 11) (s : State) : Out :=
  .next (s.compute both .I n d 0 0 0 true 0 fun w _ => i.signExtend w)

/-! ## IUNARY (R271) -/

/-- A unary integer operation. -/
def State.unary (s : State) (n : Bool) (d a : Reg) (f : (w : Nat) → BitVec w → BitVec w) : State :=
  s.compute { both with srcs := [a] } .I n d a a 0 true 0 fun w x => f w x.a

/-- The number of 1 bits. -/
def popcount {w : Nat} (a : BitVec w) : Nat := ((List.range w).filter (fun k => a.getLsbD k)).length
/-- The number of leading 0 bits. -/
def leading {w : Nat} (a : BitVec w) : Nat := ((List.range w).takeWhile (fun k => !a.getLsbD (w - 1 - k))).length
/-- The number of trailing 0 bits. -/
def trailing {w : Nat} (a : BitVec w) : Nat := ((List.range w).takeWhile (fun k => !a.getLsbD k)).length
/-- The bits in reverse order. -/
def reversed {w : Nat} (a : BitVec w) : BitVec w :=
  BitVec.ofNat w ((List.range w).foldl (fun n k => if a.getLsbD (w - 1 - k) then n + 2 ^ k else n) 0)

/-- POPC. -/
def execPopc (n : Bool) (d a : Reg) (s : State) : Out := .next (s.unary n d a fun w x => BitVec.ofNat w (popcount x))
/-- CLZ. -/
def execClz (n : Bool) (d a : Reg) (s : State) : Out := .next (s.unary n d a fun w x => BitVec.ofNat w (leading x))
/-- CTZ. -/
def execCtz (n : Bool) (d a : Reg) (s : State) : Out := .next (s.unary n d a fun w x => BitVec.ofNat w (trailing x))
/-- BREV. -/
def execBrev (n : Bool) (d a : Reg) (s : State) : Out := .next (s.unary n d a fun _ x => reversed x)
/-- NOT. -/
def execNot (n : Bool) (d a : Reg) (s : State) : Out := .next (s.unary n d a fun _ x => ~~~x)
/-- NEG. -/
def execNeg (n : Bool) (d a : Reg) (s : State) : Out := .next (s.unary n d a fun _ x => -x)
/-- ABS; the most negative value returns itself. -/
def execAbs (n : Bool) (d a : Reg) (s : State) : Out := .next (s.unary n d a fun _ x => if x.msb then -x else x)
/-- SEXT8. -/
def execSext8 (n : Bool) (d a : Reg) (s : State) : Out := .next (s.unary n d a fun w x => (x.setWidth 8).signExtend w)
/-- SEXT16. -/
def execSext16 (n : Bool) (d a : Reg) (s : State) : Out := .next (s.unary n d a fun w x => (x.setWidth 16).signExtend w)
/-- ZEXT8. -/
def execZext8 (n : Bool) (d a : Reg) (s : State) : Out := .next (s.unary n d a fun w x => (x.setWidth 8).setWidth w)
/-- ZEXT16. -/
def execZext16 (n : Bool) (d a : Reg) (s : State) : Out := .next (s.unary n d a fun w x => (x.setWidth 16).setWidth w)

/-! ## BITF (R272) -/

/-- The position that a control operand gives. -/
def bfPos (b : Nat) : Nat := bits b 5 0
/-- The width that a control operand gives. -/
def bfWid (w b : Nat) : Nat := min (bits b 13 8) w
/-- The field of a at the position and width. -/
def bfField (w a b : Nat) : Nat := if bfWid w b = 0 ∨ bfPos b ≥ w then 0 else a / 2 ^ bfPos b % 2 ^ bfWid w b
/-- BFX's result: the field, sign-extended. -/
def bfSigned (w a b : Nat) : BitVec w :=
  let f := bfField w a b
  let k := bfWid w b
  if 0 < k ∧ bitOf f (k - 1) then BitVec.ofInt w ((f : Int) - 2 ^ k) else BitVec.ofNat w f
/-- BFI's result: the low bits of a inserted into d. -/
def bfInsert (w : Nat) (d a : BitVec w) (b : Nat) : BitVec w :=
  if bfWid w b = 0 ∨ bfPos b ≥ w then d
  else
    let m := BitVec.ofNat w ((2 ^ bfWid w b - 1) * 2 ^ bfPos b)
    (d &&& ~~~m) ||| (BitVec.ofNat w (a.toNat * 2 ^ bfPos b) &&& m)
/-- BMIX's result from its source bytes. -/
def byteMix (w x b : Nat) : BitVec w :=
  BitVec.ofNat w (ofBytes ((List.range (w / 8)).map (fun i =>
    let n := bits b (4 * i + 3) (4 * i)
    let v := x / 2 ^ (8 * (n % 8)) % 256
    BitVec.ofNat 8 (if n < 8 then v else if 128 ≤ v then 255 else 0))))

/-- A bit-field operation; the old D is read. -/
def State.bitf (s : State) (n : Bool) (d a b : Reg) (f : (w : Nat) → Args w → BitVec w) : State :=
  s.compute { both with srcs := [a, b] } .I n d a b 0 true 0 f

/-- BFX. -/
def execBfx (n : Bool) (d a b : Reg) (s : State) : Out := .next (s.bitf n d a b fun w x => bfSigned w x.a.toNat x.b.toNat)
/-- BFXN. -/
def execBfxn (n : Bool) (d a b : Reg) (s : State) : Out :=
  .next (s.bitf n d a b fun w x => BitVec.ofNat w (bfField w x.a.toNat x.b.toNat))
/-- BFI. -/
def execBfi (n : Bool) (d a b : Reg) (s : State) : Out := .next (s.bitf n d a b fun w x => bfInsert w x.d x.a x.b.toNat)
/-- BMIX: bytes of a and d in lanes, of a alone in control. -/
def execBmix (n : Bool) (d a b : Reg) (s : State) : Out :=
  .next (s.bitf n d a b fun w x => byteMix w (if w = 32 then x.a.toNat + x.d.toNat * 2 ^ 32 else x.a.toNat) x.b.toNat)

/-! ## Comparisons and predicates (R273, R274) -/

/-- ICMP. -/
def execIcmp (p : BitVec 5) (k : Cnd) (m : Cmb) (a b : Reg) (s : State) : Out :=
  .next (s.compare { both with srcs := [a, b] } .I p.toNat m a b 0 fun _ x y => cndHolds k x y)
/-- ICMP64. -/
def execIcmp64 (p : BitVec 5) (k : Cnd) (m : Cmb) (a b : Reg) (s : State) : Out :=
  .next (s.comparePair .I p.toNat m a b 0 fun x y => cndHolds k x y)

/-- Whether a field holds a predicate number (R274). -/
def isPred (r : Reg) : Bool := decide (r.toNat ≤ 31)
/-- Whether a field holds a predicate destination. -/
def isPredDst (r : Reg) : Bool := isPred r && r != 0

/-- PAND. -/
def execPand (d a b : Reg) (s : State) : Out :=
  .next (s.predOp { both with ok := isPredDst d && isPred a && isPred b } d.toNat fun _ st l => st.pred a.toNat l && st.pred b.toNat l)
/-- POR. -/
def execPor (d a b : Reg) (s : State) : Out :=
  .next (s.predOp { both with ok := isPredDst d && isPred a && isPred b } d.toNat fun _ st l => st.pred a.toNat l || st.pred b.toNat l)
/-- PXOR. -/
def execPxor (d a b : Reg) (s : State) : Out :=
  .next (s.predOp { both with ok := isPredDst d && isPred a && isPred b } d.toNat fun _ st l => st.pred a.toNat l != st.pred b.toNat l)
/-- PANDN. -/
def execPandn (d a b : Reg) (s : State) : Out :=
  .next (s.predOp { both with ok := isPredDst d && isPred a && isPred b } d.toNat fun _ st l => st.pred a.toNat l && !st.pred b.toNat l)
/-- PNOT. -/
def execPnot (d a : Reg) (s : State) : Out :=
  .next (s.predOp { both with ok := isPredDst d && isPred a } d.toNat fun _ st l => !st.pred a.toNat l)
/-- PMOV. -/
def execPmov (d a : Reg) (s : State) : Out :=
  .next (s.predOp { both with ok := isPredDst d && isPred a } d.toNat fun _ st l => st.pred a.toNat l)
/-- PANY: true if pa is true in some executing lane. -/
def execPany (d a : Reg) (s : State) : Out :=
  .next (s.predOp { laneUse with ok := isPredDst d && isPred a } d.toNat fun _ st _ => (lanesOf st.ex st.n).any (st.pred a.toNat))
/-- PALL: true if pa is true in every executing lane. -/
def execPall (d a : Reg) (s : State) : Out :=
  .next (s.predOp { laneUse with ok := isPredDst d && isPred a } d.toNat fun _ st _ => (lanesOf st.ex st.n).all (st.pred a.toNat))

/-- A lane result computed from the whole stream (PTOV, BALLOT, XLANE), written in every executing lane. -/
def State.laneOp (s : State) (u : Use) (p : Pipe) (n : Bool) (d : Reg) (f : Ctx → (w : Nat) → Stream w → Nat → BitVec w) : State :=
  let blocks := s.onCur (fun _ st => st.blocks)
  let act := s.onCur (fun _ st => st.ex)
  let dst := resultDst s.inLane blocks n d
  s.withUse { u with ok := u.ok && dst.isSome } act fun s pops =>
    let c := s.ctx pops
    (s.modCur (fun w st => st.produce c.clk p (dst.getD none) (valsOf st.n act (fun l => f c w st l)))).done

/-- PTOV: the predicates of the lane as bits. -/
def execPtov (n : Bool) (d : Reg) (s : State) : Out :=
  .next (s.laneOp laneUse .I n d fun _ w st l => ((st.preds.getD l 1) ||| 1#32).setWidth w)
/-- BALLOT. -/
def execBallot (n : Bool) (d a : Reg) (s : State) : Out :=
  .next (s.laneOp { laneUse with ok := isPred a } .I n d fun _ w st _ => (maskOf st.n (fun j => st.ex.getLsbD j && st.pred a.toNat j)).setWidth w)
/-- VTOP: p1 to p31 from the bits of a. -/
def execVtop (a : Reg) (s : State) : Out :=
  .next (s.withUse { laneUse with srcs := [a] } (s.onCur (fun _ st => st.ex)) fun s pops =>
    let c := s.ctx pops
    (s.modCur (fun w st =>
      (List.range 31).foldl (fun (t : Stream w) k =>
        t.setpF (if k = 0 then st.setFlag else none) c.clk .I (k + 1) (valsOf st.n st.ex (fun l => (st.value c a l).getLsbD (k + 1)))) st)).done)

/-! ## Lane exchange (R275, R276) -/

/-- A shuffle: the source lane as a number, own value when it is outside 0 to 31 or does not execute. -/
def State.shuffle (s : State) (n : Bool) (d a b : Reg) (f : Nat → Nat → Int) : State :=
  s.laneOp { laneUse with srcs := [a, b] } .I n d fun c _ st l =>
    let q := f l (st.value c b l).toNat
    if 0 ≤ q ∧ q ≤ 31 ∧ st.ex.getLsbD q.toNat then st.value c a q.toNat else st.value c a l

/-- SHFL.IDX. -/
def execShflIdx (n : Bool) (d a b : Reg) (s : State) : Out := .next (s.shuffle n d a b fun _ x => x)
/-- SHFL.UP. -/
def execShflUp (n : Bool) (d a b : Reg) (s : State) : Out := .next (s.shuffle n d a b fun l x => (l : Int) - x)
/-- SHFL.DN. -/
def execShflDn (n : Bool) (d a b : Reg) (s : State) : Out := .next (s.shuffle n d a b fun l x => (l : Int) + x)
/-- SHFL.XOR. -/
def execShflXor (n : Bool) (d a b : Reg) (s : State) : Out := .next (s.shuffle n d a b fun l x => ((l ^^^ x : Nat) : Int))

/-- A reduction over the executing lanes, in ascending order; `lanes` says which of them lane L takes. -/
def State.reduce (s : State) (n : Bool) (d a : Reg) (take : Nat → Nat → Bool) (f : (w : Nat) → List (BitVec w) → BitVec w) : State :=
  s.laneOp { laneUse with srcs := [a] } .I n d fun c w st l =>
    f w (((lanesOf st.ex st.n).filter (take l)).map (fun j => st.value c a j))

/-- BCAST: the value of the lowest executing lane. -/
def execBcast (n : Bool) (d a : Reg) (s : State) : Out := .next (s.reduce n d a (fun _ _ => true) fun _ l => l.headD 0)
/-- LRED.ADD. -/
def execLredAdd (n : Bool) (d a : Reg) (s : State) : Out := .next (s.reduce n d a (fun _ _ => true) fun _ l => l.foldl (· + ·) 0)
/-- LRED.MIN. -/
def execLredMin (n : Bool) (d a : Reg) (s : State) : Out := .next (s.reduce n d a (fun _ _ => true) fun _ l => l.foldl minS (l.headD 0))
/-- LRED.MAX. -/
def execLredMax (n : Bool) (d a : Reg) (s : State) : Out := .next (s.reduce n d a (fun _ _ => true) fun _ l => l.foldl maxS (l.headD 0))
/-- LSCAN.ADD: the inclusive sum. -/
def execLscanAdd (n : Bool) (d a : Reg) (s : State) : Out := .next (s.reduce n d a (fun l j => decide (j ≤ l)) fun _ l => l.foldl (· + ·) 0)

end Sys2Proof.Machine
end

