-- ==== Sys2Proof/Machine/SoftFloat.lean ====
section
/-! DEFINITION. Number formats and arithmetic (R243 to R261): exact values, rounding, special cases, the functions of R248,
twin-exponent blocks. -/
namespace Sys2Proof.Machine

/-- A value read from a float format (R243, R244): NaN without payload, a signed infinity, or a signed exact value m · 2^e;
a zero keeps its sign. -/
inductive FV
  | nan
  | inf (neg : Bool)
  | fin (neg : Bool) (m : Nat) (e : Int)
  deriving DecidableEq, Repr

/-- A binary float format by its exponent and fraction widths (R243). -/
structure FFmt where
  eb : Nat
  fb : Nat
  deriving DecidableEq, Repr

/-- binary64. -/
def fF64 : FFmt := ⟨11, 52⟩
/-- binary32. -/
def fF32 : FFmt := ⟨8, 23⟩
/-- binary16. -/
def fF16 : FFmt := ⟨5, 10⟩
/-- bfloat16. -/
def fBf16 : FFmt := ⟨8, 7⟩

/-- The exponent bias. -/
def FFmt.bias (f : FFmt) : Nat := 2 ^ (f.eb - 1) - 1
/-- The pattern of +∞. -/
def FFmt.infBits (f : FFmt) : Nat := (2 ^ f.eb - 1) * 2 ^ f.fb
/-- The sign bit. -/
def FFmt.signBit (f : FFmt) : Nat := 2 ^ (f.eb + f.fb)
/-- The canonical NaN (R243). -/
def FFmt.nanBits (f : FFmt) : Nat := f.infBits + 2 ^ (f.fb - 1)
/-- The least exponent of a normal value. -/
def FFmt.emin (f : FFmt) : Int := 1 - (f.bias : Int)

/-- The sign of a pattern. -/
def FFmt.neg (f : FFmt) (x : Nat) : Bool := x / f.signBit % 2 == 1

/-- val(x, fmt) of R277. -/
def FFmt.val (f : FFmt) (x : Nat) : FV :=
  let e := x / 2 ^ f.fb % 2 ^ f.eb
  let m := x % 2 ^ f.fb
  if e = 2 ^ f.eb - 1 then (if m = 0 then .inf (f.neg x) else .nan)
  else if e = 0 then .fin (f.neg x) m (f.emin - f.fb)
  else .fin (f.neg x) (m + 2 ^ f.fb) (f.emin - f.fb + (e - 1 : Nat))

/-- Whether a discarded part raises the kept magnitude by one (R249): the kept part's last bit, the part, half a unit as a
fraction of the unit. RTO keeps the smaller magnitude here. -/
def roundsUp (r : Rnd) (neg : Bool) (last : Nat) (rest unit : Nat) : Bool :=
  if rest = 0 then false else
  match r with
  | .rne => decide (2 * rest > unit) || (decide (2 * rest = unit) && last % 2 == 1)
  | .rtz => false
  | .rup => !neg
  | .rdn => neg
  | .rto => false

/-- m · 2^e rounded to a multiple of 2^q, as that multiple (R249). -/
def roundTo (r : Rnd) (neg : Bool) (m : Nat) (e q : Int) : Nat :=
  if q ≤ e then m * 2 ^ (e - q).toNat
  else
    let u := 2 ^ (q - e).toNat
    let k := m / u
    let rest := m % u
    if r = .rto ∧ rest ≠ 0 then (if k % 2 = 0 then k + 1 else k)
    else if roundsUp r neg k rest u then k + 1 else k

/-- A pattern with a sign. -/
def FFmt.signed (f : FFmt) (neg : Bool) (x : Nat) : Nat := if neg then f.signBit + x else x

/-- rnd(v, fmt, m, s) and enc of R277 for a float format: R249, R250; with RNE and no SAT it is near of R277. -/
def FFmt.round (f : FFmt) (r : Rnd) (sat : Bool) (v : FV) : Nat :=
  match v with
  | .nan => f.nanBits
  | .inf s => f.signed s (if sat then f.infBits - 1 else f.infBits)
  | .fin s m e =>
    if m = 0 then f.signed s 0
    else
      let lead := e + (Nat.log2 m : Int)
      let top := max lead f.emin
      let k := roundTo r s m e (top - f.fb)
      let x := k + (top - f.emin).toNat * 2 ^ f.fb
      let largest : Bool := sat || r == .rtz || r == .rto || (r == .rup && s) || (r == .rdn && !s)
      f.signed s (if f.infBits ≤ x then (if largest then f.infBits - 1 else f.infBits) else x)

/-- near and enc of R277: round to nearest even. -/
def FFmt.near (f : FFmt) (v : FV) : Nat := f.round .rne false v

/-- A signed exact value from an integer and an exponent; zero gets the given sign. -/
def FV.ofInt (z : Bool) (i : Int) (e : Int) : FV := if i = 0 then .fin z 0 0 else .fin (decide (i < 0)) i.natAbs e

/-- The signed integer of a finite magnitude. -/
def sgn (neg : Bool) (m : Nat) : Int := if neg then -(m : Int) else m

/-- The exact sum, with the zero of R246. -/
def FV.add : FV → FV → FV
  | .nan, _ => .nan
  | _, .nan => .nan
  | .inf a, .inf b => if a = b then .inf a else .nan
  | .inf a, _ => .inf a
  | _, .inf b => .inf b
  | .fin a m e, .fin b n g =>
    let q := min e g
    FV.ofInt (a && b && m = 0 && n = 0) (sgn a m * 2 ^ (e - q).toNat + sgn b n * 2 ^ (g - q).toNat) q

/-- The negated value. -/
def FV.neg : FV → FV
  | .nan => .nan
  | .inf a => .inf (!a)
  | .fin a m e => .fin (!a) m e

/-- The exact product. -/
def FV.mul : FV → FV → FV
  | .nan, _ => .nan
  | _, .nan => .nan
  | .inf a, .inf b => .inf (a != b)
  | .inf a, .fin b n _ => if n = 0 then .nan else .inf (a != b)
  | .fin a m _, .inf b => if m = 0 then .nan else .inf (a != b)
  | .fin a m e, .fin b n g => .fin (a != b) (m * n) (e + g)

/-- The exact difference of two finite values, for comparison. -/
def FV.diff : FV → FV → Int
  | .fin a m e, .fin b n g =>
    let q := min e g
    sgn a m * 2 ^ (e - q).toNat - sgn b n * 2 ^ (g - q).toNat
  | _, _ => 0

/-- Numeric a < b for values that are not NaN (R284). -/
def FV.lt : FV → FV → Bool
  | .inf a, .inf b => a && !b
  | .inf a, .fin _ _ _ => a
  | .fin _ _ _, .inf b => !b
  | a, b => decide (a.diff b < 0)

/-- Whether a value is NaN. -/
def FV.isNan : FV → Bool
  | .nan => true
  | _ => false

/-- The float conditions of R284. -/
def fcndHolds (k : FCnd) (a b : FV) : Bool :=
  let un := a.isNan || b.isNan
  match k with
  | .eq => !un && !a.lt b && !b.lt a
  | .ne => un || a.lt b || b.lt a
  | .lt => !un && a.lt b
  | .le => !un && !b.lt a
  | .gt => !un && b.lt a
  | .ge => !un && !a.lt b
  | .un => un
  | .ord => !un

/-- minimumNumber on patterns, −0 below +0 (R247). -/
def FFmt.minNum (f : FFmt) (x y : Nat) : Nat :=
  let a := f.val x
  let b := f.val y
  if a.isNan then (if b.isNan then f.nanBits else y)
  else if b.isNan then x
  else if a.lt b then x
  else if b.lt a then y
  else if f.neg x then x else y

/-- maximumNumber on patterns (R247). -/
def FFmt.maxNum (f : FFmt) (x y : Nat) : Nat :=
  let a := f.val x
  let b := f.val y
  if a.isNan then (if b.isNan then f.nanBits else y)
  else if b.isNan then x
  else if b.lt a then x
  else if a.lt b then y
  else if f.neg x then y else x

/-- near(a + b) on patterns. -/
def FFmt.fadd (f : FFmt) (x y : Nat) : Nat := f.near ((f.val x).add (f.val y))
/-- near(a − b) on patterns. -/
def FFmt.fsub (f : FFmt) (x y : Nat) : Nat := f.near ((f.val x).add (f.val y).neg)
/-- near(a × b) on patterns. -/
def FFmt.fmul (f : FFmt) (x y : Nat) : Nat := f.near ((f.val x).mul (f.val y))
/-- near(a × b + d) on patterns, rounded once. -/
def FFmt.ffma (f : FFmt) (x y d : Nat) : Nat := f.near (((f.val x).mul (f.val y)).add (f.val d))

/-! ## The functions of R248 -/

/-- Fraction bits of the fixed-point evaluations of the transcendental functions (log entry 9). -/
def fxP : Nat := 320

/-- The integer square root, one bit at a time from bit `k` − 1 down. -/
def isqrtFrom (x : Nat) : Nat → Nat → Nat
  | 0, r => r
  | k + 1, r =>
    let t := r + 2 ^ k
    isqrtFrom x k (if t * t ≤ x then t else r)

/-- The integer square root. -/
def isqrt (x : Nat) : Nat := isqrtFrom x (Nat.log2 x / 2 + 1) 0

/-- A truncated magnitude with a sticky bit below it. -/
def sticky (m : Nat) (exact : Bool) : Nat := 2 * m + (if exact then 0 else 1)

/-- 1/a. -/
def frcpV : FV → FV
  | .nan => .nan
  | .inf s => .fin s 0 0
  | .fin s m e =>
    if m = 0 then .inf s
    else
      let k := Nat.log2 m + 64
      .fin s (sticky (2 ^ k / m) (2 ^ k % m = 0)) (-e - k - 1)

/-- √a. -/
def fsqrtV : FV → FV
  | .nan => .nan
  | .inf s => if s then .nan else .inf false
  | .fin s m e =>
    if m = 0 then .fin s 0 0
    else if s then .nan
    else
      let o := e % 2
      let x := m * 2 ^ (o.toNat + 128)
      let r := isqrt x
      .fin false (sticky r (r * r = x)) ((e - o) / 2 - 64 - 1)

/-- 1/√a. -/
def frsqV : FV → FV
  | .nan => .nan
  | .inf s => if s then .nan else .fin false 0 0
  | .fin s m e =>
    if m = 0 then .inf s
    else if s then .nan
    else
      let o := e % 2
      let x := m * 2 ^ o.toNat
      let r := isqrt (2 ^ 256 / x)
      .fin false (sticky r (r * r * x = 2 ^ 256)) (-((e - o) / 2) - 128 - 1)

/-- The sum of z^(2i+1)/(2i+1) from term i on, with alternating signs or not, on fixed point: `zp` is the current odd
power. -/
def atanSum (alt : Bool) (z2 : Int) : Nat → Nat → Int → Int
  | 0, _, _ => 0
  | n + 1, i, zp =>
    let t := zp / (2 * i + 1)
    (if alt && i % 2 == 1 then -t else t) + atanSum alt z2 n (i + 1) (zp * z2 / 2 ^ fxP)

/-- atanh on fixed point, for |z| ≤ 1/3. -/
def fxAtanh (z : Int) : Int := atanSum false (z * z / 2 ^ fxP) 110 0 z
/-- atan on fixed point, for |z| ≤ 1/5. -/
def fxAtan (z : Int) : Int := atanSum true (z * z / 2 ^ fxP) 80 0 z
/-- ln 2 on fixed point: 2 · atanh(1/3). -/
def fxLn2 : Int := 2 * fxAtanh (2 ^ fxP / 3)
/-- π on fixed point, by Machin's formula. -/
def fxPi : Int := 16 * fxAtan (2 ^ fxP / 5) - 4 * fxAtan (2 ^ fxP / 239)

/-- A Taylor sum on fixed point: the current term, multiplied by y and divided by the next numbers; `step` 1 for exp,
2 for sin and cos with alternating signs. -/
def taylor (step : Nat) (alt : Bool) (y : Int) : Nat → Nat → Int → Int
  | 0, _, _ => 0
  | n + 1, i, t =>
    let nx := if step = 1 then t * y / 2 ^ fxP / (i + 1) else t * y / 2 ^ fxP * y / 2 ^ fxP / ((i + 1) * (i + 2))
    t + taylor step alt y n (i + step) (if alt then -nx else nx)

/-- exp on fixed point. -/
def fxExp (y : Int) : Int := taylor 1 false y 90 0 (2 ^ fxP)
/-- sin on fixed point. -/
def fxSin (y : Int) : Int := taylor 2 true y 50 1 y
/-- cos on fixed point. -/
def fxCos (y : Int) : Int := taylor 2 true y 50 0 (2 ^ fxP)

/-- A magnitude on fixed point as a value that is not exact. -/
def fxVal (s : Bool) (v : Int) : FV := .fin s (sticky v.toNat false) (-(fxP : Int) - 1)

/-- The integer part and the fraction on fixed point of a signed dyadic value, rounded toward −∞; exact for exponents of at
least −fxP. -/
def splitFx (s : Bool) (m : Nat) (e : Int) : Int × Int :=
  let x := sgn s m * 2 ^ (e + fxP).toNat
  (x / 2 ^ fxP, x % 2 ^ fxP)

/-- 2^a. -/
def fexp2V : FV → FV
  | .nan => .nan
  | .inf s => if s then .fin false 0 0 else .inf false
  | .fin s m e =>
    if m = 0 then .fin false 1 0
    else if 10 ≤ e + (Nat.log2 m : Int) then (if s then .fin false 0 0 else .inf false)
    else
      let (n, f) := splitFx s m e
      if f = 0 then .fin false 1 n
      else
        match fxVal false (fxExp (f * fxLn2 / 2 ^ fxP)) with
        | .fin _ k q => .fin false k (q + n)
        | v => v

/-- log₂ a. -/
def flog2V : FV → FV
  | .nan => .nan
  | .inf s => if s then .nan else .inf false
  | .fin s m e =>
    if m = 0 then .inf true
    else if s then .nan
    else
      let k := Nat.log2 m
      if m = 2 ^ k then FV.ofInt false (e + k) 0
      else
        let z : Int := ((m : Int) - 2 ^ k) * 2 ^ fxP / ((m : Int) + 2 ^ k)
        let v := (e + k) * 2 ^ fxP + 2 * fxAtanh z * 2 ^ fxP / fxLn2
        fxVal (decide (v < 0)) (if v < 0 then -v else v)

/-- The quarter turn and the rest (in half units of a turn's half) of a value modulo 2. -/
def quarter (s : Bool) (m : Nat) (e : Int) : Int × Int :=
  let (n, f) := splitFx s m e
  let r := n % 2 * 2 ^ fxP + f
  (2 * r / 2 ^ fxP, r - (2 * r / 2 ^ fxP) * 2 ^ (fxP - 1))

/-- sin(πa). -/
def fsinpiV : FV → FV
  | .nan => .nan
  | .inf _ => .nan
  | .fin s m e =>
    let (q, r) := quarter s m e
    if r = 0 then (if q % 2 = 0 then .fin s 0 0 else .fin (decide (q = 3)) 1 0)
    else
      let y := r * fxPi / 2 ^ fxP
      fxVal (decide (2 ≤ q)) (if q % 2 = 0 then fxSin y else fxCos y)

/-- cos(πa). -/
def fcospiV : FV → FV
  | .nan => .nan
  | .inf _ => .nan
  | .fin s m e =>
    let (q, r) := quarter s m e
    if r = 0 then (if q % 2 = 1 then .fin false 0 0 else .fin (decide (q = 2)) 1 0)
    else
      let y := r * fxPi / 2 ^ fxP
      fxVal (decide (q = 1 ∨ q = 2)) (if q % 2 = 0 then fxCos y else fxSin y)

/-- A value rounded to an integral value under a mode; zero keeps the sign (R248). -/
def integralV (r : Rnd) : FV → FV
  | .fin s m e => .fin s (roundTo r s m e 0) 0
  | v => v

/-- The class mask of R283 for a binary32 pattern. -/
def fclassBits (x : Nat) : Nat :=
  let neg := fF32.neg x
  let e := x / 2 ^ 23 % 256
  let m := x % 2 ^ 23
  if e = 255 then
    if m = 0 then (if neg then 2 ^ 0 else 2 ^ 7) else (if m / 2 ^ 22 = 0 then 2 ^ 8 else 2 ^ 9)
  else if e = 0 then
    if m = 0 then (if neg then 2 ^ 3 else 2 ^ 4) else (if neg then 2 ^ 2 else 2 ^ 5)
  else if neg then 2 ^ 1 else 2 ^ 6

/-! ## Conversions (R249 to R252, R285 to R287) -/

/-- The float format of a conversion code. -/
def fmtFloat : Fmt → Option FFmt
  | .f32 => some fF32
  | .f64 => some fF64
  | .f16 => some fF16
  | .bf16 => some fBf16
  | _ => none

/-- The width and signedness of an integer conversion code (R245). -/
def fmtInt : Fmt → Option (Nat × Bool)
  | .i32 => some (32, true)
  | .n32 => some (32, false)
  | .i64 => some (64, true)
  | .n64 => some (64, false)
  | .i16 => some (16, true)
  | .n16 => some (16, false)
  | .i8 => some (8, true)
  | .n8 => some (8, false)
  | _ => none

/-- Whether a format takes a w-pair (R286). -/
def fmtWide : Fmt → Bool
  | .i64 => true
  | .n64 => true
  | .f64 => true
  | _ => false

/-- The integer that the low bits of a pattern denote. -/
def intOf (w : Nat) (signed : Bool) (x : Nat) : Int :=
  let v := x % 2 ^ w
  if signed && decide (2 ^ (w - 1) ≤ v) then (v : Int) - 2 ^ w else v

/-- The least and greatest integer of a format. -/
def intRange (w : Nat) (signed : Bool) : Int × Int :=
  if signed then (-2 ^ (w - 1), 2 ^ (w - 1) - 1) else (0, 2 ^ w - 1)

/-- The indefinite value of R251. -/
def indefinite (w : Nat) (signed : Bool) : Int := if signed then -2 ^ (w - 1) else 2 ^ w - 1

/-- Float to integer (R251). -/
def toInt (w : Nat) (signed : Bool) (r : Rnd) (sat : Bool) : FV → Int
  | .nan => if sat then 0 else indefinite w signed
  | .inf s => if sat then (if s then (intRange w signed).1 else (intRange w signed).2) else indefinite w signed
  | .fin s m e =>
    let v := sgn s (roundTo r s m e 0)
    let (lo, hi) := intRange w signed
    if lo ≤ v ∧ v ≤ hi then v
    else if sat then (if v < lo then lo else hi)
    else indefinite w signed

/-- Integer to integer (R252). -/
def intToInt (w : Nat) (signed : Bool) (sat : Bool) (v : Int) : Int :=
  let (lo, hi) := intRange w signed
  if lo ≤ v ∧ v ≤ hi then v
  else if sat then (if v < lo then lo else hi)
  else intOf w signed (v % 2 ^ w).toNat

/-- An integer result in its register: extended to 32 bits, or 64 bits for a pair (R245). -/
def intBits (v : Int) (wide : Bool) : Nat := (v % (2 ^ (if wide then 64 else 32))).toNat

/-- CVT of a source pattern (R287). -/
def cvtBits (df sf : Fmt) (r : Rnd) (sat : Bool) (x : Nat) : Nat :=
  match fmtFloat df, fmtInt df, fmtFloat sf, fmtInt sf with
  | some f, _, some g, _ => f.round r sat (g.val (x % (2 * g.signBit)))
  | some f, _, _, some (w, sg) => f.round r sat (FV.ofInt false (intOf w sg x) 0)
  | _, some (w, sg), some g, _ => intBits (toInt w sg r sat (g.val (x % (2 * g.signBit)))) (fmtWide df)
  | _, some (w, sg), _, some (u, tg) => intBits (intToInt w sg sat (intOf u tg x)) (fmtWide df)
  | _, _, _, _ => 0

/-! ## Twin-exponent blocks (R253 to R256) -/

/-- Mmax of TE4 or TE8. -/
def teMax (te4 : Bool) : Nat := if te4 then 3 else 63
/-- The offset K of TE4 or TE8. -/
def teOff (te4 : Bool) : Int := if te4 then 128 else 132

/-- |rnd_E(x)| of R255: x / 2^(E − K) rounded to an integer. -/
def teMag (te4 : Bool) (r : Rnd) (e : Nat) : FV → Nat
  | .fin s m q => roundTo r s m (q - ((e : Int) - teOff te4)) 0
  | _ => 0

/-- The smallest exponent from `e` on whose magnitudes all fit; 254 when none does. -/
def teFind (te4 : Bool) (r : Rnd) (xs : List FV) : Nat → Nat → Nat
  | 0, _ => 254
  | n + 1, e => if xs.all (fun x => decide (teMag te4 r e x ≤ teMax te4)) then e else teFind te4 r xs n (e + 1)

/-- The exponent pair of R255. -/
def tePair (te4 : Bool) (r : Rnd) (xs : List FV) : Nat :=
  if xs.any (fun x => match x with | .fin _ _ _ => false | _ => true) then 0xFFFF
  else if xs.all (fun x => match x with | .fin _ m _ => m == 0 | _ => false) then 0
  else
    let e1 := teFind te4 r xs 255 0
    e1 * 256 + (e1 - 4)

/-- The element of R256. -/
def tePack (te4 : Bool) (r : Rnd) (p : Nat) (x : FV) : Nat :=
  let e0 := p % 256
  let e1 := p / 256 % 256
  let sBit := if te4 then 8 else 128
  let nBit := if te4 then 4 else 64
  let mx := teMax te4
  if e0 = 255 ∧ e1 = 255 then sBit
  else match x with
    | .nan => sBit + mx
    | .inf s => sBit + mx + (if s then nBit else 0)
    | .fin s _ _ =>
      let m0 := teMag te4 r e0 x
      let (sel, m) := if m0 ≤ mx then (0, m0) else (sBit, min (teMag te4 r e1 x) mx)
      sel + m + (if s && decide (0 < m) then nBit else 0)

/-- The value of an element under a pair (R254). -/
def teVal (te4 : Bool) (p x : Nat) : FV :=
  let e0 := p % 256
  let e1 := p / 256 % 256
  let sel := x / (if te4 then 8 else 128) % 2
  let neg := x / (if te4 then 4 else 64) % 2
  let m := x % (if te4 then 4 else 64)
  let e := if sel = 1 then e1 else e0
  if e1 < e0 ∨ e0 + 15 < e1 then .nan
  else if e = 255 then .nan
  else if m = 0 then .fin false 0 0
  else .fin (neg == 1) m ((e : Int) - teOff te4)

/-! ## Sums of fixed order (R240, R258 to R261) -/

/-- A node of the tree of R240 and R261 over patterns; an absent leaf is none. -/
def treeSum : Nat → Nat → Nat → List (Option Nat) → Option Nat
  | 0, _, _, _ => none
  | d + 1, lo, n, xs =>
    if n = 0 then none
    else if n = 1 then xs.getD lo none
    else
      let h := (n + 1) / 2
      match treeSum d lo h xs, treeSum d (lo + h) (n - h) xs with
      | some a, some b => some (fF32.fadd a b)
      | some a, none => some a
      | none, some b => some b
      | none, none => none

/-- A binary32 leaf: a NaN becomes the canonical NaN (R244, R261). -/
def leaf (x : Nat) : Nat := if (fF32.val x).isNan then fF32.nanBits else x

/-- The terms of one MMA element: the accumulator and the 32 exact products (R258). -/
def mmaTerms (acc : FV) (xs ys : List FV) : List FV := acc :: (List.zipWith FV.mul xs ys)

/-- ⌊log₂|t|⌋ of a non-zero finite term. -/
def leadOf : FV → Option Int
  | .fin _ m e => if m = 0 then none else some (e + (Nat.log2 m : Int))
  | _ => none

/-- A term truncated toward zero to a multiple of 2^q (R259). -/
def truncTerm (q : Int) : FV → FV
  | .fin s m e => .fin s (roundTo .rtz s m e q) q
  | v => v

/-- The exact sum of finite terms, on the smallest exponent. -/
def exactSum (ts : List FV) : FV :=
  let q := ts.foldl (fun q t => match t with | .fin _ m e => if m = 0 then q else min q e | _ => q) 2000
  let i : Int := ts.foldl (fun i t => match t with | .fin s m e => if m = 0 then i else i + sgn s m * 2 ^ (e - q).toNat | _ => i) 0
  FV.ofInt (ts.all (fun t => match t with | .fin s m _ => s && m == 0 | _ => false)) i q

/-- One element of an MMA step: R260, then R258 (`block`) or R259. -/
def mmaElement (block : Bool) (ts : List FV) : Nat :=
  if ts.any FV.isNan then fF32.nanBits
  else
    let pos := ts.any (fun t => t == .inf false)
    let neg := ts.any (fun t => t == .inf true)
    if pos && neg then fF32.nanBits
    else if pos then fF32.near (.inf false)
    else if neg then fF32.near (.inf true)
    else if block then fF32.near (exactSum ts)
    else
      match (ts.filterMap leadOf).foldl (fun (o : Option Int) e => some (match o with | some f => max f e | none => e)) none with
      | some e =>
        fF32.near (match exactSum (ts.map (truncTerm (e - 47))) with
          | .fin _ 0 _ => .fin (ts.all (fun t => match t with | .fin s m _ => s && m == 0 | _ => false)) 0 0
          | v => v)
      | none => fF32.near (exactSum ts)

end Sys2Proof.Machine
end

