-- ==== Sys2Proof/Machine/Memory.lean ====
section
/-! DEFINITION. Scratchpad and near accesses of lanes and control threads (R291 to R295), local atomics (R296 to R300),
boundaries (R207, R302), TFENCE and DRAIN (R303, R304), and the events that serve accesses and move views (R112, R189). -/
namespace Sys2Proof.Machine

/-! ## Releases and acquires (R206, R207, R211, R212) -/

/-- Whether scopes reach from the agent that made a release to a stream of team t, and back (R212). -/
def Release.reaches (r : Release) (sc : Scope) (t port : Nat) : Bool :=
  let target (x : Scope) : Bool := match x with
    | .team => r.team == t
    | .die => r.port == port
    | .package => r.port == port
    | .domain => true
    | .system => true
  target r.scope && target sc

/-- The dies of the near locations that a scope covers (R206). -/
def scopeDies (sc : Scope) (dies : List Nat) : List Nat := if sc = .die then dies else allDies

/-- What an acquire boundary takes from releases: the view of each, on the dies that both sides cover (R212). -/
def acquired (sc : Scope) (dies : List Nat) (t port : Nat) (rs : List Release) : View :=
  rs.foldl (fun v r => if r.reaches sc t port && r.port == port then
    v.join (r.view.only ((scopeDies r.scope r.dies).filter (fun d => (scopeDies sc dies).contains d))) else v) View.none

/-- What an acquire at system scope sees of host writes to near memory: every one performed so far (R214). -/
def State.hostView (s : State) (port : Nat) (sc : Scope) : View := if sc = .system then View.upto (s.pkg port).hostPos else View.none

/-- Makes visible at die scope the stores that a team has published at team scope only, on some dies. -/
def Pkg.widen (p : Pkg) (t : Nat) (dies : List Nat) : Pkg :=
  { p with hist := p.hist.map (fun h => if h.only == some t && dies.contains (dieOf h.addr) then { h with only := none } else h) }

/-- Raises a view at some bytes. -/
def View.raise (v : View) (a n pos : Nat) : View :=
  { v with bytes := mergeBytes v.bytes ((List.range n).map (fun i => (a + i, pos))) }

/-- Publishes one pending store of a stream (R189, R209); the stream's view of its row moves up to it, so that no aligned access
of the stream sees a write in part (R119, R194). -/
def State.publishOne (s : State) (t : Nat) (q : Sel) (team : Bool) (x : PendStore) : State :=
  let p := (s.team t).port
  let s := s.nearWrite p x.addr x.bytes (if team then some t else none) (some (t, q)) x.seq
  let pos := (s.pkg p).pos
  s.modStream t q (fun _ st =>
    { st with stores := st.stores.filter (fun y => y.seq != x.seq || y.addr != x.addr), view := st.view.raise (x.addr / 16 * 16) 16 pos })

/-- Publishes the pending stores of a stream on some dies, in program order, and, beyond team scope, those of its team
(R207). -/
def State.publish (s : State) (t : Nat) (q : Sel) (team : Bool) (dies : List Nat) : State :=
  let xs := s.onStream t q (fun _ st => st.stores.filter (fun x => dies.contains (dieOf x.addr)))
  let s := xs.foldl (fun s x => s.publishOne t q team x) s
  if team then s else
  let p := (s.team t).port
  s.setPkg p ((s.pkg p).widen t dies)

/-- The far atomics of a stream that are not complete. -/
def State.farsOf (s : State) (t : Nat) (q : Sel) : List FarReq :=
  (s.fars.map (fun e => e.2)).filter (fun f => f.team == t && f.sel == q)

/-- Whether a write of the current stream or of an engine has rolled back a speculation of the team in this cycle (R202): it holds
the stream's releases until the next, so that no arrival that the write happens before coincides with the conflict (R203, R204;
DEDUCED, log entry 18). -/
def State.justConflicted (s : State) : Bool :=
  s.curT.grps.any (fun e => e.2.spec.any (fun x => x.stage == .conflicted && x.writers.any (fun q => q == none || q == some s.curSel)))

/-- Whether nothing of the current stream's earlier accesses holds a release boundary at a scope (R195, R207). A far atomic
without a result, of the stream or of another one before it, holds one at package scope and wider until it is performed. -/
def State.releasable (s : State) (sc : Scope) : Bool :=
  !s.justConflicted && s.onCur (fun _ st => st.acc.all (fun a => a.near && a.kind == .store)) &&
  (s.farsOf s.curTeam s.curSel).all (fun f => !f.ret) &&
  (sc == .team || sc == .die || s.farsPerformed (s.onCur fun _ st => st.view) (fun _ => true))

/-- The number of the first access of the current chain. -/
def State.chainMark (s : State) : Nat := s.onCur (fun _ st => (st.pkt.map (fun p => p.mark)).getD st.accNext)

/-- Whether nothing of the current stream from before its chain holds a release boundary at a scope: what the chain itself has started
does not hold a later member of it, whose effect comes after it (R65, R195, R218). -/
def State.releasableTo (s : State) (sc : Scope) : Bool :=
  let m := s.chainMark
  let mine (f : FarReq) : Bool := f.team == s.curTeam && f.sel == s.curSel && decide (m ≤ f.insn)
  !s.justConflicted && s.onCur (fun _ st => st.acc.all (fun a => decide (m ≤ a.id) || (a.near && a.kind == .store))) &&
  (s.farsOf s.curTeam s.curSel).all (fun f => mine f || !f.ret) &&
  (sc == .team || sc == .die ||
    ({ s with fars := s.fars.filter (fun e => !mine e.2) } : State).farsPerformed (s.onCur fun _ st => st.view) (fun _ => true))

/-- Whether the accesses of a team's control thread below a number, those that a release waits for, are complete (R195). -/
def State.ctlDone (s : State) (t m : Nat) : Bool :=
  (s.team t).ctl.acc.all (fun a => decide (m ≤ a.id) || (a.near && a.kind == .store)) &&
  (s.farsOf t .ctl).all (fun f => decide (m ≤ f.insn) || !f.ret)

/-- The release side of the current stream at a scope, after its stores are published. -/
def State.releaseSide (s : State) (sc : Scope) (dies : List Nat) : Release :=
  { scope := sc, dies := dies, port := s.curT.port, team := s.curTeam, view := s.onCur (fun _ st => st.view) }

/-- A release boundary of the current stream, once nothing holds it. -/
def State.release (s : State) (sc : Scope) (dies : List Nat) : State :=
  s.publish s.curTeam s.curSel (sc == .team) (scopeDies sc dies)

/-- An acquire of the current stream from some releases. -/
def State.acquire (s : State) (sc : Scope) (dies : List Nat) (rs : List Release) : State :=
  let v := (acquired sc dies s.curTeam s.curT.port rs).join (s.hostView s.curT.port sc)
  s.modCur (fun _ st => { st with view := st.view.join v })

/-- Lets a stream's later accesses go on once its acquire boundary and its earlier scratchpad stores are complete
(R190, R207). -/
def State.relax (s : State) (t : Nat) (q : Sel) : State :=
  let far := (s.farsOf t q).any (fun f => f.acquire.isSome)
  s.modStream t q (fun _ st =>
    if far || st.acc.any (fun a => a.acquire.isSome || (!a.near && a.kind != .load)) then st else { st with acqHeld := false })

/-- The die of a team's core (R9). -/
def State.dieOfTeam (s : State) (t : Nat) : Nat := (s.team t).core % 1024 / 64

/-! ## Effective addresses and checks (R109, R292, R293) -/

/-- The bytes of a size (R290). -/
def szBytes : Sz → Nat
  | .b8 => 1
  | .b16 => 2
  | .b32 => 4
  | .b64 => 8
  | .b128 => 16

/-- Whether the register D of a load or store, and SX, are allowed (R292). -/
def memOk (lane : Bool) (blocks : Nat) (load sx : Bool) (d : Nat) (z : Sz) : Bool :=
  if lane then
    match z with
    | .b64 => !sx && (pairOk blocks d || (!load && (d == 62 || d == 55)))
    | .b128 => !sx && ((d % 4 == 0 && decide (d ≤ 44) && decide ((d + 3) / 8 < blocks)) || (!load && d == 55))
    | _ => (!sx || (load && z != .b32)) && (if load then (dstOf lane blocks d).isSome else (srcOf lane blocks d).isSome)
  else
    match z with
    | .b128 => !sx && ((d % 2 == 0 && decide (d ≤ 30)) || (!load && d == 38))
    | _ => (!sx || (load && z != .b64)) && (if load then (dstOf lane blocks d).isSome else (srcOf lane blocks d).isSome)

/-- The effective address of each executing lane (R292). -/
def State.addrs (s : State) (c : Ctx) (a : Reg) (off : Nat) : List (Nat × Nat) :=
  s.onCur (fun w st => (lanesOf st.ex st.n).map (fun l =>
    let v := (st.value c a l).toNat + off
    (l, if w = 64 then v % 2 ^ 64 else v)))

/-- Whether `n` bytes at a near-window address lie in the near range of a team's partition (R108). -/
def State.inNear (s : State) (t a n : Nat) : Bool :=
  let x := s.team t
  decide (0x40000000 ≤ a ∧ a + n ≤ 0x80000000 ∧ a - 0x40000000 + n ≤ total (s.part x.port x.part).nearExt)

/-- The package near address behind a near-window address, and whether it is secure (R118, R128). -/
def State.nearAt (s : State) (t a : Nat) : Nat × Bool :=
  let x := s.team t
  ((s.part x.port x.part).near (a - 0x40000000)).getD (0, false)

/-- The address check that fails first, with the lanes that fail it (R109, R293). -/
def State.localFault (s : State) (near : Bool) (n : Nat) (ea : List (Nat × Nat)) : Option (Trap × List Nat) :=
  let t := s.curTeam
  let len := (s.gridOf t).scratchLen
  let at_ (f : Nat → Bool) : List Nat := (List.range 32).map (fun l => ((ea.find? (fun e => e.1 == l && f e.2)).map (fun e => e.2)).getD 0)
  let bad (f : Nat → Bool) : Bool := ea.any (fun e => f e.2)
  let mis (a : Nat) : Bool := a % n != 0
  let out (a : Nat) : Bool := if near then !s.inNear t a n else decide (len < a + n)
  let sec (a : Nat) : Bool := near && (s.nearAt t a).2 && !s.secure t
  if bad mis then some (.misaligned, at_ mis)
  else if bad out then some (if near then .nearBounds else .scratchBounds, at_ out)
  else if bad sec then some (.world, at_ sec)
  else none

/-- The addresses of an access: scratchpad addresses, or package near addresses. -/
def State.placed (s : State) (near : Bool) (ea : List (Nat × Nat)) : List (Nat × Nat) :=
  if near then ea.map (fun e => (e.1, (s.nearAt s.curTeam e.2).1)) else ea

/-! ## Starting and completing an access -/

/-- The rows of an access in which some lane has still to be served. -/
def Access.unserved (a : Access) : List Nat :=
  (a.lanes.filter (fun e => (Map.find a.got e.1).isNone)).map (fun e => e.2 / 16) |>.eraseDups

/-- Starts a local access of the current slot: it holds the slot's flag, and a producer of the M latch marks it (R80). -/
def Stream.start {w : Nat} (st : Stream w) (a : Access) : Stream w :=
  let st1 := (if a.latch then st.latch 2 (copies st.n none) else st).raise st.setFlag
  { st1 with
    acc := st.acc ++ [{ a with id := st.accNext, flag := st.setFlag, pkt := st.pktNo, rows := a.unserved }]
    accNext := st.accNext + 1
    mOwner := if a.latch then (List.range st.n).map (fun l => if st.ex.getLsbD l then st.accNext else st.mOwner.getD l 0) else st.mOwner
    acqHeld := st.acqHeld || a.acquire.isSome }

/-- A later slot of the same packet with the same destination takes the place of earlier results (R67). -/
def Stream.claim {w : Nat} (st : Stream w) (rs : List Nat) : Stream w :=
  let lanes := valsOf st.n st.ex (fun _ => (0 : BitVec w))
  rs.foldl (fun (st : Stream w) r =>
    { st with
      pend := st.pend.map (fun p => p.drop st.pktNo (.reg r) lanes)
      killed := if st.acc.any (fun a => a.pkt = st.pktNo) || st.engPkt = st.pktNo then (st.pktNo, st.accNext, r, st.ex) :: st.killed
                else st.killed }) st

/-- The registers that a destination of `size` bytes names. -/
def destRegs (w size d : Nat) : List Nat := (List.range (max 1 (size / (w / 8)))).map (fun i => d + i)

/-- Starts an access of the current slot in the place of earlier results for its destination. -/
def Stream.access {w : Nat} (st : Stream w) (a : Access) : Stream w :=
  (match a.dest with | some r => st.claim (destRegs w a.size r) | none => st).start a

/-- Delivers values of an access to its registers and, where it is still the last M-pipe producer, to the M latch, of the
handler's shadow when the access is older than the handler (R67, R192). -/
def Stream.deliver {w : Nat} (st : Stream w) (id pkt size : Nat) (dest : Option Nat) (latch : Bool) (vals : Map Nat) : Stream w :=
  let put (i r : Nat) : List (Option (BitVec w)) := (List.range st.n).map (fun l =>
    if st.wasKilled pkt id r l then none else (Map.find vals l).map (fun v => BitVec.ofNat w (v / 2 ^ (w * i))))
  let st1 := match dest with
    | some d => st.writeBy pkt (fun t =>
      (List.range (max 1 (size / (w / 8)))).foldl (fun (t : Stream w) i => t.setReg (d + i) (put i (d + i))) t)
    | none => st
  let mine (owner : List Nat) : List (Option (BitVec w)) := (List.range st.n).map (fun l =>
    if owner.getD l 0 = id then (Map.find vals l).map (fun v => BitVec.ofNat w v) else none)
  let set (ls : List (Latch w)) (owner : List Nat) : List (Latch w) :=
    let l := ls.getD 2 (Latch.blank w st.n)
    setAt ls 2 { l with vals := overlay st.n l.vals 0 (mine owner) }
  if !latch then st1 else
  match st1.handler with
  | some h => if pkt ≤ h.pkt then { st1 with handler := some { h with shadow := set h.shadow h.owner } }
              else { st1 with latches := set st1.latches st1.mOwner }
  | none => { st1 with latches := set st1.latches st1.mOwner }

/-- The value that a load gives for the bytes it read (R294). -/
def loadValue (w size : Nat) (signed : Bool) (v : Nat) : Nat :=
  if signed ∧ 8 * size < w ∧ bitOf v (8 * size - 1) then v + 2 ^ w - 2 ^ (8 * size) else v

/-! ## Atomic operations (R298) -/

/-- The new value of a location, where the operation writes one. -/
def atomicNew (op : Aop) (w : Nat) (o b e : BitVec w) : Option (BitVec w) :=
  let f : FFmt := if w = 64 then fF64 else fF32
  match op with
  | .add => some (o + b)
  | .min => some (minS o b)
  | .max => some (maxS o b)
  | .minn => some (minU o b)
  | .maxn => some (maxU o b)
  | .and => some (o &&& b)
  | .or => some (o ||| b)
  | .xor => some (o ^^^ b)
  | .xchg => some b
  | .cas => if o = e then some b else none
  | .fadd => some (BitVec.ofNat w (f.fadd o.toNat b.toNat))
  | .fmin => some (BitVec.ofNat w (f.minNum o.toNat b.toNat))
  | .fmax => some (BitVec.ofNat w (f.maxNum o.toNat b.toNat))
  | .load => none
  | .store => some b

/-- The operations of some lanes in turn, each on the value the one before left at its location (R299): the locations
written, and what each lane gets. -/
def atomicFold (op : Aop) (size : Nat) (data expect : Map Nat) (rd : Nat → Nat) :
    List (Nat × Nat) → Map Nat → Map Nat → Map Nat × Map Nat
  | [], loc, got => (loc, got)
  | (l, a) :: rest, loc, got =>
    let o := (Map.find loc a).getD (rd a)
    let w := 8 * size
    let v (m : Map Nat) : BitVec w := BitVec.ofNat w (Map.get m l 0)
    let loc := match atomicNew op w (BitVec.ofNat w o) (v data) (v expect) with
      | some n => Map.set loc a n.toNat
      | none => loc
    atomicFold op size data expect rd rest loc (Map.set got l o)

/-- The releases carried by the word-sized pieces of a location. -/
def relsAt (m : List (Nat × List Release)) (a size : Nat) : List Release :=
  (m.filter (fun e => a ≤ e.1 && decide (e.1 < a + size))).flatMap (fun e => e.2)

/-- The release sequences after an atomic write to a location: continued by an RMW, begun anew by a STORE (R211). -/
def relsAfter (m : List (Nat × List Release)) (op : Aop) (a size : Nat) (own : List Release) : List (Nat × List Release) :=
  (List.range ((size + 3) / 4)).foldl (fun m i =>
    let k := a + 4 * i
    let old := if op = .store then [] else relsAt m k 4
    let new := old ++ own
    (if new.isEmpty then [] else [(k, new)]) ++ m.filter (fun e => e.1 != k)) m

/-! ## Serving a row (R112, R188, R189) -/

/-- A write to scratchpad bytes rolls back the groups of the team that speculate and have read a line of them, unless the
writer is a stream that has arrived (R202); who writes is noted. A write of an arrived stream which happens before the last arrival is no
conflict either, as R202 says, though R194 and R204 ask that the waiter's load sees it: the speculation commits what it loaded (DESIGN
CHOICE, log entry 19). -/
def Team.conflict (x : Team) (writer : Option Sel) (a n : Nat) : Team :=
  { x with grps := x.grps.map (fun e =>
      match e.2.spec with
      | some sp =>
        let arrived := match writer with | some q => (x.rvs.getD sp.rv Rv.blank).who.contains q | none => false
        if (sp.stage == .running || sp.stage == .conflicted) && !arrived && sp.lines.any (fun k => decide (64 * k < a + n ∧ a < 64 * k + 64))
        then (e.1, { e.2 with spec := some { sp with stage := .conflicted, writers := sp.writers ++ [writer] } }) else e
      | none => e) }

/-- A write to the scratchpad of a team: the bytes, fresh ECC of the rows, the end of release sequences, conflicts. -/
def Team.scratchWrite (x : Team) (writer : Option Sel) (a : Nat) (b : List Byte) : Team :=
  let rows := (List.range ((a + b.length + 15) / 16 - a / 16)).map (fun i => a / 16 + i)
  let x1 := (rows.foldl (fun x r => x.clean 0 r) { x with scratch := x.scratch.writeN a b, rels := endRels x.rels a b.length })
  x1.conflict writer a b.length

/-- The lanes of an access in one row. -/
def Access.inRow (a : Access) (row : Nat) : List (Nat × Nat) := a.lanes.filter (fun e => e.2 / 16 = row)

/-- The 64-byte lines of scratchpad from which a load reads a byte at the bank (R201): those bytes that no buffer gave it. -/
def Access.bankLines (a : Access) (ls : List (Nat × Nat)) : List Nat :=
  ((ls.flatMap (fun e => (List.range a.size).map (fun i => e.2 + i))).filter (fun b => (Map.find a.data b).isNone)).map (fun b => b / 64)

/-- Joins lines to a read set. -/
def joinLines (old new : List Nat) : List Nat := new.foldl (fun (l : List Nat) k => if l.contains k then l else l ++ [k]) old

/-- Lines that a speculating group reads at the bank enter its read set (R201). -/
def Team.noteLines (x : Team) (q : Sel) (ks : List Nat) : Team :=
  match q with
  | .ctl => x
  | .grp g =>
    match (x.grp g).spec with
    | some sp => if sp.stage = .running then x.setGrp g { x.grp g with spec := some { sp with lines := joinLines sp.lines ks } } else x
    | none => x

/-- Serves a row of a scratchpad access: what it has read, each byte from the store buffer as it was where that held it (R201, R203),
and the team after it. -/
def Team.serveScratch (x : Team) (q : Sel) (a : Access) (row : Nat) : Access × Team :=
  let ls := a.inRow row
  let read (b : Nat) : Byte := match Map.find a.data b with | some v => BitVec.ofNat 8 v | none => x.scratch.read b
  match a.kind with
  | .load => ({ a with got := ls.foldl (fun g e => Map.set g e.1 (ofBytes ((List.range a.size).map (fun i => read (e.2 + i))))) a.got },
      x.noteLines q (a.bankLines ls))
  | .store => (a, ls.foldl (fun x e => x.scratchWrite (some q) e.2 (bytesOf a.size (Map.get a.data e.1 0))) x)
  | .atomic =>
    let r := atomicFold a.aop a.size a.data a.expect (fun y => x.scratch.num y a.size) ls [] a.got
    let seen := if a.aop = .store then [] else (ls.map (fun e => e.2)).eraseDups.flatMap (fun y => relsAt x.rels y a.size)
    let rels := r.1.foldl (fun m e => relsAfter m a.aop e.1 a.size a.rels) x.rels
    let x1 := r.1.foldl (fun x e => x.scratchWrite (some q) e.1 (bytesOf a.size e.2)) x
    ({ a with got := r.2, seen := a.seen ++ seen }, { x1 with rels := rels })

/-- The byte that a stream's near load gets: of its own newest earlier pending store, else at its view's position (R189). -/
def State.nearByte (s : State) (t : Nat) (q : Sel) (seq a : Nat) : Byte :=
  let st := s.onStream t q (fun _ st => (st.stores, st.view))
  match (st.1.filter (fun x => x.seq < seq && decide (x.addr ≤ a ∧ a < x.addr + x.bytes.length))).getLast? with
  | some x => x.bytes.getD (a - x.addr) 0
  | none => (s.pkg (s.team t).port).viewByte st.2 (t, q) seq a

/-- The releases of completion records that a stream's near load of some bytes has seen: of those whose bytes its view gives it (R161,
R214). -/
def State.recordsSeen (s : State) (t : Nat) (q : Sel) (seq a size : Nat) : List Release :=
  let st := s.onStream t q (fun _ st => (st.stores, st.view))
  ((List.range size).flatMap (fun i =>
    if st.1.any (fun x => x.seq < seq && decide (x.addr ≤ a + i ∧ a + i < x.addr + x.bytes.length)) then []
    else (s.pkg (s.team t).port).viewRels st.2 (t, q) seq (a + i))).eraseDups

/-- Serves a row of a near access: loads at the view, atomics at the home (R189, R209); a store is only accepted. An atomic reads
the value immediately before it in modification order, whoever sees that write. Of the operations of several lanes on one location the
last value alone enters the order that others read: none loads a value between them (DESIGN CHOICE, log entry 29: R189 would allow it). -/
def State.serveNear (s : State) (t : Nat) (q : Sel) (a : Access) (row : Nat) : Access × State :=
  let ls := a.inRow row
  let p := (s.team t).port
  match a.kind with
  | .load =>
    let seen := ls.flatMap (fun e => s.recordsSeen t q a.id e.2 a.size)
    ({ a with got := ls.foldl (fun g e =>
        Map.set g e.1 (ofBytes ((List.range a.size).map (fun i => s.nearByte t q a.id (e.2 + i))))) a.got, seen := a.seen ++ seen }, s)
  | .store => (a, s)
  | .atomic =>
    let own := s.onStream t q (fun _ st => st.stores.filter (fun x => x.seq < a.id && x.addr / 16 = row))
    let s := own.foldl (fun s x => s.publishOne t q false x) s
    let r := atomicFold a.aop a.size a.data a.expect (fun y => (s.pkg p).near.num y a.size) ls [] a.got
    let m := (s.pkg p).nearRels
    let seen := if a.aop = .store then [] else (ls.map (fun e => e.2)).eraseDups.flatMap (fun y => relsAt m y a.size)
    let rels := r.1.foldl (fun m e => relsAfter m a.aop e.1 a.size a.rels) m
    let s := r.1.foldl (fun s e => s.nearWrite p e.1 (bytesOf a.size e.2) none (some (t, q)) a.id) s
    let s := s.setPkg p { s.pkg p with nearRels := rels }
    let pos := (s.pkg p).pos
    ({ a with got := r.2, seen := a.seen ++ seen }, s.modStream t q (fun _ st => { st with view := st.view.raise (16 * row) 16 pos }))

/-- Completes an access whose rows are all served (R295, R300); results that were due before are visible first (R67). Until then a
read gives the prior value in every lane, and the lanes of a result change together: R67 lets an earlier read give either value
(DESIGN CHOICE, log entry 12). -/
def State.finish (s : State) (t : Nat) (q : Sel) (a : Access) : State :=
  let v := match a.acquire with
    | some sc => (acquired sc (a.lanes.map (fun e => dieOf e.2)) t (s.team t).port a.seen).join (s.hostView (s.team t).port sc)
    | none => View.none
  let clk := s.clkOf t
  (s.modStream t q (fun w st0 =>
    let st := st0.settle clk false
    let st1 := if a.kind == .store || (a.kind == .atomic && a.aop == .store) then st
      else st.deliver a.id a.pkt a.size a.dest a.latch (a.got.map (fun e => (e.1, loadValue w a.size a.signed e.2)))
    let st2 := st1.lower a.flag
    { st2 with
      acc := st2.acc.filter (fun b => b.id != a.id)
      acqReads := st2.acqReads ++ a.seen
      view := st2.view.join v })).relax t q

/-- Whether an earlier load or atomic of a stream on bytes of a pending store has not been performed (R187). -/
def Stream.behindAccess {w : Nat} (st : Stream w) (y : PendStore) : Bool :=
  st.acc.any (fun a => a.near && a.kind != .store && decide (a.id < y.seq) && a.rows.any (fun r =>
    (a.inRow r).any (fun e => decide (e.2 < y.addr + y.bytes.length ∧ y.addr < e.2 + a.size))))

/-- Whether a row of an access may be served by its stream's own order: accesses of one stream to the same bytes are performed
in program order, its near atomics row by row and with the stores of the row before them (R187), its scratchpad rows oldest first in each
bank (R112), and its scratchpad stores behind a drain, which goes in order (R203). -/
def Stream.mayServe {w : Nat} (st : Stream w) (a : Access) (row : Nat) : Bool :=
  a.rows.contains row && (st.acc.filter (fun b => b.id < a.id && b.near == a.near)).all (fun b =>
    if a.near then !b.rows.contains row || !(a.kind == .atomic && b.kind == .atomic ||
      (a.inRow row).any (fun e => (b.inRow row).any (fun f => decide (e.2 < f.2 + b.size ∧ f.2 < e.2 + a.size))))
    else b.rows.all (fun r => r % 32 != row % 32) && !(b.drain && a.kind != .load)) &&
  !(a.near && a.kind == .atomic && st.stores.any (fun x => decide (x.seq < a.id ∧ x.addr / 16 = row) && st.behindAccess x))

/-- The rank of a stream's issue port: quads in ascending order, then the control port (R12, R112). -/
def State.portOf (s : State) (t : Nat) (q : Sel) : Nat :=
  match q with
  | .ctl => 4
  | .grp g => ((s.team t).grp g).slot % 4

/-- Whether no other stream of the core has an older scratchpad request that needs the bank of a row (R112): the cycle of issue
decides, then the port. -/
def State.bankFree (s : State) (t : Nat) (q : Sel) (a : Access) (row : Nat) : Bool :=
  let mine := 8 * a.at_ + s.portOf t q
  let older (u : Nat) (r : Sel) (l : List Access) : Bool :=
    !(u == t && r == q) && l.any (fun b => !b.near && decide (8 * b.at_ + s.portOf u r < mine) && b.rows.any (fun k => k % 32 == row % 32))
  !s.teams.any (fun e => e.2.core == (s.team t).core && e.2.place == .resident &&
    (older e.1 .ctl e.2.ctl.acc || e.2.grps.any (fun g => older e.1 (.grp g.1) g.2.acc)))

/-- LOCAL_ACCESS_COMPLETE (R295, R299, R300): one 16-byte row of an outstanding access is served, of a team that is stopped
only near stores (R214); with its last row the access completes. An uncorrectable error ends the grid and nothing is written (R114, R301). -/
def execLocalAccessComplete (t : Nat) (q : Sel) (i row : Nat) (s : State) : Out :=
  match s.onStream t q (fun _ st => (st.acc.find? (fun a => a.id = i)).filter (fun a => st.mayServe a row)) with
  | none => .next s
  | some a =>
    if !a.near && !s.bankFree t q a row then .next s else
    if (s.team t).place != .resident && !(a.near && a.kind == .store) then .next s else
    let c := if a.kind == .store then (s, true)
      else if a.near then s.checkNear t (row / 4)
      else s.checkRow t row
    if !c.2 then .next c.1 else
    let s := c.1
    let r := if a.near then s.serveNear t q a row
      else let y := (s.team t).serveScratch q a row; (y.1, s.setTeam t y.2)
    let a1 := { r.1 with rows := r.1.rows.filter (fun k => k != row) }
    if a1.rows.isEmpty then .next (r.2.finish t q a1)
    else .next (r.2.modStream t q (fun _ st => { st with acc := st.acc.map (fun b => if b.id = i then a1 else b) }))

/-- STORE_PUBLISH (R189, R208): one pending store is published, unless an earlier access of its stream to the same
bytes is pending (R187); or one that is published at team scope becomes visible beyond it. -/
def execStorePublish (t : Nat) (q : Sel) (i : Nat) (x : Scope) (s : State) : Out :=
  let stores := s.onStream t q (fun _ st => st.stores)
  match stores.find? (fun y => y.seq = i) with
  | some y =>
    if s.onStream t q (fun _ st => st.behindAccess y) || stores.any (fun z => z.seq < i && decide (z.addr < y.addr + y.bytes.length ∧ y.addr < z.addr + z.bytes.length)) then .next s
    else .next (s.publishOne t q (x == .team) y)
  | none =>
    if x == .team then .next s else
    let p := (s.team t).port
    let k := s.pkg p
    .next (s.setPkg p { k with hist := k.hist.map (fun h =>
      if h.only == some t && h.agent == some (t, q) && h.seq == i then { h with only := none } else h) })

/-- VIEW_ADVANCE (R189, R208): a stream's view of the 16-byte row that holds a package near address moves forward. -/
def execViewAdvance (t : Nat) (q : Sel) (a pos : Nat) (s : State) : Out :=
  if (s.team t).place != .resident then .next s else
  .next (s.modStream t q (fun _ st => { st with view := st.view.raise (a / 16 * 16) 16 (min pos (s.pkg (s.team t).port).pos) }))

/-! ## Loads and stores (R291 to R295) -/

/-- The data of a store in a lane (R294). -/
def Stream.storeData {w : Nat} (st : Stream w) (c : Ctx) (d : Reg) (z : Sz) (l : Nat) : Nat :=
  if w = 64 then
    if z = .b128 then (if d.toNat = 38 then 0 else (st.reg (d.toNat + 1) l).toNat * 2 ^ 64 + (st.reg d.toNat l).toNat)
    else (st.value c d l).toNat
  else match z with
    | .b128 => if d.toNat = 55 then 0 else (List.range 4).foldl (fun v i => v + (st.reg (d.toNat + i) l).toNat * 2 ^ (32 * i)) 0
    | .b64 => (st.pair d l).toNat
    | _ => (st.value c d l).toNat

/-- An access without lanes. -/
def Access.blank : Access where
  id := 0
  at_ := 0
  near := false
  kind := .load
  size := 0
  lanes := []
  data := []
  expect := []
  aop := .load
  dest := none
  signed := false
  got := []
  flag := none
  pkt := 0
  latch := false
  rows := []
  acquire := none
  rels := []
  seen := []

/-- The bytes of a row that a speculative store buffer holds, written over by new bytes (R201). -/
def bufWrite (buf : List (Nat × List (Option Byte))) (a : Nat) (b : List Byte) : List (Nat × List (Option Byte)) :=
  let row := a / 16
  let put (old : List (Option Byte)) : List (Option Byte) := (List.range 16).map (fun i =>
    if a % 16 ≤ i ∧ i < a % 16 + b.length then some (b.getD (i - a % 16) 0) else old.getD i none)
  if buf.any (fun e => e.1 = row) then buf.map (fun e => if e.1 = row then (row, put e.2) else e)
  else buf ++ [(row, put [])]

/-- The byte that a speculative store buffer holds. -/
def bufByte (buf : List (Nat × List (Option Byte))) (a : Nat) : Option Byte :=
  ((buf.find? (fun e => e.1 = a / 16)).map (fun e => e.2.getD (a % 16) none)).getD none

/-- STS of a speculating group: into its buffer, or a pause when a 65th entry is needed (R201). -/
def State.specStore (s : State) (n : Nat) (ea : List (Nat × Nat)) (data : Map Nat) : State :=
  match s.onCur (fun _ st => st.spec.map (fun x => x.buf)) with
  | none => s
  | some buf =>
    let buf1 := ea.foldl (fun b e => bufWrite b e.2 (bytesOf n (Map.get data e.1 0))) buf
    if 64 < buf1.length then s.pauseSpec
    else (s.modCur (fun _ st => { st with spec := st.spec.map (fun x => { x with buf := buf1 }) })).done

/-- LDS through a store buffer: each byte from the buffer, else from the bank in its turn (R112, R201, R203). One that needs no bank is
itself the last M-pipe producer (R192). -/
def State.loadThrough (s : State) (look : Nat → Option Byte) (n : Nat) (ea : List (Nat × Nat)) (dest : Option Nat) (signed : Bool) : State :=
  let at_ (e : Nat × Nat) : List Nat := (List.range n).map (fun i => e.2 + i)
  let kept : Map Nat := (ea.flatMap at_).filterMap (fun a => (look a).map (fun v => (a, v.toNat)))
  let value (e : Nat × Nat) : Nat := ofBytes ((at_ e).map (fun a => (look a).getD 0))
  let here := ea.filter (fun e => ea.all (fun f => f.2 / 16 != e.2 / 16 || (at_ f).all (fun a => (look a).isSome)))
  let vals : Map Nat := here.map (fun e => (e.1, value e))
  let clk := s.clkOf s.curTeam
  (s.modCur (fun w st =>
    if (ea.flatMap at_).any (fun a => (look a).isNone) then st.access { Access.blank with
      at_ := clk, kind := .load, size := n, lanes := ea, data := kept, got := vals, dest := dest, signed := signed, latch := true }
    else
      let val (i l : Nat) : BitVec w := BitVec.ofNat w (loadValue w n signed (Map.get vals l 0) / 2 ^ (w * i))
      let st0 : Stream w := st.latch 2 (valsOf st.n st.ex (val 0))
      let st1 : Stream w := { st0 with mOwner := (List.range st.n).map (fun l => if st.ex.getLsbD l then 0 else st.mOwner.getD l 0) }
      match dest with
      | some d => (List.range (max 1 (n / (w / 8)))).foldl (fun (t : Stream w) i =>
          t.resultF (if i = 0 then st.setFlag else none) clk 1 (.reg (d + i)) (valsOf st.n st.ex (val i))) st1
      | none => st1)).done

/-- LDS of a speculating group: a line from which it reads a byte at the bank enters the read set when its row is read there, and the
load pauses the speculation when a 257th line is needed, with those of its loads under way (R201; that a line enters at the bank, not at
issue, is DEDUCED, log entry 19). -/
def State.specLoad (s : State) (n : Nat) (ea : List (Nat × Nat)) (dest : Option Nat) (signed : Bool) : State :=
  match s.onCur (fun _ st => st.spec.map (fun x => (x.buf, joinLines x.lines (st.acc.flatMap (fun a => a.bankLines a.lanes))))) with
  | none => s
  | some (buf, old) =>
    let banked := (ea.flatMap (fun e => (List.range n).map (fun i => e.2 + i))).filter (fun a => (bufByte buf a).isNone)
    if 256 < (joinLines old (banked.map (fun a => a / 64))).length then s.pauseSpec
    else s.loadThrough (bufByte buf) n ea dest signed

/-- The byte that the drain of a store buffer has still to write (R203). -/
def Stream.drainByte {w : Nat} (st : Stream w) (a : Nat) : Option Byte :=
  ((st.acc.filter (fun b => b.drain && b.lanes.any (fun e => e.2 == a))).getLast?.bind (fun b =>
    (b.lanes.find? (fun e => e.2 == a)).map (fun e => BitVec.ofNat 8 (Map.get b.data e.1 0))))

/-- The lanes whose data stands in memory: of several that name one address, the highest (R294). -/
def lastLanes : List (Nat × Nat) → List (Nat × Nat)
  | [] => []
  | e :: l => if l.any (fun f => f.2 == e.2) then lastLanes l else e :: lastLanes l

/-- The register that a destination code names, if it is one. -/
def State.dstReg (s : State) (d : Reg) : Option Nat :=
  match dstOf s.inLane (s.onCur (fun _ st => st.blocks)) d.toNat with
  | some (.reg r) => some r
  | _ => none

/-- A load or store of the current slot. -/
def State.memory (s : State) (near load sx : Bool) (d a : Reg) (z : Sz) (o : BitVec 8) : State :=
  let lane := s.inLane
  let blocks := s.onCur (fun _ st => st.blocks)
  let n := szBytes z
  let wide := if lane then z = .b64 ∨ z = .b128 else z = .b128
  s.withPeek { both with srcs := if load ∨ wide then [a] else [a, d], keys := [a], ok := memOk lane blocks load sx d.toNat z, pauses := near, mem := true }
    (s.onCur (fun _ st => st.ex)) fun s pops qs =>
      let c := s.ctx pops
      let ea := s.addrs c a (o.toNat * n)
      match s.localFault near n ea with
      | some (t, at_) => s.trapAt t at_
      | none =>
        let data : Map Nat := if load then [] else s.onCur (fun _ st => (lanesOf st.ex st.n).map (fun l => (l, st.storeData c d z l)))
        let dest := if load then s.dstReg d else none
        let clk := s.clkOf s.curTeam
        let s := qs.foldl State.pop s
        if s.onCur (fun _ st => st.speculating) then
          if load then s.specLoad n ea dest sx else s.specStore n ea data
        else if load && !near && s.onCur (fun _ st => st.acc.any (fun a => a.drain)) then
          s.loadThrough (fun a => s.onCur (fun _ st => st.drainByte a)) n ea dest sx
        else
          let lanes := s.placed near ea
          (s.modCur (fun _ st =>
            let st1 := if near && !load then
                { st with stores := st.stores ++ (lastLanes lanes).map (fun e =>
                    { seq := st.accNext, addr := e.2, bytes := bytesOf n (Map.get data e.1 0) }) }
              else st
            st1.access { Access.blank with
              at_ := clk, near := near, kind := if load then .load else .store, size := n, lanes := lanes, data := data,
              dest := dest, signed := sx, latch := load })).done

/-- LDS. -/
def execLds (x : Bool) (d a : Reg) (z : Sz) (o : BitVec 8) (s : State) : Out := .next (s.memory false true x d a z o)
/-- STS. -/
def execSts (d a : Reg) (z : Sz) (o : BitVec 8) (s : State) : Out := .next (s.memory false false false d a z o)
/-- LDN. -/
def execLdn (x : Bool) (d a : Reg) (z : Sz) (o : BitVec 8) (s : State) : Out := .next (s.memory true true x d a z o)
/-- STN. -/
def execStn (d a : Reg) (z : Sz) (o : BitVec 8) (s : State) : Out := .next (s.memory true false false d a z o)

/-! ## Local atomics (R296 to R300) -/

/-- Whether the operand fields of an atomic are allowed (R297). -/
def atomicOk (lane : Bool) (blocks : Nat) (op : Aop) (d b : Nat) : Bool :=
  let none_ := if lane then 55 else 38
  (dstOf lane blocks d).isSome && (match op with
  | .load => b == 0 && d != none_
  | .store => d == none_
  | .cas => d != none_
  | _ => true)

/-- The sources of an atomic. -/
def atomicSrcs (op : Aop) (a b : Reg) : List Reg := if op = .load then [a] else [a, b]

/-- Whether an ORD has a release half. -/
def ordRel : Ord → Bool
  | .rel => true
  | .acqrel => true
  | _ => false
/-- Whether an ORD has an acquire half. -/
def ordAcq : Ord → Bool
  | .acq => true
  | .acqrel => true
  | _ => false

/-- An atomic on scratchpad or near memory of the current slot: its release boundary holds the slot (R299). -/
def State.localAtomic (s : State) (near : Bool) (op : Aop) (d a b : Reg) (r : Ord) : State :=
  let lane := s.inLane
  let blocks := s.onCur (fun _ st => st.blocks)
  let n := if lane then 4 else 8
  let sc : Scope := if near then .die else .team
  s.withPeek { both with srcs := atomicSrcs op a b, keys := [a], ok := atomicOk lane blocks op d.toNat b.toNat, pauses := true, mem := true }
    (s.onCur (fun _ st => st.ex)) fun s pops qs =>
      let c := s.ctx pops
      let ea := s.addrs c a 0
      match s.localFault near n ea with
      | some (t, at_) => s.trapAt t at_
      | none =>
        if ordRel r && !s.releasable sc then s.holdSlot [] else
        let lanes := s.placed near ea
        let dies := (lanes.map (fun e => dieOf e.2)).eraseDups
        let s := qs.foldl State.pop s
        let s := if ordRel r then s.release sc dies else s
        let side := if ordRel r then [s.releaseSide sc dies] else []
        let dest := s.dstReg d
        (s.modCur (fun _ st =>
          let vals (x : Reg) : Map Nat := (lanesOf st.ex st.n).map (fun l => (l, (st.value c x l).toNat))
          st.access { Access.blank with
            at_ := c.clk, near := near, kind := .atomic, size := n, lanes := lanes, aop := op,
            data := if op = .load then [] else vals b, expect := if op = .cas then vals d else [],
            dest := dest, latch := dest.isSome, acquire := if ordAcq r then some sc else none,
            rels := side ++ st.relFences })).done

/-- ATS. -/
def execAts (o : Aop) (d a b : Reg) (r : Ord) (s : State) : Out := .next (s.localAtomic false o d a b r)
/-- ATN. -/
def execAtn (o : Aop) (d a b : Reg) (r : Ord) (s : State) : Out := .next (s.localAtomic true o d a b r)

/-! ## PHASE, TFENCE and DRAIN (R302 to R305) -/

/-- PHASE (R302): the slot is held until its boundary completes; an acquire waits for the reads before it, of which the atomic
ones (an RMW's without a result too) and those of completion records are its acquire side (R212, R214). -/
def execPhase (x : Scope) (k : Kind) (s : State) : Out :=
  .next (s.withPeek { both with pauses := true, mem := true } 0 fun s _ _ =>
    let dies := [s.dieOfTeam s.curTeam]
    let rel := k != .acq
    let acq := k != .rel
    let clear := s.onCur (fun _ st => st.acc.all (fun a => a.near && a.kind == .store))
    let replied := (s.farsOf s.curTeam s.curSel).all (fun f => !f.ret && f.aop == .store)
    if (rel && !s.releasable x) || !clear || (acq && !replied) then s.holdSlot [] else
    let s := if rel then s.release x dies else s
    let side := s.releaseSide x dies
    let s := if rel then s.modCur (fun _ st =>
      { st with relFences := side :: st.relFences.filter (fun f => f.scope != x || f.dies != dies) }) else s
    let s := if acq then s.acquire x dies (s.onCur (fun _ st => st.acqReads)) else s
    s.done)

/-- TFENCE (R303): the slot is held from the fence's start until the fence has completed. -/
def execTfence (sx : Bool) (m : BitVec 6) (s : State) : Out :=
  .next (s.withPeek { ctlUse with ok := !sx || m == 0, mem := true } 0 fun s _ _ =>
    let x := s.curT
    let part := s.part x.port x.part
    let mods := if sx then part.modules.map (fun e => e.2.1) else (part.module m.toNat).toList.map (fun e => e.1)
    let started := s.onCur (fun _ st => match st.hold with | some h => h.pc == st.pc && h.pair.length == 1 | none => false)
    if mods.isEmpty then s.done
    else if started then
      (if s.fences.any (fun f => f.team == some s.curTeam) then s.holdSlot [1] else s.done)
    else
      let f : Fence := { id := s.nextId, port := x.port, part := x.part, mods := mods, team := some s.curTeam }
      { s with fences := s.fences ++ [f], nextId := s.nextId + 1 }.holdSlot [1])

/-- Whether the far atomics that happen before a fence are performed at its modules, so that walks see them (R215); what the host
completed before it wrote the register is. -/
def State.fenceReady (s : State) (f : Fence) : Bool :=
  match f.team with
  | some t => s.farsPerformed (s.team t).ctl.view (fun m => f.mods.contains m)
  | none => true

/-- FENCE_COMPLETE (R215): every store that happens before the fence is performed; the partition's translations leave the TLBs of
the fence's modules, and the partition's walks that begin from here on see the tables as stored now (log entry 10). BUSY of
TFENCECTL falls with the fence that it stands for (R216). -/
def execFenceComplete (i : Nat) (s : State) : Out :=
  match s.fences.find? (fun f => f.id = i && s.fenceReady f) with
  | none => .next s
  | some f =>
    let s := f.mods.foldl (fun s m =>
      let x := s.mod m
      s.setMod m { x with fenceAt := Map.set x.fenceAt (32 * f.port + f.part) x.past.length, tlb := x.tlb.filter (fun e => !(e.port = f.port && e.part = f.part)) }) s
    let x := s.pkg f.port
    let s := if x.tfBusy = some i then s.setPkg f.port { x with tfBusy := none } else s
    .next { s with fences := s.fences.filter (fun f => f.id != i) }

end Sys2Proof.Machine
end

