-- ==== Sys2Proof/Machine/Layout.lean ====
section
/-! DEFINITION. Layout records (R162 to R165), extents of commands (R124), the range-overlap unit (R137), timelines,
windows and arrival barriers (R171 to R176). -/
namespace Sys2Proof.Machine

/-! ## Layout records -/

/-- A layout record, read from its 64 bytes (R162). -/
structure Lay where
  head : Nat
  dims : List Nat

/-- Reads a record. -/
def layOf (b : List Byte) : Lay :=
  { head := ofBytes (b.take 4), dims := (List.range 5).map (fun d => ofBytes ((b.drop (4 + 12 * d)).take 12)) }

/-- NDIM. -/
def Lay.ndim (r : Lay) : Nat := bits r.head 2 0
/-- ESZ as a code. -/
def Lay.code (r : Lay) : Nat := bits r.head 5 3
/-- The element size in bytes. -/
def Lay.esz (r : Lay) : Nat := 2 ^ r.code
/-- MODE. -/
def Lay.indexed (r : Lay) : Bool := bits r.head 6 6 == 1
/-- WRAP of a dimension. -/
def Lay.wrap (r : Lay) (d : Nat) : Bool := bitOf r.head (8 + d)
/-- LB of a dimension. -/
def Lay.lb (r : Lay) (d : Nat) : Bool := bitOf r.head (13 + d)
/-- The dimension that slides through a line buffer, if any. -/
def Lay.lbDim (r : Lay) : Option Nat := (List.range 5).find? r.lb
/-- The 96 bits of a dimension. -/
def Lay.dim (r : Lay) (d : Nat) : Nat := r.dims.getD d 0
/-- SIZE. -/
def Lay.size (r : Lay) (d : Nat) : Nat := bits (r.dim d) 23 0
/-- ORG. -/
def Lay.org (r : Lay) (d : Nat) : Nat := bits (r.dim d) 47 24
/-- STRIDE, signed. -/
def Lay.stride (r : Lay) (d : Nat) : Int := (BitVec.ofNat 48 (bits (r.dim d) 95 48)).toInt
/-- IBASE of an indexed record 0 (R164). -/
def Lay.ibase (r : Lay) : Nat := bits (r.dim 4) 31 0
/-- The number of elements. -/
def Lay.count (r : Lay) : Nat := (List.range r.ndim).foldl (fun n d => n * r.size d) 1

/-- Whether a record obeys R149 and R162; `first` for record 0. -/
def Lay.ok (r : Lay) (first : Bool) : Bool :=
  decide (1 ≤ r.ndim ∧ r.ndim ≤ 5 ∧ r.code ≤ 4) && bits r.head 31 18 == 0 && bits r.head 7 7 == 0 &&
  decide (((List.range 5).filter r.lb).length ≤ 1) &&
  (List.range 5).all (fun d =>
    if d < r.ndim then decide (1 ≤ r.size d)
    else !r.wrap d && !r.lb d && (if first && r.indexed && d == 4 then bits (r.dim d) 95 32 == 0 else r.dim d == 0)) &&
  (first || !r.indexed)

/-- Whether a record names no line buffer. -/
def Lay.noLb (r : Lay) : Bool := r.lbDim.isNone

/-- Whether an indexed record 0 obeys R164. -/
def Lay.indexOk (r : Lay) : Bool :=
  r.indexed && r.code == 2 && decide (r.ndim ≤ 4) && r.noLb && (List.range r.ndim).all (fun d => r.org d == 0 && !r.wrap d)

/-- Whether record 1 describes a row array (R340). -/
def Lay.rowsOk (r : Lay) : Bool :=
  r.ndim == 2 && r.code == 4 && !r.wrap 0 && !r.wrap 1 && r.noLb && r.org 0 == 0 && r.stride 0 == 16 && r.org 1 == 0 &&
  r.stride 1 == 16 * (r.size 0 : Int)

/-- The coordinates of element n, dimension 0 fastest (R163). -/
def Lay.coords (r : Lay) (n : Nat) : List Nat :=
  ((List.range r.ndim).foldl (fun (p : List Nat × Nat) d => (p.1 ++ [p.2 % r.size d], p.2 / r.size d)) ([], n)).1

/-- The offset of element n from the base (R163). -/
def Lay.offset (r : Lay) (n : Nat) : Int :=
  let i := r.coords n
  (List.range r.ndim).foldl (fun (a : Int) d =>
    let c := i.getD d 0 + r.org d
    a + ((if r.wrap d then c % r.size d else c : Nat) : Int) * r.stride d) 0

/-- The bounding box of the offsets: the first and the last byte (R124, R165). -/
def Lay.box (r : Lay) : Int × Int :=
  let p := (List.range r.ndim).foldl (fun (p : Int × Int) d =>
    let lo : Int := if r.wrap d then 0 else (r.org d : Int)
    let hi : Int := if r.wrap d then (r.size d : Int) - 1 else (r.org d : Int) + r.size d - 1
    (p.1 + min (lo * r.stride d) (hi * r.stride d), p.2 + max (lo * r.stride d) (hi * r.stride d))) (0, 0)
  (p.1, p.2 + r.esz - 1)

/-- Whether every stride is a multiple of the element size (R337). -/
def Lay.aligned (r : Lay) : Bool := (List.range r.ndim).all (fun d => r.stride d % (r.esz : Int) == 0)

/-! ## Extents -/

/-- An extent: its first and last byte. -/
abbrev Extent := Int × Int

/-- An extent of `n` bytes from an address. -/
def extentAt (a n : Nat) : Extent := ((a : Int), (a : Int) + n - 1)

/-- The extent of a record from a base (R124). -/
def Lay.extent (r : Lay) (base : Nat) : Extent := (base + r.box.1, base + r.box.2)

/-- Whether two extents share a byte. -/
def Extent.meets (a b : Extent) : Bool := decide (a.1 ≤ b.2 ∧ b.1 ≤ a.2)

/-- Whether an extent lies in the scratchpad region (R108). -/
def Extent.inScratch (e : Extent) : Bool := decide (e.2 < 0x40000000)

/-- Whether some bytes of a range of offsets lie in a secure extent. -/
def secureIn : List (Nat × Nat × Bool) → Int → Int → Bool
  | [], _, _ => false
  | (_, len, sec) :: l, lo, hi => (sec && decide (lo < len ∧ 0 ≤ hi)) || secureIn l (lo - len) (hi - len)

/-- The bounds check of a local extent from a base (R108, R109): its region, and the valid part of the region. -/
def State.localOut (s : State) (t base : Nat) (e : Extent) : Option Trap :=
  let x := s.team t
  if 2 ^ 32 ≤ base then some .nearBounds
  else if e.1 < 0x40000000 then
    (if 0 ≤ e.1 ∧ e.2 < (s.gridOf t).scratchLen then none else some .scratchBounds)
  else if e.2 < 0x80000000 ∧ e.2 - 0x40000000 < total (s.part x.port x.part).nearExt then none
  else some .nearBounds

/-- Whether a local extent reaches a secure near extent from the non-secure world (R128). -/
def State.localWorld (s : State) (t : Nat) (e : Extent) : Bool :=
  let x := s.team t
  decide (0x40000000 ≤ e.1) && !s.secure t &&
  secureIn (s.part x.port x.part).nearExt (e.1 - 0x40000000) (e.2 - 0x40000000)

/-- The bounds and world checks of a range that is read at issue. -/
def State.localBad (s : State) (t a n : Nat) : Option Trap :=
  match s.localOut t a (extentAt a n) with
  | some x => some x
  | none => if s.localWorld t (extentAt a n) then some .world else none

/-- The logical module of a far extent. -/
def Extent.lmod (e : Extent) : Nat := bits e.1.toNat 55 50

/-- Whether a partition may name a logical module: it is in the map, and a plane leads to it (R153, R154). -/
def State.reachable (s : State) (port part lmod : Nat) : Bool :=
  match (s.part port part).module lmod with
  | some m => !(s.planes port part m.1).isEmpty
  | none => false

/-- The first check that some extents fail, in the order of R109, with the first byte of the extent: local extents with
their bases, then the extent of an index tensor, which must lie in scratchpad (R340). -/
def State.extentFault (s : State) (t : Nat) (loc : List (Nat × Extent)) (far : List Extent) (idx : Option Extent) :
    Option (Trap × Nat) :=
  let x := s.team t
  let at_ (e : Extent) : Nat := (e.1 % 2 ^ 64).toNat
  let non := far.find? (fun e => decide (e.1 < 0 ∨ 2 ^ 56 ≤ e.1))
  let cross := far.find? (fun e => e.1 / 2 ^ 50 != e.2 / 2 ^ 50)
  let out := loc.findSome? (fun e => (s.localOut t e.1 e.2).map (fun k => (k, at_ e.2)))
  let ten := idx.bind (fun e => if 0 ≤ e.1 ∧ e.2 < (s.gridOf t).scratchLen then none else some (Trap.scratchBounds, at_ e))
  let sec := loc.find? (fun e => s.localWorld t e.2)
  let abs := far.find? (fun e => !s.reachable x.port x.part e.lmod)
  match non, cross, out, ten, sec, abs with
  | some e, _, _, _, _, _ => some (.noncanon, at_ e)
  | _, some e, _, _, _, _ => some (.rangeCross, at_ e)
  | _, _, some f, _, _, _ => some f
  | _, _, _, some f, _, _ => some f
  | _, _, _, _, some e, _ => some (.world, at_ e.2)
  | _, _, _, _, _, some e => some (.permission, at_ e)
  | _, _, _, _, _, _ => none

/-! ## Local bytes that the hardware reads and writes -/

/-- The pieces of a range in aligned 16-byte rows: start and length (R119, R197). -/
def rowPieces (a n : Nat) : List (Nat × Nat) :=
  (List.range ((a + n + 15) / 16 - a / 16)).map (fun i =>
    let r := 16 * (a / 16 + i)
    (max a r, min (a + n) (r + 16) - max a r))

/-- A byte at a team-local address: scratchpad, or near memory at its home (R213). -/
def State.localByte (s : State) (t a : Nat) : Byte :=
  if a < 0x40000000 then (s.team t).scratch.read a else (s.pkg (s.team t).port).latest (some t) (s.nearAt t a).1

/-- Bytes from a team-local address on. -/
def State.localRead (s : State) (t a n : Nat) : List Byte := (List.range n).map (fun i => s.localByte t (a + i))

/-- Checks by ECC what is read from a team-local range (R114, R119). -/
def State.localCheck (s : State) (t a n : Nat) : State × Bool :=
  checkAll (fun s p =>
    if p.1 < 0x40000000 then s.checkRow t (p.1 / 16) else s.checkNear t ((s.nearAt t p.1).1 / 64)) (rowPieces a n) s

/-- Writes one piece, inside one row, for an engine (R111, R219); a near write answers the view that has seen it. -/
def State.localPiece (s : State) (t a : Nat) (b : List Byte) (v : View) : State × View :=
  let x := s.team t
  if a < 0x40000000 then (s.setTeam t (x.scratchWrite none a b), v)
  else
    let n := (s.nearAt t a).1
    let s := s.nearWrite x.port n b none none 0
    (s, v.raise n b.length (s.pkg x.port).pos)

/-- Writes bytes from a team-local address on, row by row. -/
def State.localWrite (s : State) (t a : Nat) (b : List Byte) (v : View) : State × View :=
  (rowPieces a b.length).foldl (fun p r => p.1.localPiece t r.1 ((b.drop (r.1 - a)).take r.2) p.2) (s, v)

/-! ## Timelines, windows, barriers (R171 to R177) -/

/-- DONE moves over the completed numbers that follow it without a gap (R171). -/
def advanceDone : Nat → Nat → List Nat → Nat × List Nat
  | 0, d, l => (d, l)
  | n + 1, d, l => if l.contains (d + 1) then advanceDone n (d + 1) (l.erase (d + 1)) else (d, l)

/-- A numbered command completes (R171, R172). -/
def Timeline.complete (l : Timeline) (n code : Nat) : Timeline :=
  let r := advanceDone (l.ahead.length + 1) l.done (n :: l.ahead)
  { l with
    done := r.1
    ahead := r.2
    failNo := if code ≠ 0 ∧ l.failNo = 0 then n else l.failNo
    failCode := if code ≠ 0 ∧ l.failNo = 0 then code else l.failCode }

/-- A command completes on a timeline of a team; an advance of DONE is a WAITEV event (R323). -/
def State.tlComplete (s : State) (t k n code : Nat) : State :=
  let x := s.team t
  let l := x.tls.getD k Timeline.blank
  let l1 := l.complete n code
  let s := s.setTeam t { x with tls := setAt x.tls k l1 }
  if l1.done = l.done then s else s.event t 1

/-- The next number of a timeline (R171). -/
def Timeline.take (l : Timeline) : Timeline := { l with issued := l.issued + 1 }

/-- Bytes are accounted in a window (R174). -/
def Window.account (w : Window) (b : Nat) (err : Bool) : Window :=
  { w with outst := w.outst - b, err := w.err || err }

/-- Whether a window admits a charged command of `b` bytes (R174). -/
def Window.admits (w : Window) (b : Nat) : Bool :=
  w.allow != 0 && decide (w.outst + b ≤ w.allow ∨ (w.allow < b ∧ w.outst = 0))

/-- Bytes arrive at a barrier, landed or dropped (R176); a landing brings the view of its bytes. The second part says
whether the barrier fires. -/
def Barrier.count_ (a : Barrier) (b : Nat) (drop : Bool) (v : View) : Barrier × Bool :=
  if a.state = .armed ∧ a.count + b ≤ a.expect then
    let fire := decide (a.count + b = a.expect)
    ({ a with count := a.count + b, state := if fire then .fired else .armed, err := a.err || drop, view := a.view.join v }, fire)
  else ({ a with ovr := true, err := true }, false)

/-- Releases the packets held for a counter that reads 0 (R39, R46). -/
def Part.releaseHeld (x : Part) (c : Nat) : Part :=
  { x with queue := x.queue.map (fun q => if q.held = some c then { q with held := none } else q) }

/-- Lowers a dependence counter (R177). -/
def State.depDec (s : State) (p n c : Nat) : State :=
  let x := s.part p n
  let v := Map.get x.depc c 0
  if v = 0 then s.setPart p n (x.count cntUnderflow)
  else
    let x := { x with depc := Map.set x.depc c (v - 1) }
    s.setPart p n (if v = 1 then x.releaseHeld c else x)

/-- What a barrier does when it fires: its counter falls, and WAITEV sees it (R176, R323). -/
def State.barrierFired (s : State) (t : Nat) (a : Barrier) : State :=
  let x := s.team t
  let s := match a.depc with | some c => s.depDec x.port x.part c | none => s
  s.event t 0

/-- Counts bytes on a barrier of a team (R176); number 15 means none (R175). -/
def State.barrierCount (s : State) (t ab b : Nat) (drop : Bool) (v : View) : State :=
  if ab = 15 ∨ b = 0 then s else
  let x := s.team t
  let r := (x.abs.getD ab Barrier.blank).count_ b drop v
  let s := s.setTeam t { x with abs := setAt x.abs ab r.1 }
  if r.2 then s.barrierFired t r.1 else s

/-! ## Tile shapes (R96, R330) -/

/-- ROWS + 1 of a shape. -/
def shRows (w : Word) : Nat := bits w.toNat 4 0 + 1
/-- COLS. -/
def shCols (w : Word) : Nat := bits w.toNat 15 7
/-- FMT, as a conversion code. -/
def shFmt (w : Word) : Nat := bits w.toNat 19 16
/-- Whether a format is a block format. -/
def shBlock (w : Word) : Bool := shFmt w == 12 || shFmt w == 13
/-- The element size of a float format. -/
def shEsz (w : Word) : Nat := if shFmt w = 4 then 4 else 2
/-- E: the bytes of the elements of a row. -/
def shElems (w : Word) : Nat :=
  if shFmt w = 12 then shCols w else if shFmt w = 13 then (shCols w + 1) / 2 else shCols w * shEsz w
/-- L: the bytes of a row image. -/
def shLen (w : Word) : Nat :=
  if shBlock w then (shElems w + 1) / 2 * 2 + 2 * ((shCols w + 31) / 32) else shElems w
/-- RB: the pitch of rows in a tile. -/
def shPitch (w : Word) : Nat := (shLen w + 15) / 16 * 16
/-- Whether a shape is valid. -/
def shOk (w : Word) : Bool :=
  [4, 6, 7, 12, 13].contains (shFmt w) && decide (1 ≤ shCols w ∧ shCols w ≤ 256 ∧ shRows w * shPitch w ≤ 4096)

/-- The scratchpad extent of TLD and TST (R334). -/
def tileExtent (w : Word) (base stride : Nat) (tr : Bool) : Extent :=
  if tr then extentAt base ((shCols w - 1) * stride + shRows w * shEsz w)
  else extentAt base ((shRows w - 1) * stride + shLen w)

/-! ## The range-overlap unit (R137) -/

/-- What an entry reads and writes in scratchpad. -/
structure Sides where
  reads : List Extent
  writes : List Extent

/-- Whether an entry must wait for an earlier one. -/
def Sides.waits (mine earlier : Sides) : Bool :=
  earlier.writes.any (fun w => mine.reads.any w.meets || mine.writes.any w.meets) ||
  earlier.reads.any (fun r => mine.writes.any r.meets)

/-- The scratchpad sides of a transfer; the index tensor only until the indices are read. -/
def Xfer.sides (x : Xfer) : Sides :=
  let r0 := layOf x.rec0
  let r1 := layOf x.rec1
  let loc (l : List Extent) : List Extent := l.filter Extent.inScratch
  let rows := r1.esz * r1.size 0
  let tensor := if r0.indexed && !x.started then [r0.extent r0.ibase] else []
  let e0 := if r0.indexed then extentAt x.x2.toNat (r1.size 1 * rows) else r0.extent x.x2.toNat
  let e1 := if r0.indexed then extentAt x.x1.toNat (r0.count * rows) else r1.extent x.x1.toNat
  match x.kind with
  | .fetch => { reads := loc tensor, writes := loc [e1] }
  | .put => { reads := loc [e1], writes := [] }
  | .copyl => { reads := loc (e0 :: tensor), writes := loc [e1] }
  | .fetchr => { reads := [], writes := loc [r1.extent x.x1.toNat] }
  | _ => { reads := [], writes := [] }

/-- The scratchpad sides of a matrix queue entry. -/
def MatEntry.sides (e : MatEntry) : Sides :=
  match e.op with
  | .tld _ base stride tr => { reads := [tileExtent (e.shapes.headD 0) base stride tr], writes := [] }
  | .tst _ base stride tr => { reads := [], writes := [tileExtent (e.shapes.headD 0) base stride tr] }
  | _ => { reads := [], writes := [] }

/-- Whether the streams of a team that is being preempted have all halted: what is left of its save is R53's last steps. -/
def Team.standing (x : Team) : Bool :=
  x.preempt.isSome && (x.ctl.halted || x.ctl.live == 0) && x.grps.all (fun e => e.2.halted || e.2.live == 0)

/-- Whether an entry of a team numbered `seq` must wait for an earlier entry of the team. -/
def State.mustWait (s : State) (t seq : Nat) (mine : Sides) : Bool :=
  s.xfers.any (fun e => e.2.team == t && e.2.queued && e.2.seq < seq && mine.waits e.2.sides) ||
  (s.core (s.team t).core).mq.any (fun e => e.team == t && e.seq < seq && mine.waits e.sides)

end Sys2Proof.Machine
end

