-- ==== Sys2Proof/Machine/Transfers.lean ====
section
/-! DEFINITION. Engine commands after issue (R136, R137, R224, R336 to R346): their geometry, what their bytes are
accounted to, line buffers, and how one starts and ends. -/
namespace Sys2Proof.Machine

/-- A command of no team. -/
def Xfer.blank : Xfer where
  kind := .copyl
  team := 0
  grid := 0
  port := 0
  part := 0
  core := 0
  lmod := 0
  pmod := 0
  tenant := 0
  pasid := 0
  secure := false
  x1 := 0
  x2 := 0
  rec0 := []
  rec1 := []
  lr := 0
  ab := 15
  win := 0
  cls := 0
  tl := 0
  num := 0
  flag := none
  pkt := 0
  insn := 0
  dest := 0
  bytes := 0
  unacct := 0
  indices := []
  sent := []
  vals := []
  local_ := []
  kept := []
  started := false
  atSource := false
  todo := []
  landed := []
  held := []
  tokens := []
  rearmed := false
  rts := none
  req := none
  status := none
  pend := 0
  done := true
  queued := false
  view := View.none
  rels := []
  seq := 0
  fars := []
  saved := false

/-- A command. -/
def State.xfer (s : State) (i : Nat) : Xfer := Map.get s.xfers i Xfer.blank
/-- Replaces a command. -/
def State.setXfer (s : State) (i : Nat) (x : Xfer) : State := { s with xfers := Map.set s.xfers i x }

/-! ## Status codes (R338) -/

/-- OK. -/
def xsOk : Nat := 0
/-- A held fault that system software fails. -/
def xsTranslation : Nat := 1
/-- A permission or world violation at the module. -/
def xsPermission : Nat := 2
/-- A reduction group in error. -/
def xsPeer : Nat := 3
/-- The channel went down, or an orphaned request. -/
def xsDown : Nat := 4
/-- A dropped element. -/
def xsIndex : Nat := 5
/-- The PASID has been revoked. -/
def xsRevoked : Nat := 7

/-! ## Geometry (R163, R164, R224, R340, R344) -/

/-- Whether a command is charged to its window (R173). -/
def Xfer.charged (x : Xfer) : Bool := x.kind == .fetch || x.kind == .fetchr
/-- Whether the module is the source (R226). -/
def Xfer.fromModule (x : Xfer) : Bool := x.kind == .fetch || x.kind == .fetchr
/-- Record 0. -/
def Xfer.r0 (x : Xfer) : Lay := layOf x.rec0
/-- Record 1. -/
def Xfer.r1 (x : Xfer) : Lay := layOf x.rec1
/-- Whether record 0 is an index record. -/
def Xfer.indexed (x : Xfer) : Bool := (x.kind == .fetch || x.kind == .copyl) && x.r0.indexed
/-- ROWB of an indexed command (R164). -/
def Xfer.rowb (x : Xfer) : Nat := 16 * x.r1.size 0
/-- The size of an element of the stream: 4 for FETCHR, 16 in indexed mode. -/
def Xfer.esize (x : Xfer) : Nat := if x.kind = .fetchr then 4 else if x.indexed then 16 else x.r0.esz
/-- The team-local address of element n on the X1 side. -/
def Xfer.localAddr (x : Xfer) (n : Nat) : Nat :=
  if x.indexed then x.x1.toNat + 16 * n else ((x.x1.toNat : Int) + x.r1.offset n).toNat
/-- The address of element n on the X2 side, far or local. -/
def Xfer.farAddr (x : Xfer) (n : Nat) : Nat :=
  if x.indexed then
    let k := x.r1.size 0
    x.x2.toNat + x.indices.getD (n / k) 0 * x.rowb + 16 * (n % k)
  else ((x.x2.toNat : Int) + x.r0.offset n).toNat
/-- The bytes of the stream (R224). -/
def Xfer.streamLen (x : Xfer) : Nat := x.sent.length * x.esize
/-- The chunks of the stream. -/
def Xfer.chunks (x : Xfer) : Nat := (x.streamLen + 255) / 256
/-- The bytes of chunk j. -/
def Xfer.chunkLen (x : Xfer) (j : Nat) : Nat := min 256 (x.streamLen - 256 * j)
/-- The elements of `n` bytes of the stream from a byte on: every element lies whole in one piece. -/
def Xfer.elementsOf (x : Xfer) (lo n : Nat) : List Nat := (x.sent.drop (lo / x.esize)).take (n / x.esize)
/-- The stream bytes that a token has not yet covered a chunk of: those of the chunks still to send. -/
def Xfer.todoBytes (x : Xfer) : Nat := x.todo.foldl (fun n j => n + x.chunkLen j) 0

/-! ## Accounting (R174, R176) -/

/-- Accounts bytes of a command, landed or dropped, with the view that has seen them. -/
def State.account (s : State) (i n : Nat) (drop : Bool) (v : View) : State :=
  let x := s.xfer i
  let s := if x.charged then
      let t := s.team x.team
      s.setTeam x.team { t with wins := setAt t.wins x.win ((t.wins.getD x.win Window.blank).account n drop) }
    else s
  let s := s.barrierCount x.team x.ab n drop v
  s.setXfer i { s.xfer i with unacct := x.unacct - n, view := x.view.join v }

/-! ## Line buffers (R341) -/

/-- The tag of a fetch: team, X2 and record 0 without the ORG of the sliding dimension. -/
def Xfer.lbTag (x : Xfer) (d : Nat) : List Nat :=
  [x.team, x.x2.toNat, x.r0.head] ++ (List.range 5).map (fun k =>
    if k = d then x.r0.dim k - bits (x.r0.dim k) 47 24 * 2 ^ 24 else x.r0.dim k)

/-- The coordinate of element n in the sliding dimension. -/
def Xfer.lineOf (x : Xfer) (d n : Nat) : Nat :=
  let c := (x.r0.coords n).getD d 0 + x.r0.org d
  if x.r0.wrap d then c % x.r0.size d else c

/-- The elements of a fetch in one line. -/
def Xfer.inLine (x : Xfer) (d c : Nat) : List Nat := (List.range x.r0.count).filter (fun n => x.lineOf d n == c)

/-- The line buffer that a fetch names (R341): LR mod 8 of the core. -/
def State.lineBuf (s : State) (x : Xfer) : LineBuf :=
  Map.get (s.core (s.team x.team).core).lbs (x.lr % 8) { tag := [], lines := [] }

/-- Replaces the line buffer that a fetch names. -/
def State.setLineBuf (s : State) (x : Xfer) (b : LineBuf) : State :=
  let c := (s.team x.team).core
  let k := s.core c
  s.setCore c { k with lbs := Map.set k.lbs (x.lr % 8) b }

/-- The bytes of each element that a buffered line brings, in element order. -/
def keptOf (x : Xfer) (d : Nat) (lines : Map (List Byte)) : Map (List Byte) :=
  lines.flatMap (fun l => (x.inLine d l.1).mapIdx (fun i n => (n, (l.2.drop (i * x.esize)).take x.esize)))

/-- Inserts a number into an ascending list. -/
def insertNat (l : List Nat) (n : Nat) : List Nat := l.filter (fun k => k < n) ++ [n] ++ l.filter (fun k => n < k)

/-- What the line buffer holds after a fetch: of its highest-coordinate lines as many as fit whole in 16 KiB; none when
the fetch did not end OK (log entry 21). -/
def linesAfter (x : Xfer) (d : Nat) : Map (List Byte) :=
  let all := ((List.range (x.r0.size d)).map (fun i =>
    let c := i + x.r0.org d
    if x.r0.wrap d then c % x.r0.size d else c)).foldl insertNat []
  let line (c : Nat) : List Byte := (x.inLine d c).flatMap (fun n => Map.get x.kept n [])
  let len := x.esize * (x.r0.count / x.r0.size d)
  (all.drop (all.length - 16384 / len)).map (fun c => (c, line c))

/-! ## Start and end -/

/-- Accounts some dropped elements of `n` bytes each, one after the other (R174, R176). -/
def State.dropEach (s : State) (i n k : Nat) : State := (List.range k).foldl (fun s _ => s.account i n true View.none) s

/-- Ends a command with a status (R172, R174, R176, R338): what is not accounted fails, its number completes, its flag
falls, its queue place is free. A grant request of it stays as R232 has it: its tokens come back, and it is purged as an orphan. Only a
charged command lowers OUTST and sets ERR of its window: whether a PUT that ends with a status other than OK, which names a window but is
not charged (R173, R338), sets ERR no rule says (DESIGN CHOICE, log entry 46). -/
def State.endXfer (s : State) (i code : Nat) : State :=
  let x := s.xfer i
  if x.done then s else
  let s := if code ≠ xsOk ∧ x.charged then
      let t := s.team x.team
      s.setTeam x.team { t with wins := setAt t.wins x.win ((t.wins.getD x.win Window.blank).account 0 true) }
    else s
  let s := if code ≠ xsOk then s.account i x.unacct true View.none else s
  let s := s.setXfer i { s.xfer i with done := true, queued := false, tokens := [], todo := [], held := [], kept := [] }
  let c := (s.team x.team).core
  let s := s.setCore c { s.core c with eq_ := (s.core c).eq_.filter (fun j => j != i) }
  let s := match (if x.kind = .fetch then x.r0.lbDim else none) with
    | some d => s.setLineBuf x { tag := x.lbTag d, lines := if code = xsOk then linesAfter x d else [] }
    | none => s
  let s := s.tlComplete x.team x.tl x.num code
  s.modStream x.team .ctl (fun _ st => st.lower x.flag)

/-- Ends a command once all its bytes are accounted. -/
def State.settleXfer (s : State) (i : Nat) : State :=
  let x := s.xfer i
  if x.unacct = 0 then s.endXfer i x.pend else s

/-- The stream of a direct command: every element. -/
def Xfer.allElements (x : Xfer) : List Nat := List.range x.r0.count

/-- Reads the indices of an indexed command as it executes (R340), and accounts the dropped rows; nothing is left to do when
an uncorrectable error ends the grid. -/
def State.readIndices (s : State) (i : Nat) : State :=
  let x := s.xfer i
  let t := x.team
  let at_ (m : Nat) : Nat := ((x.r0.ibase : Int) + x.r0.offset m).toNat
  let c := checkAll (fun s m => s.localCheck t (at_ m) 4) x.allElements s
  if !c.2 then c.1 else
  let vals := x.allElements.map (fun m => ofBytes (c.1.localRead t (at_ m) 4))
  let k := x.r1.size 0
  let keep := x.allElements.filter (fun m => vals.getD m 0 < x.r1.size 1)
  let drops := vals.length - keep.length
  let s := c.1.setXfer i { x with
    indices := vals
    sent := keep.flatMap (fun m => (List.range k).map (fun q => m * k + q))
    pend := if drops = 0 then xsOk else xsIndex }
  s.dropEach i x.rowb drops

/-- The elements that a FETCH sends, and the lines it lands from its line buffer (R341). -/
def State.planFetch (s : State) (i : Nat) : State :=
  let x := s.xfer i
  match x.r0.lbDim with
  | none => s.setXfer i { x with sent := x.allElements }
  | some d =>
    let b := s.lineBuf x
    let lines := if b.tag = x.lbTag d then b.lines.filter (fun l => x.allElements.any (fun n => x.lineOf d n == l.1)) else []
    let s := if b.tag = x.lbTag d then s else s.setLineBuf x { tag := x.lbTag d, lines := [] }
    s.setXfer i { x with
      sent := x.allElements.filter (fun n => !lines.any (fun l => l.1 == x.lineOf d n))
      local_ := lines.map (fun l => l.1)
      kept := keptOf x d lines }

/-- Sends the message of a command to its module. -/
def State.toModule (s : State) (i : Nat) (m : Msg) : State :=
  let x := s.xfer i
  s.enqueue ⟨x.port, x.part, x.pmod, true⟩ m

/-- Whether a command has a scratchpad side while it runs (R136). -/
def Xfer.hasScratch (x : Xfer) : Bool := !(x.sides.reads.isEmpty && x.sides.writes.isEmpty)

/-- Starts a command (R226, R239, R339 to R345). -/
def State.startXfer (s : State) (i : Nat) : State :=
  let x := s.xfer i
  if x.kind != .copyl && s.isDown x.port x.part x.pmod then s.endXfer i xsDown else
  let cls := ((s.team x.team).wins.getD x.win Window.blank).cls
  let x := { x with started := true, cls := cls }
  let x := { x with queued := x.hasScratch }
  let s := s.setXfer i x
  let c := (s.team x.team).core
  let s := if x.queued then s else s.setCore c { s.core c with eq_ := (s.core c).eq_.filter (fun j => j != i) }
  match x.kind with
  | .fetch =>
    let s := if x.indexed then s.readIndices i else s.planFetch i
    let y := s.xfer i
    if y.done then s
    else if y.sent.isEmpty then s.settleXfer i
    else (s.setXfer i { y with todo := List.range y.chunks }).toModule i (.readReq i)
  | .put => s.setXfer i { x with sent := x.allElements, atSource := true, todo := List.range ((x.bytes + 255) / 256) }
  | .copyl =>
    let s := if x.indexed then s.readIndices i else s.setXfer i { x with sent := x.allElements }
    let y := s.xfer i
    if y.done then s
    else if y.sent.isEmpty then s.settleXfer i
    else s.setXfer i { y with local_ := List.range ((y.streamLen + 15) / 16) }
  | .fetchr => s.toModule i (.readReq i)
  | _ => s.toModule i (.engm i)

/-- Whether what happens before the issue of a command is performed, as far as the command could overtake it (R218): the accesses of its
thread that came before it, and the far atomics at its module; those of every module before a GREADY (R222). -/
def State.issueSeen (s : State) (x : Xfer) : Bool :=
  s.ctlDone x.team x.insn &&
  s.farsPerformed { View.none with fars := x.fars } (fun m => x.kind == .gready || (x.kind != .copyl && m == x.pmod))

/-- Whether a command of the queue may start (R137, R218, R222): not one of a team that has halted for its save (R53). -/
def State.mayStart (s : State) (i : Nat) : Bool :=
  let x := s.xfer i
  !x.started && !x.done && !(s.team x.team).standing && s.issueSeen x && !s.mustWait x.team x.seq x.sides &&
  !(x.tl == 2 && s.xfers.any (fun e => e.2.team == x.team && e.2.tl == 2 && e.2.pmod == x.pmod && e.2.num < x.num &&
    !e.2.started && !e.2.done))

/-- Starts what can start in the queue of a core, in order. -/
def State.kick (s : State) (c : Nat) : State :=
  (s.core c).eq_.foldl (fun s i => if s.mayStart i then s.startXfer i else s) s

/-- Ends a command, and starts what waited for it. -/
def State.finishXfer (s : State) (i code : Nat) : State :=
  (s.endXfer i code).kick (s.team (s.xfer i).team).core

/-- Gives what has been written to a package's near memory since a position the newest position: an engine writes each aligned 16-byte
piece whole, whatever the order and the gaps of the elements in it, and a view moves over a piece at once (R119). -/
def Pkg.atOnce (p : Pkg) (base : Nat) : Pkg := { p with hist := p.hist.map (fun h => if base < h.pos then { h with pos := p.pos } else h) }

/-- Lands bytes of a command at some elements of its X1 side, in order (R111, R119, R219). -/
def State.landElements (s : State) (x : Xfer) (es : List (Nat × List Byte)) : State × View :=
  let p := (s.team x.team).port
  let r := es.foldl (fun r e => r.1.localWrite x.team (x.localAddr e.1) e.2 r.2) (s, View.none)
  let k := r.1.pkg p
  if k.pos = (s.pkg p).pos then r
  else (r.1.setPkg p (k.atOnce (s.pkg p).pos), { r.2 with bytes := r.2.bytes.map (fun b => (b.1, k.pos)) })

/-- The values that a COPYL writes to some elements: each is read after the earlier ones are written (R343). -/
def State.copyValues (s : State) (x : Xfer) (es : List Nat) : List (Nat × List Byte) :=
  (es.foldl (fun (q : State × List (Nat × List Byte)) e =>
    let v := q.1.localRead x.team (x.farAddr e) x.esize
    ((q.1.localWrite x.team (x.localAddr e) v View.none).1, q.2 ++ [(e, v)])) (s, [])).2

/-- LOCAL_PIECE_PERFORMED (R341, R343): the next 16-byte piece of a COPYL, its elements in order, each read after the earlier
ones are written, and written whole where they stand in one aligned piece (R111, R119); or the next line of a FETCH from its line buffer. -/
def execLocalPiecePerformed (i : Nat) (s : State) : Out :=
  let x := s.xfer i
  if x.done || (s.team x.team).place != .resident then .next s else
  match x.local_ with
  | [] => .next s
  | p :: rest =>
    if x.kind = .copyl then
      let n := min 16 (x.streamLen - 16 * p)
      let es := x.elementsOf (16 * p) n
      let c := checkAll (fun s e => s.localCheck x.team (x.farAddr e) x.esize) es s
      if !c.2 then .next c.1 else
      let r := c.1.landElements x (c.1.copyValues x es)
      let s := r.1.setXfer i { r.1.xfer i with local_ := rest }
      .next (((s.account i n false r.2).settleXfer i).kick (s.team x.team).core)
    else
      match x.r0.lbDim with
      | none => .next s
      | some d =>
        let es := x.inLine d p
        let r := s.landElements x (es.map (fun n => (n, Map.get x.kept n [])))
        let s := r.1.setXfer i { r.1.xfer i with local_ := rest }
        .next (((s.account i (es.length * x.esize) false r.2).settleXfer i).kick (s.team x.team).core)

end Sys2Proof.Machine
end

