-- ==== Sys2Proof/Machine/Engines.lean ====
section
/-! DEFINITION. Issue of engine commands (R336 to R346), windows, barriers and waits (R347 to R350), DRAIN (R304). -/
namespace Sys2Proof.Machine

/-! ## Issue in common (R337) -/

/-- A command ready to issue: its fields that the check has fixed. -/
structure EngPlan where
  kind : XKind
  x1 : Nat
  x2 : Nat
  lr : Nat
  ab : Nat
  win : Nat
  tl : Nat
  rec0 : List Byte
  rec1 : List Byte
  bytes : Nat
  lmod : Nat
  dest : Nat

/-- The pair kept by a command that is held at issue (R337). -/
def State.keptPair (s : State) (n : Nat) : Option (List Byte) :=
  s.onCur (fun _ st => match st.hold with
    | some h => if h.pc = st.pc ∧ h.pair.length = n then some h.pair else none
    | none => none)

/-- The issue of a command happens before what its thread does from then on. -/
def View.noteCmd (v : View) (t n : Nat) : View := { v with cmds := Map.set v.cmds t n }

/-- Issues a command (R337): number, charge, queue entry, flag; the release of R218 publishes the thread's near stores. -/
def State.openXfer (s : State) (p : EngPlan) : State :=
  let s := if p.kind = .gready then s.release .domain [] else s.publish s.curTeam s.curSel true allDies
  let t := s.curTeam
  let x := s.curT
  let g := s.grid x.grid
  let m := ((s.part x.port x.part).module p.lmod).getD (0, 0)
  let l := (x.tls.getD p.tl Timeline.blank).take
  let i := s.nextXfer
  let y : Xfer := { Xfer.blank with
    kind := p.kind, team := t, grid := x.grid, port := x.port, part := x.part, core := x.core
    lmod := p.lmod, pmod := m.1, tenant := m.2, pasid := g.pasid, secure := s.secure t
    x1 := BitVec.ofNat 64 p.x1, x2 := BitVec.ofNat 64 p.x2, rec0 := p.rec0, rec1 := p.rec1
    lr := p.lr, ab := p.ab, win := p.win, tl := p.tl, num := l.issued
    flag := s.onCur (fun _ st => st.setFlag), pkt := s.onCur (fun _ st => st.pktNo), insn := s.onCur (fun _ st => st.accNext)
    dest := p.dest, bytes := p.bytes, unacct := p.bytes, done := false, queued := true, seq := s.nextId
    fars := s.onCur (fun _ st => st.view.fars)
    rels := if p.kind = .gready then [s.releaseSide .domain []] else [] }
  let s := s.setTeam t { x with
    tls := setAt x.tls p.tl l
    wins := if y.charged then
        let w := x.wins.getD p.win Window.blank
        setAt x.wins p.win { w with outst := w.outst + p.bytes }
      else x.wins }
  let s := s.setCore x.core { s.core x.core with eq_ := (s.core x.core).eq_ ++ [i] }
  let s := { s with xfers := Map.set s.xfers i y, nextXfer := i + 1, nextId := s.nextId + 1 }
  let s := s.modCur (fun _ st =>
    let st1 := (if p.kind = .gcreate then st.claim [p.dest] else st).raise st.setFlag
    { st1 with accNext := st1.accNext + 1, view := st1.view.noteCmd t y.seq, engPkt := if p.kind = .gcreate then st1.pktNo else st1.engPkt })
  s.done.kick x.core

/-- Whether the engine command queue has a place (R136). -/
def State.queueFree (s : State) : Bool :=
  let k := s.core s.curT.core
  decide (k.eq_.length < 32) && decide ((k.eq_.filter (fun i => (s.xfer i).team == s.curTeam)).length < 16)

/-- The value of a control register code as a number. -/
def State.ctlValue (s : State) (r : Reg) : Nat := s.onCur (fun _ st => (st.value (s.ctx []) r 0).toNat)

/-- Reads a record at issue through the BTE slot (R337, R198): its bounds and world, then its bytes as ECC gives them.
R198 lets a race give any mixture: that all rows are read at one moment is the model's (DESIGN CHOICE, log entry 36). -/
def State.readRecord (s : State) (a n : Nat) : State × Except Trap (Option (List Byte)) :=
  match s.localBad s.curTeam a n with
  | some t => (s, .error t)
  | none =>
    let c := s.localCheck s.curTeam a n
    (c.1, .ok (if c.2 then some (c.1.localRead s.curTeam a n) else none))

/-- The address of a layout pair (R103). -/
def State.pairAddr (s : State) (l : Nat) : Nat := s.curT.lrbase.toNat + 128 * l

/-- An engine command: its chain waits for the thread's earlier accesses (R187, R218); it reads `n` bytes at `a` once, is checked, then waits
until `ready` holds and the queue has a place. Behind an access of its own chain it issues, and starts once that is complete (R65). -/
def State.engine (s : State) (ok : Bool) (srcs : List Reg) (a n : State → Nat) (plan : State → List Byte → Except (Trap × Nat) EngPlan)
    (ready : State → EngPlan → Bool) : State :=
  s.withPeek { ctlUse with srcs := srcs, ok := ok, mem := true } 0 fun s _ _ =>
    if let some w := s.behindAccesses then w else
    let s := if n s = 0 then s else s.publish s.curTeam s.curSel true allDies
    let r : State × Except Trap (Option (List Byte)) := match s.keptPair (n s) with
      | some b => (s, .ok (some b))
      | none => if n s = 0 then (s, .ok (some [])) else s.readRecord (a s) (n s)
    match r.2 with
    | .error t => r.1.trapAt t [a s]
    | .ok none => r.1
    | .ok (some b) =>
      match plan r.1 b with
      | .error (t, at_) => r.1.trapAt t [at_]
      | .ok p => if ready r.1 p && r.1.queueFree then r.1.openXfer p else r.1.holdSlot b

/-! ## FETCH, PUT, COPYL, FETCHR (R336 to R344) -/

/-- Bits of a FETCHR handle that must be 0 (R344). -/
def handleOk (v : Nat) : Bool := bits v 63 56 == 0 && bits v 49 22 == 0

/-- Whether the records of a command obey R162 to R165 and the command's own rules. -/
def recordsOk (k : XKind) (r0 r1 : Lay) (x2 : Nat) : Bool :=
  r0.ok true && r1.ok false && r1.noLb &&
  (match k with
   | .fetch => if r0.indexed then r0.indexOk && r1.rowsOk else r0.code == r1.code && r0.count == r1.count
   | .copyl => r0.noLb && (if r0.indexed then r0.indexOk && r1.rowsOk else r0.code == r1.code && r0.count == r1.count)
   | .put => !r0.indexed && r0.noLb && r0.code == r1.code && r0.count == r1.count
   | _ => !r0.indexed && r0.noLb && (r0.code == 1 || r0.code == 2) && r1.code == 2 && r0.count == r1.count && handleOk x2)

/-- The bytes of a command that is charged or counted (R339, R342 to R344). -/
def commandBytes (k : XKind) (r0 r1 : Lay) : Nat :=
  if k = .fetchr then 4 * r0.count else if r0.indexed then r0.count * (16 * r1.size 0) else r0.esz * r0.count

/-- The check of a transfer command once its pair is read (R337, R340). -/
def State.planTransfer (s : State) (k : XKind) (x1 x2 lr ab win : Nat) (pair : List Byte) : Except (Trap × Nat) EngPlan :=
  let t := s.curTeam
  let b0 := pair.take 64
  let b1 := pair.drop 64
  let r0 := layOf b0
  let r1 := layOf b1
  if !recordsOk k r0 r1 x2 then .error (.illegalOperand, 0) else
  let n := commandBytes k r0 r1
  let idx := r0.indexed
  let base0 := if k = .fetchr then 0 else x2
  let e0 := if idx then extentAt x2 (r1.size 1 * (16 * r1.size 0)) else r0.extent base0
  let e1 := if idx then extentAt x1 n else r1.extent x1
  let ten := if idx then some (r0.extent r0.ibase) else none
  let low (e : Extent) : Nat := (e.1 % 2 ^ 64).toNat
  let mis : List (Bool × Nat) :=
    if idx then [(x1 % 16 != 0, low e1), (x2 % 16 != 0, low e0), (r0.ibase % 4 != 0 || !r0.aligned, low (r0.extent r0.ibase))]
    else [(base0 % r0.esz != 0 || !r0.aligned, low e0), (x1 % r1.esz != 0 || !r1.aligned, low e1)]
  match mis.find? (fun m => m.1) with
  | some m => .error (.misaligned, m.2)
  | none =>
    let loc := if k = .copyl then [(x1, e1), (x2, e0)] else [(x1, e1)]
    let far := if k = .fetch ∨ k = .put then [e0] else []
    let lmod := if k = .fetchr then bits x2 55 50 else e0.lmod
    match s.extentFault t loc far ten with
    | some f => .error f
    | none =>
      if k = .fetchr ∧ !s.reachable s.curT.port s.curT.part lmod then .error (.permission, x2)
      else .ok { kind := k, x1 := x1, x2 := x2, lr := lr, ab := ab, win := win, tl := if k = .fetchr then 2 else 0,
                 rec0 := b0, rec1 := b1, bytes := n, lmod := lmod, dest := 0 }

/-- Whether the window admits a command, if it is charged (R174). -/
def State.windowAdmits (s : State) (p : EngPlan) : Bool :=
  !(p.kind == .fetch || p.kind == .fetchr) || (s.curT.wins.getD p.win Window.blank).admits p.bytes

/-- A transfer command of the current slot. -/
def State.transfer (s : State) (k : XKind) (x y : Reg) (l : BitVec 5) (b : BitVec 4) (w : Nat) : State :=
  s.engine (decide (x.toNat ≤ 31 ∧ y.toNat ≤ 31)) [x, y] (fun s => s.pairAddr l.toNat) (fun _ => 128)
    (fun s pair => s.planTransfer k (s.ctlValue x) (s.ctlValue y) l.toNat b.toNat w pair) State.windowAdmits

/-- FETCH. -/
def execFetch (x y : Reg) (l : BitVec 5) (b : BitVec 4) (w : BitVec 3) (s : State) : Out := .next (s.transfer .fetch x y l b w.toNat)
/-- PUT. -/
def execPut (x y : Reg) (l : BitVec 5) (b : BitVec 4) (w : BitVec 3) (s : State) : Out := .next (s.transfer .put x y l b w.toNat)
/-- COPYL. -/
def execCopyl (x y : Reg) (l : BitVec 5) (b : BitVec 4) (s : State) : Out := .next (s.transfer .copyl x y l b 0)
/-- FETCHR. -/
def execFetchr (x y : Reg) (l : BitVec 5) (b : BitVec 4) (w : BitVec 3) (s : State) : Out := .next (s.transfer .fetchr x y l b w.toNat)

/-! ## ENGM (R345, R346) -/

/-- Fields of a reduction-group descriptor (R166): N, IFMT, TMO, LEN, the bases. -/
structure Desc where
  n : Nat
  ifmt : Nat
  tmo : Nat
  len : Nat
  bases : List Nat

/-- Reads a descriptor. -/
def descOf (b : List Byte) : Desc :=
  let f (a n : Nat) : Nat := ofBytes ((b.drop a).take n)
  { n := f 0 1, ifmt := f 1 1, tmo := f 4 4, len := f 8 8, bases := (List.range 64).map (fun r => f (64 + 8 * r) 8) }

/-- The element size of an input format. -/
def Desc.esz (d : Desc) : Nat := if d.ifmt = 4 then 4 else 2

/-- Whether a descriptor obeys R149 and R166. -/
def descriptorOk (b : List Byte) : Bool :=
  let d := descOf b
  decide (1 ≤ d.n ∧ d.n ≤ 64) && [4, 6, 7].contains d.ifmt && decide (1 ≤ d.tmo ∧ d.tmo ≤ 1000000) && d.len % d.esz == 0 &&
  ((b.drop 2).take 2).all (fun v => v == 0) && ((b.drop 16).take 48).all (fun v => v == 0) &&
  (d.bases.drop d.n).all (fun v => v == 0) &&
  (d.bases.take d.n).all (fun v => bits v 55 50 == bits (d.bases.headD 0) 55 50)

/-- A module command without records. -/
def enginePlan (k : XKind) (x1 x2 lr lmod dest : Nat) (b0 b1 : List Byte) : EngPlan :=
  { kind := k, x1 := x1, x2 := x2, lr := lr, ab := 15, win := 0, tl := 2, rec0 := b0, rec1 := b1, bytes := 0, lmod := lmod, dest := dest }

/-- ENGM GCREATE: the descriptor is read and checked at issue. LEN 0 is a multiple of the element size and is accepted; its
regions are then checked as one byte each (DESIGN CHOICE, log entry 46). -/
def execEngmGcreate (x y : Reg) (s : State) : Out :=
  .next (s.engine (decide (x.toNat ≤ 31 ∧ y.toNat ≤ 31)) [x] (fun s => s.ctlValue x) (fun s => if s.ctlValue x % 64 = 0 then 576 else 0)
    (fun s b =>
      let a := s.ctlValue x
      if a % 64 ≠ 0 || !descriptorOk b then .error (.illegalOperand, 0)
      else
        let d := descOf b
        match s.extentFault s.curTeam [] ((d.bases.take d.n).map (fun v => extentAt v (max 1 d.len))) none with
        | some f => .error f
        | none => .ok (enginePlan .gcreate a 0 0 (bits (d.bases.headD 0) 55 50) y.toNat b []))
    (fun _ _ => true))

/-- A command on a group named by a handle: its module must be in the map (R344, R345). -/
def State.planHandle (s : State) (k : XKind) (rank h : Nat) : Except (Trap × Nat) EngPlan :=
  let lmod := bits h 55 50
  if !s.reachable s.curT.port s.curT.part lmod then .error (.permission, h)
  else .ok (enginePlan k rank h 0 lmod 0 [] [])

/-- ENGM GREADY: its issue is a release at domain scope (R222). -/
def execEngmGready (x y : Reg) (s : State) : Out :=
  .next (s.engine (decide (x.toNat ≤ 31 ∧ y.toNat ≤ 31)) [x, y] (fun _ => 0) (fun _ => 0)
    (fun s _ => s.planHandle .gready (s.ctlValue x) (s.ctlValue y))
    (fun s _ => s.releasableTo .domain))

/-- ENGM GDESTROY. -/
def execEngmGdestroy (y : Reg) (s : State) : Out :=
  .next (s.engine (decide (y.toNat ≤ 31)) [y] (fun _ => 0) (fun _ => 0) (fun s _ => s.planHandle .gdestroy 0 (s.ctlValue y)) (fun _ _ => true))

/-- ENGM FILL: record 1 direct, with elements of 4 bytes; record 0 is not read. -/
def execEngmFill (x y : Reg) (l : BitVec 5) (s : State) : Out :=
  .next (s.engine (decide (x.toNat ≤ 31 ∧ y.toNat ≤ 31)) [x, y] (fun s => s.pairAddr l.toNat + 64) (fun _ => 64)
    (fun s b =>
      let r1 := layOf b
      let x2 := s.ctlValue y
      if !(r1.ok false && r1.noLb && r1.code == 2) then .error (.illegalOperand, 0)
      else match s.extentFault s.curTeam [] [r1.extent x2] none with
        | some f => .error f
        | none => .ok (enginePlan .fill (s.ctlValue x) x2 l.toNat (r1.extent x2).lmod 0 [] b))
    (fun _ _ => true))

/-- Whether an extent lies whole in one logical module (R123, R124). -/
def Extent.inModule (e : Extent) : Bool := decide (0 ≤ e.1 ∧ e.2 < 2 ^ 56) && e.1 / 2 ^ 50 == e.2 / 2 ^ 50

/-- ENGM COPYF: both records direct, their extents in one logical module (log entry 22). -/
def execEngmCopyf (x y : Reg) (l : BitVec 5) (s : State) : Out :=
  .next (s.engine (decide (x.toNat ≤ 31 ∧ y.toNat ≤ 31)) [x, y] (fun s => s.pairAddr l.toNat) (fun _ => 128)
    (fun s b =>
      let r0 := layOf (b.take 64)
      let r1 := layOf (b.drop 64)
      let x1 := s.ctlValue x
      let x2 := s.ctlValue y
      let e0 := r0.extent x1
      let e1 := r1.extent x2
      if !recordsOk .put r0 r1 0 || (e0.inModule && e1.inModule && e0.lmod != e1.lmod) then .error (.illegalOperand, 0)
      else match s.extentFault s.curTeam [] [e0, e1] none with
        | some f => .error f
        | none => .ok (enginePlan .copyf x1 x2 l.toNat e1.lmod 0 (b.take 64) (b.drop 64)))
    (fun _ _ => true))

/-! ## Windows, barriers and waits (R347 to R350) -/

/-- WINCFG. -/
def execWincfg (x : Reg) (k : BitVec 2) (w : BitVec 3) (s : State) : Out :=
  .next (s.withUse { ctlUse with srcs := [x] } 0 fun s _ =>
    let v := s.ctlValue x
    if 0x100000 < v then s.trap .illegalOperand else
    let t := s.curT
    let old := t.wins.getD w.toNat Window.blank
    (s.setTeam s.curTeam { t with wins := setAt t.wins w.toNat { old with allow := v, cls := k.toNat, err := false } }).done)

/-- ABINIT: X2 is `zero`, code 38, for no counter. -/
def execAbinit (x y : Reg) (b : BitVec 4) (s : State) : Out :=
  .next (s.withUse { ctlUse with srcs := [x, y] } 0 fun s _ =>
    let e := s.ctlValue x
    let c := if y = 38 then none else some (s.ctlValue y)
    if 2 ^ 32 ≤ e ∨ c.any (fun k => 255 < k) then s.trap .illegalOperand else
    let t := s.curT
    let a : Barrier := { state := if e = 0 then .fired else .armed, expect := e, count := 0, depc := c, err := false, ovr := false, view := View.none }
    let s := s.setTeam s.curTeam { t with abs := setAt t.abs b.toNat a }
    (if e = 0 then s.barrierFired s.curTeam a else s).done)

/-- WAITA: held while the barrier is ARMED; its completion acquires the counted bytes (R219). -/
def execWaita (p : BitVec 6) (b : BitVec 4) (s : State) : Out :=
  .next (s.withUse { ctlUse with ok := decide (1 ≤ p.toNat ∧ p.toNat ≤ 31), mem := true } 0 fun s _ =>
    let a := s.curT.abs.getD b.toNat Barrier.blank
    match a.state with
    | .idle => s.trap .illegalOperand
    | .armed => s.holdSlot []
    | .fired =>
      if a.ovr then s.trap .abOverrun
      else
        let clk := s.clkOf s.curTeam
        (s.modCur (fun _ st =>
          let st1 := st.setp clk .E p.toNat (valsOf st.n st.ex (fun _ => !a.err))
          { st1 with view := st1.view.join a.view })).done)

/-- What WAITT acquires (R219): the writes of the commands numbered n or below. -/
def State.tlView (s : State) (t k n : Nat) : View :=
  s.xfers.foldl (fun v e => if e.2.team == t && e.2.tl == k && e.2.num ≤ n && e.2.done then v.join e.2.view else v) View.none

/-- WAITT: held until DONE reaches the target. -/
def execWaitt (x y : Reg) (t : BitVec 2) (s : State) : Out :=
  let k := t.toNat
  .next (s.withUse { ctlUse with srcs := [x], ok := (y.toNat ≤ 31 || y == 38) && k != 3, mem := true } 0 fun s _ =>
    let n := s.ctlValue x
    let l := s.curT.tls.getD k Timeline.blank
    if l.issued < n then s.trap .illegalOperand
    else if l.done < n then s.holdSlot []
    else
      let hit := l.failNo ≠ 0 ∧ l.failNo ≤ n
      let v := if hit then l.failNo % 2 ^ 56 * 2 ^ 8 + l.failCode else 0
      let s := if hit then s.setTeam s.curTeam { s.curT with tls := setAt s.curT.tls k { l with failNo := 0, failCode := 0 } } else s
      let view := s.tlView s.curTeam k n
      let clk := s.clkOf s.curTeam
      (s.modCur (fun w st =>
        let d := if y = 38 then none else some (Dst.reg y.toNat)
        let st1 := st.produce clk .E d (valsOf st.n st.ex (fun _ => BitVec.ofNat w v))
        { st1 with view := st1.view.join view })).done)

/-! ## DRAIN (R220, R304) -/

/-- Whether a command writes on a path. -/
def Xfer.onPath (x : Xfer) (p : Path) : Bool :=
  let near := 0x40000000 ≤ x.x1.toNat
  match p with
  | .far => x.kind == .put
  | .near => (x.kind == .fetch || x.kind == .copyl || x.kind == .fetchr) && near
  | .scratch => (x.kind == .fetch || x.kind == .copyl || x.kind == .fetchr) && !near

/-- The commands on a path that were issued from the core of the current stream and whose issue happens before this point (R304); of its
own team none that it issued before a save (R305). -/
def State.drained (s : State) (p : Path) : List Xfer :=
  let v := s.onCur (fun _ st => st.view)
  (s.xfers.map (fun e => e.2)).filter (fun x =>
    x.core == s.curT.core && !(x.team == s.curTeam && x.saved) && decide (x.seq ≤ Map.get v.cmds x.team 0) && x.onPath p)

/-- DRAIN: held until every write on the path by the commands that it covers is performed. -/
def execDrain (p : Path) (s : State) : Out :=
  .next (s.withPeek { both with pauses := true, mem := true } 0 fun s _ _ =>
    if (s.drained p).any (fun x => !x.done) then s.holdSlot []
    else
      let v := (s.drained p).foldl (fun v x => v.join x.view) View.none
      (s.modCur (fun _ st => { st with view := st.view.join v })).done)

end Sys2Proof.Machine
end

