-- ==== Sys2Proof/Machine/Far.lean ====
section
/-! DEFINITION. Far atomics of lanes (R296 to R301) and the events that perform them and deliver their replies. -/
namespace Sys2Proof.Machine

/-- The logical module of a far address (R123). -/
def lmodOf (a : Nat) : Nat := bits a 55 50

/-- The address check of a far atomic that fails first, with the lanes that fail it (R109, R297). -/
def State.farFault (s : State) (ea : List (Nat × Nat)) : Option (Trap × List Nat) :=
  let x := s.curT
  let part := s.part x.port x.part
  let at_ (f : Nat → Bool) : List Nat := (List.range 32).map (fun l => ((ea.find? (fun e => e.1 == l && f e.2)).map (fun e => e.2)).getD 0)
  let bad (f : Nat → Bool) : Bool := ea.any (fun e => f e.2)
  let mis (a : Nat) : Bool := a % 4 != 0
  let non (a : Nat) : Bool := bits a 63 56 != 0
  let out (a : Nat) : Bool := match part.module (lmodOf a) with
    | some m => (s.planes x.port x.part m.1).isEmpty
    | none => true
  if bad mis then some (.misaligned, at_ mis)
  else if bad non then some (.noncanon, at_ non)
  else if bad out then some (.permission, at_ out)
  else none

/-- The request of the lanes that name one location. -/
def State.farReq (s : State) (op : Aop) (dest : Option Nat) (b d : Nat → Nat) (rels : List Release) (acq : Option Scope)
    (a : Nat) (lanes : List Nat) : FarReq :=
  let x := s.curT
  let g := s.grid x.grid
  let m := ((s.part x.port x.part).module (lmodOf a)).getD (0, 0)
  { team := s.curTeam, sel := s.curSel, grid := x.grid, port := x.port, part := x.part, pmod := m.1, lmod := lmodOf a,
    tenant := m.2, pasid := g.pasid, secure := s.secure s.curTeam, addr := a, aop := op,
    lanes := lanes.map (fun l => (l, b l, d l)), dest := dest, ret := dest.isSome, flag := s.onCur (fun _ st => st.setFlag),
    insn := s.onCur (fun _ st => st.accNext), pkt := s.onCur (fun _ st => st.pktNo), performed := false, vals := [],
    rels := rels, acquire := acq, seen := [], arrived := false, reserved := none }

/-- A far atomic of a stream happens before what the stream does from then on. -/
def View.noteFar (v : View) (t : Nat) (q : Sel) (i : Nat) : View := { v with fars := Map.set v.fars (streamKey t q) i }

/-- Sends one far atomic request; on a channel that is DOWN it ends the grid FAULTED (R239). -/
def State.sendFar (s : State) (f : FarReq) : State :=
  if s.isDown f.port f.part f.pmod then s.endGrid f.grid stFaulted
  else
    let i := s.nextFar
    let s1 := s.modStream f.team f.sel (fun _ st => { st with view := st.view.noteFar f.team f.sel i })
    { s1 with fars := Map.set s.fars i f, nextFar := i + 1 }.enqueue ⟨f.port, f.part, f.pmod, true⟩ (.farReq i)

/-- A far atomic of the current slot at a scope (R299, R300). -/
def State.farAtomic (s : State) (sc : Scope) (op : Aop) (d a b : Reg) (r : Ord) : State :=
  let blocks := s.onCur (fun _ st => st.blocks)
  let ok := pairSrcOk blocks a.toNat && atomicOk true blocks op d.toNat b.toNat
  s.withPeek { laneUse with srcs := if op = .load then [] else [b], keys := [], ok := ok, pauses := true, mem := true }
    (s.onCur (fun _ st => st.ex)) fun s pops qs =>
      let c := s.ctx pops
      let ea := s.onCur (fun _ st => (lanesOf st.ex st.n).map (fun l => (l, (st.pair a l).toNat)))
      match s.farFault ea with
      | some (t, at_) => s.trapAt t at_
      | none =>
        if ordRel r && !s.releasable sc then s.holdSlot [] else
        let s := qs.foldl State.pop s
        let s := if ordRel r then s.release sc [] else s
        let side := if ordRel r then [s.releaseSide sc []] else []
        let dest := s.dstReg d
        let val (x : Reg) (l : Nat) : Nat := s.onCur (fun _ st => (st.value c x l).toNat)
        let rels := side ++ s.onCur (fun _ st => st.relFences)
        let reqs := (ea.map (fun e => e.2)).eraseDups.map (fun y =>
          s.farReq op dest (val b) (val d) rels (if ordAcq r then some sc else none) y ((ea.filter (fun e => e.2 == y)).map (fun e => e.1)))
        let s := s.modCur (fun w st =>
          let st1 := match dest with | some k => st.claim (destRegs w 4 k) | none => st
          let st2 := (if dest.isSome then st1.latch 2 (copies st.n none) else st1).raise st.setFlag
          let st3 : Stream w := { st2 with
            accNext := st2.accNext + 1
            engPkt := if dest.isSome then st2.pktNo else st2.engPkt
            mOwner := if dest.isSome then (List.range st.n).map (fun l => if st.ex.getLsbD l then st.accNext else st.mOwner.getD l 0) else st.mOwner
            acqHeld := st2.acqHeld || ordAcq r }
          if dest.isSome then ((st3.setPc st.ex (nextSlot st.pc st.litNext)).setState st.ex .replyWait).leavePkt st.ex else st3)
        (reqs.foldl State.sendFar s.done)

/-- ATFP. -/
def execAtfp (o : Aop) (d a b : Reg) (r : Ord) (s : State) : Out := .next (s.farAtomic .package o d a b r)
/-- ATFD. -/
def execAtfd (o : Aop) (d a b : Reg) (r : Ord) (s : State) : Out := .next (s.farAtomic .domain o d a b r)
/-- ATFS. -/
def execAtfs (o : Aop) (d a b : Reg) (r : Ord) (s : State) : Out := .next (s.farAtomic .system o d a b r)

/-- Ends a far atomic: its flag falls with the last request of its instruction, and what its acquire holds goes on
(R68, R300). -/
def State.farDone (s : State) (i : Nat) (f : FarReq) : State :=
  let s := { s with fars := Map.erase s.fars i }
  let last := !s.fars.any (fun e => e.2.team == f.team && e.2.sel == f.sel && e.2.insn == f.insn)
  let v := match f.acquire with
    | some sc => (acquired sc [] f.team f.port f.seen).join (s.hostView f.port sc)
    | none => View.none
  (s.modStream f.team f.sel (fun _ st =>
    let st1 := if last then st.lower f.flag else st
    { st1 with view := st1.view.join v, acqReads := st1.acqReads ++ f.seen })).relax f.team f.sel

/-- Delivers a reply to a resident team: registers written, after the results that were due before (R67), lanes ready
(R33, R300). -/
def State.farDeliver (s : State) (i : Nat) (f : FarReq) : State :=
  let m := f.lanes.foldl (fun m e => m ||| (1#32 <<< e.1)) 0
  let clk := s.clkOf f.team
  let s := s.modStream f.team f.sel (fun _ st =>
    let st1 := (st.settle clk false).deliver f.insn f.pkt 4 f.dest true f.vals
    st1.setState (maskOf st1.n (fun l => m.getLsbD l && f.dest.isSome && st1.laneState l == .replyWait)) .ready)
  s.farDone i f

/-- The context in which a far atomic is translated. -/
def FarReq.ctx (f : FarReq) : FarCtx := { port := f.port, part := f.part, pasid := f.pasid, tenant := f.tenant, secure := f.secure }

/-- The fault record of a far atomic (R127, R144). -/
def FarReq.record (f : FarReq) (s : State) (i cause : Nat) (held : Bool) : FaultRec :=
  { cause := cause, source := 2, count := 0, held := if held then some (.far i) else none, pasid := f.pasid, addr := f.addr,
    grid := (s.grid f.grid).num, tid := (s.team f.team).tid, lmod := f.lmod, tl := 0, num := 0, time := 0, page := f.addr / 65536 }

/-- Performs a far atomic at its module (R299, R213): its lanes in turn; a reply goes back where there is a result. -/
def State.farPerform (s : State) (i : Nat) (f : FarReq) (pa : Nat) : State :=
  let m := f.pmod
  let x := s.mod m
  let r := atomicFold f.aop 4 (f.lanes.map (fun e => (e.1, e.2.1))) (f.lanes.map (fun e => (e.1, e.2.2))) (fun y => x.mem.num y 4)
    (f.lanes.map (fun e => (e.1, pa))) [] []
  let seen := if f.aop = .store then [] else relsAt x.rels pa 4
  let rels := r.1.foldl (fun q e => relsAfter q f.aop e.1 4 f.rels) x.rels
  let s := r.1.foldl (fun s e => s.farWrite m e.1 (bytesOf 4 e.2)) s
  let s := s.setMod m { s.mod m with rels := rels }
  let s := s.sample m f.tenant pa 2
  let f := { f with performed := true, vals := r.2, seen := seen }
  let s := { s with fars := Map.set s.fars i f }
  if f.ret then s.enqueue ⟨f.port, f.part, m, false⟩ (.farRep i)
  else if s.unacked ⟨f.port, f.part, m, true⟩ (.farReq i) then s
  else s.farDone i f

/-- Decides a far atomic at its module (R127, R301): performed; held for a translation fault; or the end of its grid. -/
def State.farDecide (s : State) (i : Nat) (f : FarReq) (w : Walk) : State :=
  let x := s.mod f.pmod
  let off := f.addr % 2 ^ 50
  let s1 := s.setMod f.pmod (x.after f.ctx off w)
  match x.judge f.ctx off (needOf f.aop) w with
  | .ok pa => (s1.freeSlot f.port f.part f.pmod).farPerform i f pa
  | .fault st => s1.record f.port f.part (f.record s i st true)
  | .world => ((s1.freeSlot f.port f.part f.pmod).record f.port f.part (f.record s i cauWorld false)).endGrid f.grid stFaulted
  | _ => ((s1.freeSlot f.port f.part f.pmod).record f.port f.part (f.record s i cauPerm false)).endGrid f.grid stFaulted

/-- FAR_ATOMIC_REQUEST: the module takes the oldest request of a channel (R213), a far atomic; one whose reservation has
been released is dropped. -/
def execFarAtomicRequest (m i : Nat) (w : Walk) (s : State) : Out :=
  match Map.find s.fars i with
  | none =>
    match (s.mod m).inbox.find? (fun e => e.2.2 == .farReq i) with
    | some e => .next ((s.takeInbox (.mod m) e).freeSlot e.1 e.2.1 m)
    | none => .next s
  | some f =>
    if f.pmod ≠ m ∨ (s.mod m).head f.port f.part ≠ some (.farReq i) then .next s
    else .next ((s.takeInbox (.mod m) (f.port, f.part, .farReq i)).farDecide i f w)

/-- FAR_ATOMIC_REPLY (R33, R55, R300): delivered to a resident team, kept in its reservation for a saved one; without a
reservation it is discarded and counted (R183). -/
def execFarAtomicReply (p i : Nat) (s : State) : Out :=
  match (s.pkg p).inbox.find? (fun e => e.2.2 == .farRep i) with
  | none => .next s
  | some e =>
    let s := s.takeInbox (.pkg p) e
    match Map.find s.fars i with
    | none => .next (s.setPart p e.2.1 ((s.part p e.2.1).count cntLate))
    | some f =>
      match (s.team f.team).place with
      | .resident => .next (s.farDeliver i f)
      | .retired => .next { s with fars := Map.erase s.fars i }
      | _ => if f.reserved.isSome then .next { s with fars := Map.erase s.fars i }
             else .next { s with fars := Map.set s.fars i { f with arrived := true } }

/-- Whether a far atomic is held at its module behind a record (R127). -/
def State.farHeld (s : State) (i : Nat) (f : FarReq) : Bool :=
  let x := s.part f.port f.part
  let same (r : FaultRec) : Bool := r.held == some (.far i)
  x.fqWait.any same || x.fqRecs.any (fun e => same e.2)

/-- RESERVATION_RELEASE (R55, R361): 48 µs after the teardown of its context began, a reservation is released. -/
def execReservationRelease (i : Nat) (s : State) : Out :=
  match Map.find s.fars i with
  | none => .next s
  | some f =>
    match f.reserved with
    | some t0 =>
      if s.now < t0 + 48000 then .next s
      else
        let s1 := if s.farHeld i f then s.freeSlot f.port f.part f.pmod else s
        .next { s1 with fars := Map.erase s1.fars i }
    | none => .next s

end Sys2Proof.Machine
end

