-- ==== Sys2Proof/Machine/ModuleWork.lean ====
section
/-! DEFINITION. What a module does for engine commands: translation of their elements and what a failure does (R127),
reading and writing chunks, reductions (R240, R241), module engine commands (R345, R346), token buckets (R168, R230). -/
namespace Sys2Proof.Machine

/-! ## Translation of the elements of a command -/

/-- The context of a command at its module. -/
def Xfer.ctx (x : Xfer) : FarCtx := { port := x.port, part := x.part, pasid := x.pasid, tenant := x.tenant, secure := x.secure }

/-- The 64 KiB units of some far addresses, in order. -/
def unitsOf (l : List Nat) : List Nat := (l.map (fun a => a / 65536)).eraseDups

/-- Decides each unit (R127); every translation is cached. -/
def State.verdicts (s : State) (m : Nat) (c : FarCtx) (need : Need) (how : Walk) (units : List Nat) : State × Map Verdict :=
  let off (u : Nat) : Nat := u * 65536 % 2 ^ 50
  (s.setMod m (units.foldl (fun x u => x.after c (off u) how) (s.mod m)),
   units.map (fun u => (u, (s.mod m).judge c (off u) need how)))

/-- The physical address of a far address, by the verdict on its unit. -/
def physOf (v : Map Verdict) (a : Nat) : Nat :=
  match Map.find v (a / 65536) with
  | some (.ok pa) => pa + a % 65536
  | _ => 0

/-- The pieces of `n` bytes from a far address on, cut at units: address and length. -/
def unitPieces (a n : Nat) : List (Nat × Nat) :=
  let k := (a / 65536 + 1) * 65536 - a
  if n ≤ k then [(a, n)] else [(a, k), (a + k, n - k)]

/-- The units of some elements of `n` bytes. -/
def unitsOfElements (l : List Nat) (n : Nat) : List Nat := unitsOf (l.flatMap (fun a => (unitPieces a n).map (fun p => p.1)))

/-- The bytes of an element in far memory, by the verdicts on its units. -/
def readFar (mem : Memory) (v : Map Verdict) (a n : Nat) : List Byte := (unitPieces a n).flatMap (fun p => mem.readN (physOf v p.1) p.2)

/-- What the verdicts come to: every unit may be accessed; the command is refused; or it faults on some units. -/
inductive Judged
  | ok
  | refused (v : Verdict) (unit : Nat)
  | faults (l : List (Nat × Nat))

/-- The judgement of some verdicts, in the order of R127: a revoked PASID, translation faults, permission, world. (An invalid tenant
makes every verdict one of permission, and leaves no fault beside it.) -/
def judged (v : Map Verdict) : Judged :=
  let first (k : Verdict) : Option (Nat × Verdict) := v.find? (fun e => e.2 == k)
  let l := v.filterMap (fun e => match e.2 with | .fault st => some (e.1, st) | _ => none)
  match first .revoked with
  | some e => .refused e.2 e.1
  | none =>
    if !l.isEmpty then .faults l
    else match (first .perm).or (first .world) with
      | some e => .refused e.2 e.1
      | none => .ok

/-- The first address in a unit that an access of some elements touches. -/
def firstIn (l : List Nat) (n unit : Nat) : Nat :=
  ((l.flatMap (fun a => (unitPieces a n).map (fun p => p.1))).find? (fun a => a / 65536 = unit)).getD (unit * 65536)

/-- The fault record of a command (R144): a page is named by its 64 KiB unit (log entry 10). -/
def State.commandRecord (s : State) (i cause addr : Nat) (held : Bool) : FaultRec :=
  let x := s.xfer i
  { cause := cause, source := 1, count := 0, held := if held then some (.command i) else none, pasid := x.pasid, addr := addr,
    grid := (s.grid x.grid).num, tid := (s.team x.team).tid, lmod := x.lmod, tl := x.tl, num := x.num, time := 0,
    page := addr / 65536 }

/-- Holds some chunks of a command behind a faulting page, with one record for the page, which names the address of the access
(R127, R144). -/
def State.holdUnit (s : State) (i unit stage addr : Nat) (chunks : List Nat) : State :=
  let x := s.xfer i
  let p := s.part x.port x.part
  let same (r : FaultRec) : Bool := r.held == some (.command i) && r.page == unit
  let s := s.setXfer i { x with held := x.held ++ chunks.map (fun j => (j, unit)), todo := x.todo.filter (fun j => !chunks.contains j) }
  if p.fqWait.any same || p.fqRecs.any (fun e => same e.2) then s
  else s.record x.port x.part (s.commandRecord i stage addr true)

/-- The status that a refusal gives (R127, R338). -/
def Verdict.status : Verdict → Nat
  | .revoked => xsRevoked
  | _ => xsPermission

/-- Sends the answer of a module to a command (R388). -/
def State.answer (s : State) (i st : Nat) (handle : DWord) : State :=
  let x := s.xfer i
  (s.setXfer i { x with status := some st }).enqueue ⟨x.port, x.part, x.pmod, false⟩ (.engmDone i st handle)

/-- Whether a message carries work or data of a command. -/
def Msg.ofCommand (i : Nat) : Msg → Bool
  | .data y _ _ _ _ => y == i
  | .readReq y => y == i
  | .engm y => y == i
  | _ => false

/-- The time of a group runs on once no FETCHR of it is held behind a fault (R241). -/
def State.groupGoes (s : State) (m k : Nat) : State :=
  let x := s.mod m
  let held := s.xfers.any (fun e => e.2.kind == .fetchr && e.2.pmod == m && e.2.x2.toNat % 65536 == k && !e.2.done && !e.2.held.isEmpty)
  match Map.find x.groups k with
  | some g =>
    match g.stopped with
    | some t =>
      let g1 : Group := { g with born := g.born + (s.now - t), stopped := none }
      if held then s else s.setMod m { x with groups := Map.set x.groups k g1 }
    | none => s
  | none => s

/-- Drops what waits of a command at its module; the ingress slots are free again. -/
def State.dropWaits (s : State) (i : Nat) : State :=
  let x := s.xfer i
  let m := s.mod x.pmod
  let gone := m.waiting.filter (fun e => e.2.2.ofCommand i)
  let s := s.setMod x.pmod { m with waiting := m.waiting.filter (fun e => !e.2.2.ofCommand i) }
  let s := gone.foldl (fun s e => s.freeSlot e.1 e.2.1 x.pmod) s
  if x.kind = .fetchr then s.groupGoes x.pmod (x.x2.toNat % 65536) else s

/-- Refuses a command at its module: one record for its first violation, at the far address of the access, then its status (R127,
R144). -/
def State.refuseXfer (s : State) (i : Nat) (v : Verdict) (addr : Nat) : State :=
  let x := s.xfer i
  if x.status.isSome ∨ x.done then s else
  let s := match v with
    | .revoked => s
    | .world => s.record x.port x.part (s.commandRecord i cauWorld addr false)
    | _ => s.record x.port x.part (s.commandRecord i cauPerm addr false)
  ((s.setXfer i { x with todo := [], held := [] }).dropWaits i).answer i v.status 0

/-! ## Token buckets (R168, R230) -/

/-- BUCKET_REFILL (R150, R168): at a 1 µs boundary, what was written to the buckets and the world map takes effect and every
level rises. -/
def execBucketRefill (m : Nat) (s : State) : Out :=
  let x := s.mod m
  if s.now < x.refillAt + 1000 then .next s else
  .next (s.setMod m { x with
    refillAt := x.refillAt + 1000
    wmAct := x.wmbase
    wmMem := x.mem
    buckets := x.buckets.map (fun e =>
      (e.1, { e.2 with rate := e.2.newRate, burst := e.2.newBurst, port := e.2.newPort, part := e.2.newPart, flags := e.2.newFlags,
                       level := min (e.2.level + e.2.newRate) e.2.newBurst })) })

/-! ## Chunks at the module (R224, R226, R230, R235) -/

/-- The far addresses of chunk j. -/
def Xfer.chunkAddrs (x : Xfer) (j : Nat) : List Nat := (x.elementsOf (256 * j) (x.chunkLen j)).map x.farAddr

/-- Whether a page of a command stands in a record of the fault queue that is held (R127). -/
def Xfer.pageHeld (x : Xfer) (unit : Nat) : Bool := x.held.any (fun h => h.2 == unit)

/-- Sets chunk j of a command aside behind every page it faults on, and behind every page of it that a record already holds, or
refuses the command; answers whether it may go on, with the verdicts. -/
def State.judgeChunk (s : State) (i j : Nat) (need : Need) (how : Walk) : State × Option (Map Verdict) :=
  let x := s.xfer i
  let as := x.chunkAddrs j
  let r := s.verdicts x.pmod x.ctx need how (unitsOf as)
  match judged (r.2.map (fun e => if x.pageHeld e.1 then (e.1, Verdict.fault cauTrans1) else e)) with
  | .ok => (r.1, some r.2)
  | .refused v u => (r.1.refuseXfer i v (firstIn as x.esize u), none)
  | .faults l => (l.foldl (fun s f => s.holdUnit i f.1 f.2 (firstIn as x.esize f.1) [j]) r.1, none)

/-- Reads chunk j of a fetch at the module: its bytes, sampled once (log entry 11). -/
def State.readChunk (s : State) (i j : Nat) : State × Option (List Byte) :=
  let x := s.xfer i
  if x.kind = .fetchr then
    (s, some ((x.vals.drop (64 * j)).take (x.chunkLen j / 4) |>.flatMap (bytesOf 4)))
  else
    let r := s.judgeChunk i j .read .cached
    match r.2 with
    | none => (r.1, none)
    | some v =>
      let pas := (x.chunkAddrs j).map (physOf v)
      (r.1.sample x.pmod x.tenant (pas.headD 0) 0, some (pas.flatMap (fun a => (r.1.mod x.pmod).mem.readN a x.esize)))

/-- Counts a chunk of a PUT that is performed and acknowledged (R176, R182, R219): its meter also where the PUT has ended. -/
def State.countPut (s : State) (i j : Nat) : State :=
  let x := s.xfer i
  if !x.landed.contains j then s else
  let n := x.chunkLen j
  let s := s.meter x.port x.part (71 + x.pmod) n
  if x.done then s else
  let s := (s.account i n false View.none).settleXfer i
  s.kick (s.team x.team).core

/-- Whether a data chunk is still in the retry buffer of its channel. -/
def State.dataUnacked (s : State) (i j : Nat) : Bool :=
  let x := s.xfer i
  (s.link ⟨x.port, x.part, x.pmod, true⟩).retry.any (fun e => match e.2 with | .data y k _ _ _ => y == i && k == j | _ => false)

/-- Performs a chunk of a PUT at its module, or sets it aside (R127, R235); answers whether its ingress slot is free again. -/
def State.performPut (s : State) (i j : Nat) (b : List Byte) (how : Walk) : State × Bool :=
  let x := s.xfer i
  if x.done ∨ x.status.isSome then (s, true) else
  let r := s.judgeChunk i j .write how
  match r.2 with
  | some v =>
    let es := x.chunkAddrs j
    let s := (es.mapIdx (fun k a => (k, a))).foldl (fun s e => s.farWrite x.pmod (physOf v e.2) ((b.drop (e.1 * x.esize)).take x.esize)) r.1
    let s := s.sample x.pmod x.tenant (physOf v (es.headD 0)) 1
    let s := s.setXfer i { s.xfer i with landed := x.landed ++ [j] }
    (if s.dataUnacked i j then s else s.countPut i j, true)
  | none =>
    if (r.1.xfer i).held.any (fun h => h.1 = j) then
      (r.1.setMod x.pmod { r.1.mod x.pmod with waiting := (r.1.mod x.pmod).waiting ++ [(x.port, x.part, .data i j b none none)] }, false)
    else (r.1, true)

/-! ## Reduction groups (R166, R240, R241, R346) -/

/-- A waiting request of a command leaves the module's list. -/
def State.unwait (s : State) (m i : Nat) : State :=
  let x := s.mod m
  let y := s.xfer i
  (s.setMod m { x with waiting := x.waiting.filter (fun e => match e.2.2 with | .readReq y => y != i | .engm y => y != i | _ => true) }).freeSlot
    y.port y.part m

/-- Whether a message of a command waits at its module. -/
def Module.waits (x : Module) (msg : Msg) : Bool := x.waiting.any (fun e => e.2.2 == msg)

/-- The FETCHRs that wait at a module for a group. -/
def State.waitingOn (s : State) (m g : Nat) : List Nat :=
  (s.mod m).waiting.filterMap (fun e => match e.2.2 with
    | .readReq i => if (s.xfer i).kind = .fetchr ∧ (s.xfer i).x2.toNat % 65536 = g then some i else none
    | _ => none)

/-- The FETCHRs on a group that a module has begun to send and has still chunks of. -/
def State.sendingOn (s : State) (m g : Nat) : List Nat :=
  (s.xfers.filter (fun e => e.2.kind == .fetchr && e.2.pmod == m && e.2.x2.toNat % 65536 == g && e.2.atSource && !e.2.done && e.2.status.isNone &&
    !e.2.todo.isEmpty)).map (fun e => e.1)

/-- Puts a group in error: every FETCHR on it, waiting or with chunks still to send, ends PEER_ABSENT (R241, R344). -/
def State.groupError (s : State) (m g : Nat) : State :=
  let x := s.mod m
  let s := match Map.find x.groups g with
    | some y => s.setMod m { x with groups := Map.set x.groups g { y with err := true } }
    | none => s
  let s := (s.waitingOn m g).foldl (fun s i => (s.unwait m i).answer i xsPeer 0) s
  (s.sendingOn m g).foldl (fun s i => (s.setXfer i { s.xfer i with todo := [], held := [] }).answer i xsPeer 0) s

/-- GROUP_TIMEOUT (R241): a member is not ready TMO µs after creation; the time does not run while a fault is held. -/
def execGroupTimeout (m g : Nat) (s : State) : Out :=
  match Map.find (s.mod m).groups g with
  | none => .next s
  | some y =>
    if y.err ∨ y.stopped.isSome ∨ y.ready.length = y.n ∨ s.now < y.born + 1000 * y.tmo then .next s
    else .next (s.groupError m g)

/-- The float format of an input format code, and its size. -/
def groupFmt (code : Nat) : FFmt × Nat := if code = 4 then (fF32, 4) else if code = 6 then (fF16, 2) else (fBf16, 2)

/-- The extent that a command writes in far memory (R222). -/
def Xfer.farWrites (x : Xfer) : List Extent :=
  if x.kind = .fill ∨ x.kind = .copyf then [x.r1.extent x.x2.toNat] else []

/-- Whether an earlier module command of the team still has to write into some extents (R222). -/
def State.behindWrite (s : State) (i : Nat) (es : List Extent) : Bool :=
  let x := s.xfer i
  s.xfers.any (fun e => e.2.team == x.team && e.2.pmod == x.pmod && e.2.tl == 2 && e.2.num < x.num && !e.2.done && e.2.status.isNone &&
    e.2.farWrites.any (fun w => es.any w.meets))

/-- Moves a message of a command from the inbox of its module to its waiting list. -/
def State.setAside (s : State) (i : Nat) (msg : Msg) : State :=
  let x := s.xfer i
  let m := s.mod x.pmod
  if m.waits msg then s
  else
    let e := (x.port, x.part, msg)
    s.setMod x.pmod { m with inbox := m.inbox.erase e, waiting := m.waiting ++ [e] }

/-- Takes a message of a command out of its module. -/
def State.takeWork (s : State) (i : Nat) (msg : Msg) : State :=
  let x := s.xfer i
  let m := s.mod x.pmod
  let e := (x.port, x.part, msg)
  if m.inbox.contains e || m.waits msg then
    (s.setMod x.pmod { m with inbox := m.inbox.erase e, waiting := m.waiting.erase e }).freeSlot x.port x.part x.pmod
  else s

/-- Whether a message of a command may be performed: it is the channel's oldest request, or it waits (R213). -/
def State.workReady (s : State) (m i : Nat) (msg : Msg) : Bool :=
  let x := s.xfer i
  x.pmod == m && ((s.mod m).head x.port x.part == some msg || (s.mod m).waits msg)

/-- Holds a whole command behind every page it faults on; `at_` gives the address of the access in a page. -/
def State.holdCommand (s : State) (i : Nat) (msg : Msg) (l : List (Nat × Nat)) (at_ : Nat → Nat) : State :=
  l.foldl (fun s f => s.holdUnit i f.1 f.2 (at_ f.1) [0]) (s.setAside i msg)

/-- The value of one result element (R240). -/
def reduceAt (mem : Memory) (v : Map Verdict) (f : FFmt × Nat) (as : List Nat) : Nat :=
  (treeSum 7 0 as.length (as.map (fun a => some (fF32.near (f.1.val (ofBytes (readFar mem v a f.2))))))).getD 0

/-- A FETCHR whose group is ready and whose region nobody still writes: it reads the members (R344). An offset below 0, which a negative
STRIDE gives, is dropped as one past LEN is, and the size of an element is that of the group's IFMT also where record 0 has the other one
(DESIGN CHOICE, log entry 46: R344 names neither case). -/
def State.reduceGroup (s : State) (i : Nat) (g : Group) (how : Walk) : State :=
  let x := s.xfer i
  let f := groupFmt g.ifmt
  let off (n : Nat) : Int := x.r0.offset n
  let keep := x.allElements.filter (fun n => decide (0 ≤ off n ∧ off n + f.2 ≤ g.len))
  let addrs (n : Nat) : List Nat := (g.bases.take g.n).map (fun b => b + (off n).toNat)
  let as := keep.flatMap addrs
  let r := s.verdicts x.pmod x.ctx .read how (unitsOfElements as f.2)
  match judged r.2 with
  | .refused v u => (r.1.takeWork i (.readReq i)).refuseXfer i v (firstIn as f.2 u)
  | .faults l =>
    let s := r.1.holdCommand i (.readReq i) l (firstIn as f.2)
    let m := s.mod x.pmod
    let k := x.x2.toNat % 65536
    s.setMod x.pmod { m with groups := Map.set m.groups k { g with stopped := some (g.stopped.getD s.now) } }
  | .ok =>
    let mem := (r.1.mod x.pmod).mem
    let vals := keep.map (fun n => reduceAt mem r.2 f (addrs n))
    let drops := x.r0.count - keep.length
    let s := (r.1.takeWork i (.readReq i)).sample x.pmod x.tenant (physOf r.2 ((g.bases.headD 0))) 3
    let y := { x with sent := keep, vals := vals, atSource := true, pend := if drops = 0 then xsOk else xsIndex,
                      view := x.view.join (acquired .domain [] x.team x.port g.rels) }
    let s := s.setXfer i { y with todo := List.range y.chunks }
    if drops = 0 then s else ((s.dropEach i 4 drops).settleXfer i).kick (s.team x.team).core

/-- The far address in the record of a command that its module refuses for its tenant (R144): of the first element that it would access;
a GCREATE's is the first base, a FETCHR's that of the first member. GREADY and GDESTROY, and a FETCHR on no group, access no memory:
their record holds a free value there (DESIGN CHOICE, log entry 7). -/
def State.refusedAddr (s : State) (i : Nat) : State × Nat :=
  let x := s.xfer i
  let first (r : Lay) (b : Nat) : Nat := ((b : Int) + r.offset 0).toNat
  let free : State × Nat :=
    ({ s with freeCount := s.freeCount + 8 }, ofBytes ((List.range 8).map (fun i => Config.freeByte (s.freeCount + i))))
  match x.kind with
  | .gcreate => (s, ofBytes ((x.rec0.drop 64).take 8))
  | .gready => free
  | .gdestroy => free
  | .fetchr => match Map.find (s.mod x.pmod).groups (x.x2.toNat % 65536) with
    | some g => (s, first x.r0 (g.bases.headD 0))
    | none => free
  | .copyf => (s, first x.r0 x.x1.toNat)
  | _ => (s, first x.r1 x.x2.toNat)

/-- A FETCHR at its module (R222, R241, R344, R346). -/
def State.fetchrWork (s : State) (i : Nat) (how : Walk) : State :=
  let x := s.xfer i
  let h := x.x2.toNat
  let k := h % 65536
  let m := x.pmod
  let fail (st : Nat) : State := (s.takeWork i (.readReq i)).answer i st 0
  if (s.mod m).revoked.contains (x.port, x.part, x.pasid) then fail xsRevoked
  else if !(s.mod m).tenantOk x.tenant then let r := (s.takeWork i (.readReq i)).refusedAddr i; r.1.refuseXfer i .perm r.2 else
  match Map.find (s.mod m).groups k with
  | none => fail xsPeer
  | some g =>
    if g.pasid ≠ x.pasid then fail xsPermission
    else if g.n ≤ bits h 21 16 then ((s.takeWork i (.readReq i)).groupError m k).answer i xsPeer 0
    else if g.err then fail xsPeer
    else if g.ready.length < g.n ∨ s.behindWrite i ((g.bases.take g.n).map (fun b => extentAt b g.len)) then s.setAside i (.readReq i)
    else s.reduceGroup i g how

/-- MODULE_READ_REQUEST (R226, R233): the module begins to send a fetch, its pages walked as they come; a FETCHR waits for its
group; a re-armed fetch goes on without a prefix. -/
def execModuleReadRequest (m i : Nat) (w : Walk) (s : State) : Out :=
  let x := s.xfer i
  if (s.mod m).head x.port x.part == some (.rearm i 0) && x.pmod == m then
    let s := s.takeWork i (.rearm i 0)
    .next (if x.done then s else s.setXfer i { x with atSource := true, rearmed := true })
  else if !s.workReady m i (.readReq i) then .next s
  else if x.done then .next (s.takeWork i (.readReq i))
  else if x.kind = .fetchr then .next (s.fetchrWork i w)
  else
    let s := (s.takeWork i (.readReq i)).setXfer i { x with atSource := true }
    .next (x.todo.foldl (fun s j => if (s.xfer i).status.isSome then s else (s.judgeChunk i j .read w).1) s)

/-! ## Module engine commands (R345, R346) -/

/-- The first free group number: which free number a module takes is its own choice (log entry 23). -/
def Module.freeGroup (x : Module) : Option Nat := (List.range 1024).find? (fun k => (Map.find x.groups k).isNone)

/-- GCREATE at its module. -/
def State.groupCreate (s : State) (i : Nat) : State :=
  let x := s.xfer i
  let m := s.mod x.pmod
  let d (a n : Nat) : Nat := ofBytes ((x.rec0.drop a).take n)
  match m.freeGroup with
  | none => s.answer i xsPeer 0
  | some k =>
    let g : Group :=
      { port := x.port, part := x.part, pasid := x.pasid, n := d 0 1, ifmt := d 1 1, tmo := d 4 4, len := d 8 8,
        bases := (List.range 64).map (fun r => d (64 + 8 * r) 8), ready := [], born := s.now, err := false, stopped := none, rels := [] }
    (s.setMod x.pmod { m with groups := Map.set m.groups k g }).answer i xsOk (BitVec.ofNat 64 (x.lmod * 2 ^ 50 + k))

/-- GREADY and GDESTROY at their module: a handle must name a live group of the same PASID (R346). -/
def State.groupCommand (s : State) (i : Nat) : State :=
  let x := s.xfer i
  let h := x.x2.toNat
  let k := h % 65536
  let m := s.mod x.pmod
  match (if bits h 63 56 = 0 ∧ bits h 49 16 = 0 then Map.find m.groups k else none) with
  | none => s.answer i xsPeer 0
  | some g =>
    if g.pasid ≠ x.pasid then s.answer i xsPermission 0
    else if x.kind = .gdestroy then
      let s := s.groupError x.pmod k
      (s.setMod x.pmod { s.mod x.pmod with groups := Map.erase (s.mod x.pmod).groups k }).answer i xsOk 0
    else if g.n ≤ x.x1.toNat then (s.groupError x.pmod k).answer i xsPeer 0
    else
      let g1 : Group := if g.ready.contains x.x1.toNat then g else { g with ready := g.ready ++ [x.x1.toNat], rels := g.rels ++ x.rels }
      (s.setMod x.pmod { m with groups := Map.set m.groups k g1 }).answer i xsOk 0

/-- FILL and COPYF at their module: every element is translated before any is written; then in enumeration order, each
element read after the earlier ones are written. -/
def State.fillCopy (s : State) (i : Nat) (how : Walk) : State :=
  let x := s.xfer i
  let n := if x.kind = .fill then x.r1.count else x.r0.count
  let e := x.r1.esz
  let dst (k : Nat) : Nat := ((x.x2.toNat : Int) + x.r1.offset k).toNat
  let src (k : Nat) : Nat := ((x.x1.toNat : Int) + x.r0.offset k).toNat
  let copy := x.kind == .copyf
  let at_ := firstIn ((if copy then (List.range n).map src else []) ++ (List.range n).map dst) e
  let a := s.verdicts x.pmod x.ctx .read how (if copy then unitsOfElements ((List.range n).map src) e else [])
  let b := a.1.verdicts x.pmod x.ctx .write how (unitsOfElements ((List.range n).map dst) e)
  match judged (a.2 ++ b.2) with
  | .refused v u => (b.1.takeWork i (.engm i)).refuseXfer i v (at_ u)
  | .faults l => b.1.holdCommand i (.engm i) l at_
  | .ok =>
    let s := (List.range n).foldl (fun s k =>
      let v := if copy then readFar (s.mod x.pmod).mem a.2 (src k) e else bytesOf 4 x.x1.toNat
      (unitPieces (dst k) e).foldl (fun s p => s.farWrite x.pmod (physOf b.2 p.1) ((v.drop (p.1 - dst k)).take p.2)) s)
      (b.1.takeWork i (.engm i))
    (s.sample x.pmod x.tenant (physOf b.2 (dst 0)) 3).answer i xsOk 0

/-- A module engine command. -/
def State.engmWork (s : State) (i : Nat) (how : Walk) : State :=
  let x := s.xfer i
  let m := s.mod x.pmod
  if m.revoked.contains (x.port, x.part, x.pasid) then (s.takeWork i (.engm i)).answer i xsRevoked 0
  else if !m.tenantOk x.tenant then let r := (s.takeWork i (.engm i)).refusedAddr i; r.1.refuseXfer i .perm r.2
  else match x.kind with
    | .gcreate => (s.takeWork i (.engm i)).groupCreate i
    | .gready => (s.takeWork i (.engm i)).groupCommand i
    | .gdestroy => (s.takeWork i (.engm i)).groupCommand i
    | _ =>
      let reads := if x.kind = .copyf then [x.r0.extent x.x1.toNat] else []
      if s.behindWrite i (reads ++ x.farWrites) then s.setAside i (.engm i) else s.fillCopy i how

/-- MODULE_ENGINE_COMMAND: an ENGM is performed at its module. -/
def execModuleEngineCommand (m i : Nat) (w : Walk) (s : State) : Out :=
  let x := s.xfer i
  if !s.workReady m i (.engm i) then .next s
  else if x.done then .next (s.takeWork i (.engm i))
  else .next (s.engmWork i w)

/-- Writes the handle of a GCREATE into its register, unless a later slot of its packet wrote it (R67, R346), or its handler is
gone (R327). -/
def State.writeHandle (s : State) (i : Nat) (h : DWord) : State :=
  let x := s.xfer i
  s.modStream x.team .ctl (fun _ st => st.deliver x.insn x.pkt 8 (if x.dest ≤ 31 then some x.dest else none) false [(0, h.toNat)])

/-- MODULE_ENGINE_COMPLETION: the module's answer reaches the package; GCREATE writes its handle. -/
def execModuleEngineCompletion (p i : Nat) (s : State) : Out :=
  match (s.pkg p).inbox.find? (fun e => match e.2.2 with | .engmDone y _ _ => y == i | _ => false) with
  | some e =>
    let s := s.takeInbox (.pkg p) e
    match e.2.2 with
    | .engmDone _ st h =>
      let x := s.xfer i
      if x.done then .next s
      else .next ((if x.kind = .gcreate then s.writeHandle i h else s).finishXfer i st)
    | _ => .next s
  | none => .next s

/-! ## Replays (R127, R145) -/

/-- Lets go on what waited behind a page of a command. -/
def State.resumeUnit (s : State) (i unit : Nat) (how : Walk) : State :=
  let x := s.xfer i
  let rest := x.held.filter (fun h => h.2 != unit)
  let mine := ((x.held.filter (fun h => h.2 = unit)).map (fun h => h.1)).filter (fun j => !rest.any (fun h => h.1 == j))
  let x1 := { x with held := rest }
  match x.kind with
  | .fetch => s.setXfer i { x1 with todo := mine ++ x1.todo }
  | .put =>
    let m := s.mod x.pmod
    let isMine (e : Nat × Nat × Msg) : Bool := match e.2.2 with | .data y j _ _ _ => y == i && mine.contains j | _ => false
    let s := (s.setXfer i x1).setMod x.pmod { m with waiting := m.waiting.filter (fun e => !isMine e) }
    (m.waiting.filter isMine).foldl (fun s e => match e.2.2 with
      | .data _ j b _ _ =>
        let r := s.performPut i j b how
        if r.2 then r.1.freeSlot x.port x.part x.pmod else r.1
      | _ => s) s
  | .fetchr =>
    let s := s.setXfer i x1
    if x1.held.isEmpty then
      let s := s.groupGoes x.pmod (x.x2.toNat % 65536)
      s.fetchrWork i how
    else s
  | _ =>
    let s := s.setXfer i x1
    if x1.held.isEmpty then s.engmWork i how else s

/-- Whether a command writes to a unit of far memory. -/
def Xfer.writesUnit (x : Xfer) (unit : Nat) : Bool :=
  match x.kind with
  | .put => true
  | .fill => true
  | .copyf => (unitsOfElements ((List.range x.r1.count).map (fun n => ((x.x2.toNat : Int) + x.r1.offset n).toNat)) x.r1.esz).contains unit
  | _ => false

/-- The verdict on a page that a command faulted on. -/
def State.unitVerdict (s : State) (i unit : Nat) (how : Walk) : Verdict :=
  let x := s.xfer i
  (s.mod x.pmod).judge x.ctx (unit * 65536 % 2 ^ 50) (if x.writesUnit unit then .write else .read) how

end Sys2Proof.Machine
end

