-- ==== Sys2Proof/Machine/Grants.lean ====
section
/-! DEFINITION. Grant request tables, requests to send and pull tokens (R139, R226 to R233). -/
namespace Sys2Proof.Machine

/-! ## Ends and directions of a transfer -/

/-- The channel direction in which the data of a transfer travels. -/
def Xfer.dataLink (x : Xfer) : LinkId := ⟨x.port, x.part, x.pmod, x.kind == .put⟩
/-- The channel direction from the receiver to the source. -/
def Xfer.backLink (x : Xfer) : LinkId := ⟨x.port, x.part, x.pmod, x.kind != .put⟩
/-- The receiver, whose grant scheduler schedules the transfer (R226). -/
def Xfer.receiver (x : Xfer) : End := if x.kind = .put then .mod x.pmod else .pkg x.port
/-- The source. -/
def Xfer.source (x : Xfer) : End := if x.kind = .put then .pkg x.port else .mod x.pmod

/-- Whether chunk j goes without a token: a transfer of at most 2,048 bytes, or the unscheduled first part; never once the
transfer has been re-armed (R227, R233). -/
def Xfer.free (x : Xfer) (j : Nat) : Bool := !x.rearmed && (decide (x.streamLen ≤ 2048) || decide (j < 8))

/-- The bytes that the source has still to send under tokens that it does not have. -/
def Xfer.owed (x : Xfer) : Nat :=
  let js := (x.todo ++ (if x.kind = .put then [] else x.held.map (fun h => h.1))).filter (fun j => !x.free j)
  js.foldl (fun n j => n + x.chunkLen j) 0 - x.tokens.foldl (fun n k => n + k.bytes) 0

/-! ## The tables (R139) -/

/-- The table of an end: transfer numbers by index, 0 for a free place. -/
def State.tableOf (s : State) (e : End) : List Nat :=
  match e with
  | .pkg p => (s.pkg p).table
  | .mod m => (s.mod m).table

/-- Replaces the table of an end. -/
def State.setTable (s : State) (e : End) (l : List Nat) : State :=
  match e with
  | .pkg p => s.setPkg p { s.pkg p with table := l }
  | .mod m => s.setMod m { s.mod m with table := l }

/-- The transfers with an entry at an end. -/
def State.entries (s : State) (e : End) : List Nat := (s.tableOf e).filter (fun i => (s.xfer i).req.isSome)

/-- The owner of an entry: the partition at a package, the tenant at a module. -/
def Xfer.owner (x : Xfer) : Nat := if x.kind = .put then x.tenant else x.part

/-- Whether a transfer finds a reserved or a shared entry. -/
def State.entryFree (s : State) (i : Nat) : Bool :=
  let x := s.xfer i
  let e := x.receiver
  let res := if x.kind = .put then 8 else 64
  let owners := (s.entries e).map (fun j => (s.xfer j).owner)
  let n (o : Nat) : Nat := (owners.filter (fun k => k == o)).length
  let shared := owners.eraseDups.foldl (fun a o => a + (n o - res)) 0
  decide (n x.owner < res) || decide (shared < 2048)

/-- Puts a transfer at the lowest free index. -/
def place_ (s : State) (i : Nat) : List Nat → List Nat
  | [] => [i]
  | j :: l => if (s.xfer j).req.isSome && j != i then j :: place_ s i l else i :: l

/-- Adds to a grant count of the end (R183). -/
def State.grantCount (s : State) (x : Xfer) (k : Nat) : State :=
  match x.receiver with
  | .pkg p => s.setPart p x.part ((s.part p x.part).count k)
  | .mod m => s.setMod m ((s.mod m).count k)

/-- Whether the team of a transfer is resident. -/
def State.present (s : State) (x : Xfer) : Bool := (s.team x.team).place == .resident

/-- Whether the team of a transfer is away, or on its way: its requests are frozen (R53, R232). A team that has retired leaves its
requests active. -/
def State.leaving (s : State) (x : Xfer) : Bool :=
  let t := s.team x.team
  match t.place with
  | .resident => t.standing
  | .retired => false
  | _ => true

/-- The tick of 1 µs in which an age begins (R139). -/
def State.tick_ (s : State) : Nat := s.now / 1000

/-- Creates the entry of a transfer: active, and with a team that is saved frozen at once (R232; DEDUCED, log entry 28). -/
def State.openReq (s : State) (i n : Nat) : State :=
  let x := s.xfer i
  let s := s.setTable x.receiver (place_ s i (s.tableOf x.receiver))
  s.setXfer i { x with rts := none, req := some { state := if s.leaving x then .frozen else .active, remaining := n, born := s.tick_, tokens := [],
                                                  expiries := 0, frozenAt := s.now, deferred := false } }

/-- The first message of an inbox about a transfer that a test picks. -/
def State.message (s : State) (e : End) (f : Msg → Bool) : Option (Nat × Nat × Msg) := (s.inboxOf e).find? (fun x => f x.2.2)

/-- Whether a request is over: active, nothing left and no token out (R232). -/
def Req.over (r : Req) : Bool := r.state == .active && r.remaining == 0 && r.tokens.isEmpty

/-- A request with its state, freed if it is over (R232). -/
def Req.live (r : Req) : Option Req := if r.over then none else some r

/-- A frozen request of a team that is back: active, with a new age; the expiries in a row stand, which only a chunk sets to 0 (R231,
R232). -/
def Req.thaw (r : Req) (born : Nat) : Req := { r with state := .active, born := born, deferred := false }

/-- The grant class of a request that a transfer's source sends now (R173, R174): a put's has that of its window as it stands; a
module sends a fetch's with the class of the read request. -/
def State.clsNow (s : State) (x : Xfer) : Nat :=
  if x.kind = .put then ((s.team x.team).wins.getD x.win Window.blank).cls else x.cls

/-- Sends a request to send in a chunk of its own. -/
def State.sendRts (s : State) (i : Nat) (x : Xfer) (n : Nat) : State := s.enqueue x.dataLink (.rts i n (s.clsNow x) true)

/-- RTS_ARRIVAL (R232): a request to send creates an entry, matches one (a frozen one of a re-armed put becomes active with a
new age), or is refused. Its class is the request's from now on (R174). -/
def execRtsArrival (e : End) (i : Nat) (s : State) : Out :=
  let x := s.xfer i
  match s.message e (fun m => match m with | .rts j _ _ _ => j == i && x.receiver == e | _ => false) with
  | some (p, n, .rts _ len c own) =>
    let s := s.takeInbox e (p, n, .rts i len c own)
    let y := { x with cls := c }
    match x.req with
    | some r =>
      if r.state = .frozen ∧ x.kind = .put ∧ (x.rearmed ∨ x.done) ∧ !s.leaving x then
        .next (s.setXfer i { y with req := (r.thaw s.tick_).live })
      else .next (s.setXfer i y)
    | none =>
      if x.done ∨ len = 0 then .next s
      else if x.kind = .put ∧ !(s.mod x.pmod).tenantOk x.tenant then .next (s.refuseXfer i .perm x.x2.toNat)
      else if s.entryFree i then .next ((s.setXfer i y).openReq i len)
      else .next ((s.setXfer i { x with rts := some (s.now + 16000) }).grantCount x cntRtsRefused)
  | _ => .next s

/-- RTS_RETRY (R139): 16 µs after a refusal the source asks again. -/
def execRtsRetry (i : Nat) (s : State) : Out :=
  let x := s.xfer i
  match x.rts with
  | some t => if x.done ∨ s.now < t then .next s else .next ((s.setXfer i { x with rts := none }).sendRts i x x.owed)
  | none => .next s

/-! ## Tokens (R228 to R231) -/

/-- The tokens outstanding on a channel direction. -/
def State.tokensOn (s : State) (l : LinkId) : Nat :=
  s.xfers.foldl (fun n e => if e.2.dataLink == l then n + ((e.2.req.map (fun r => r.tokens.length)).getD 0) else n) 0

/-- The bytes of the next token of a request. -/
def Req.tokenBytes (r : Req) : Nat := min 8192 r.remaining

/-- Whether a transfer may receive a token (R228): from the time its team has halted for a save its request counts as frozen. -/
def State.eligible (s : State) (i : Nat) : Bool :=
  let x := s.xfer i
  match x.req with
  | none => false
  | some r =>
    r.state == .active && !s.leaving x && r.remaining != 0 && decide (s.tokensOn x.dataLink < 8) &&
    decide (s.chanState x.dataLink < 3 ∧ s.chanState x.backLink < 3) &&
    (x.kind != .put || decide ((r.tokenBytes : Int) ≤ ((s.mod x.pmod).bucket x.tenant).level))

/-- Whether one request is chosen before another: class, remaining, age in ticks (R139, R228); the table order decides the
rest. -/
def Xfer.before (a b : Xfer) : Bool :=
  let rem (x : Xfer) : Nat := (x.req.map (fun r => r.remaining)).getD 0
  let age (x : Xfer) : Nat := (x.req.map (fun r => r.born)).getD 0
  if a.cls ≠ b.cls then decide (b.cls < a.cls)
  else if rem a ≠ rem b then decide (rem a < rem b)
  else decide (age a < age b)

/-- The request that the order of R228 picks among some, given in table order. -/
def State.pick (s : State) (l : List Nat) : Option Nat :=
  l.foldl (fun o i => match o with
    | none => some i
    | some j => if (s.xfer i).before (s.xfer j) then some i else some j) none

/-- The share weights that apply, in ascending partition order up to 64 in all (R229). -/
def Pkg.weights (p : Pkg) : List Nat :=
  ((List.range 32).foldl (fun (a : List Nat × Nat) n =>
    let w := min ((Map.get p.parts n Part.blank).weight) (64 - a.2)
    (a.1 ++ [w], a.2 + w)) ([], 0)).1

/-- The requests among which an end chooses (R229). -/
def State.candidates (s : State) (e : End) : List Nat :=
  let l := (s.entries e).filter s.eligible
  match e with
  | .mod _ => l
  | .pkg p =>
    let k := s.pkg p
    let under (i : Nat) : Bool := decide (k.round.getD (s.xfer i).part 0 < k.weights.getD (s.xfer i).part 0)
    if l.any under then l.filter under else l

/-- Counts a token in the round of a package; 64 tokens end it. -/
def State.roundToken (s : State) (e : End) (n : Nat) : State :=
  match e with
  | .mod _ => s
  | .pkg p =>
    let k := s.pkg p
    let r := setAt k.round n (k.round.getD n 0 + 1)
    s.setPkg p { k with round := if 64 ≤ r.foldl (fun a b => a + b) 0 then copies 32 0 else r }

/-- A round of tokens of a package ends when no request is eligible (R229). -/
def State.endRound (s : State) (p : Nat) : State :=
  if (s.pkg p).round.any (fun n => n != 0) && (s.candidates (.pkg p)).isEmpty then s.setPkg p { s.pkg p with round := copies 32 0 } else s

/-- TOKEN_ISSUE: one token to the request that R228 and R229 pick. -/
def execTokenIssue (e : End) (s : State) : Out :=
  match s.pick (s.candidates e) with
  | none => .next s
  | some i =>
    let x := s.xfer i
    match x.req with
    | none => .next s
    | some r =>
      let n := r.tokenBytes
      let k : Token := { id := s.nextId, bytes := n, start := s.now }
      let r1 : Req := { r with remaining := r.remaining - n, tokens := r.tokens ++ [k] }
      let s1 := s.setXfer i { x with req := some r1 }
      let s := { s1 with nextId := s.nextId + 1 }
      let s := if x.kind = .put then s.draw x.pmod x.tenant n else s
      .next (((s.grantCount x cntTokIssued).roundToken e x.part).enqueue x.backLink (.token i k))

/-- A chunk of a transfer reaches its receiver under a token, a void token, or none (R231, R232). -/
def State.reqChunk (s : State) (i : Nat) (tok : Option Nat) (n : Nat) : State :=
  let x := s.xfer i
  match x.req with
  | none => s
  | some r =>
    let r0 := { r with expiries := 0 }
    let r1 : Req := match tok with
      | none => r0
      | some k =>
        if r.tokens.any (fun t => t.id = k) then
          let ts := r.tokens.map (fun t => if t.id = k then { t with bytes := t.bytes - n, start := s.now } else t)
          { r0 with tokens := ts.filter (fun t => t.bytes != 0) }
        else { r0 with remaining := r.remaining - n }
    s.setXfer i { x with req := r1.live }

/-- A token ends unused: its bytes go back, its source is told; three in a row without a chunk orphan an active request
(R231, R232). -/
def State.expireToken (s : State) (i k : Nat) : State :=
  let x := s.xfer i
  match x.req with
  | none => s
  | some r =>
    match r.tokens.find? (fun t => t.id = k) with
    | none => s
    | some t =>
      let counts := r.state == .active && !s.leaving x
      let n := if counts then r.expiries + 1 else r.expiries
      let r1 : Req := { r with tokens := r.tokens.filter (fun u => u.id != k), remaining := r.remaining + t.bytes, expiries := n }
      let s := s.grantCount x cntTokExpired
      let s := if x.kind = .put then s.giveBack x.pmod x.tenant t.bytes else s
      -- an orphan is purged (R232)
      if counts && decide (3 ≤ n) then
        let s := ((s.setXfer i { x with req := some r1 }).grantCount x cntOrphan).finishXfer i xsDown
        (s.setXfer i { s.xfer i with req := some { r1 with state := .purging, frozenAt := s.now } }).enqueue x.backLink (.expiry i k)
      else (s.setXfer i { x with req := some r1 }).enqueue x.backLink (.expiry i k)

/-- Whether a channel direction stands still: in a resume or a retrain (R238), and since when. -/
def Link.still (k : Link) : Option Nat := k.resume.or k.retrain

/-- Whether the token timers of a transfer run: no direction of its channel is in a resume or in a retrain (R231, R238; that either
direction stops them is DEDUCED, log entry 28). -/
def State.timersRun (s : State) (x : Xfer) : Bool :=
  (s.link x.dataLink).still.isNone && (s.link x.backLink).still.isNone && !(s.link x.dataLink).down

/-- TOKEN_EXPIRY: 16 µs without a chunk. -/
def execTokenExpiry (e : End) (i k : Nat) (s : State) : Out :=
  let x := s.xfer i
  match (x.req.map (fun r => r.tokens)).getD [] |>.find? (fun t => t.id = k) with
  | some t => if x.receiver == e && s.timersRun x && decide (t.start + 16000 ≤ s.now) then .next (s.expireToken i k) else .next s
  | none => .next s

/-- EXPIRY_NOTICE_RECEIVE: the source drops the token and sends a fresh request to send. -/
def execExpiryNoticeReceive (e : End) (i : Nat) (s : State) : Out :=
  let x := s.xfer i
  match s.message e (fun m => match m with | .expiry j _ => j == i && x.source == e | _ => false) with
  | some (p, n, .expiry _ k) =>
    let s := s.takeInbox e (p, n, .expiry i k)
    if x.done then .next s else
    let y := { x with tokens := x.tokens.filter (fun t => t.id != k) }
    .next ((s.setXfer i y).sendRts i y y.owed)
  | _ => .next s

/-- A token reaches the source; an abandoned transfer's goes back at once (R231): one that has ended, or that the module, as its
source, has refused. -/
def State.sourceToken (s : State) (i : Nat) (k : Token) : State :=
  let x := s.xfer i
  if x.done || (x.kind != .put && x.status.isSome) then s.enqueue x.dataLink (.tokenBack i k.id) else s.setXfer i { x with tokens := x.tokens ++ [k] }

/-! ## Frozen and purged requests (R232 to R234) -/

/-- FROZEN_TIMEOUT: after 1 ms the other end may free its state. -/
def execFrozenTimeout (e : End) (i : Nat) (s : State) : Out :=
  let x := s.xfer i
  match x.req with
  | some r =>
    if x.receiver == e && r.state == .frozen && !r.deferred && decide (r.frozenAt + 1000000 ≤ s.now) then
      .next ((s.setXfer i { x with req := some { r with deferred := true } }).enqueue x.backLink (.deferred i))
    else .next s
  | none => .next s

/-- DEFERRED_RECEIVE: the source frees its state for the transfer, which a restore makes afresh. -/
def execDeferredReceive (e : End) (i : Nat) (s : State) : Out :=
  let x := s.xfer i
  match s.message e (fun m => m == .deferred i && x.source == e) with
  | some y =>
    let s := s.takeInbox e y
    .next (if x.done || !s.leaving x then s else s.setXfer i { x with atSource := false, tokens := [] })
  | none => .next s

/-- Whether data of a transfer is under way on its channel. -/
def State.inFlight (s : State) (i : Nat) : Bool :=
  let k := s.link (s.xfer i).dataLink
  let mine (m : Msg) : Bool := match m with | .data j _ _ _ _ => j == i | _ => false
  k.retry.any (fun e => mine e.2) || k.flights.any (fun e => mine e.2.2.1) || k.heldBack.any (fun e => mine e.2)

/-- PURGE_COMPLETE: every token is void and no chunk is in flight, or 16 µs have passed; the entry is free. -/
def execPurgeComplete (e : End) (i : Nat) (s : State) : Out :=
  let x := s.xfer i
  match x.req with
  | some r =>
    if x.receiver == e && r.state == .purging && (!s.inFlight i || decide (r.frozenAt + 16000 ≤ s.now)) then
      .next (s.setXfer i { x with req := none })
    else .next s
  | none => .next s

end Sys2Proof.Machine
end

