-- ==== Sys2Proof/Machine/Chunks.lean ====
section
/-! DEFINITION. The link layer (R178, R179, R224, R225, R235, R236, R388, R389): sending, receiving, acknowledgement and
replay of chunks. -/
namespace Sys2Proof.Machine

/-- The difference of two sequence numbers (R178). -/
def seqSub (a b : Nat) : Nat := (a + 2 ^ 48 - b) % 2 ^ 48
/-- The next sequence number. -/
def seqNext (a : Nat) : Nat := (a + 1) % 2 ^ 48
/-- The difference of two credit counts (R179). -/
def credSub (a b : Nat) : Nat := (a + 2 ^ 32 - b) % 2 ^ 32

/-- Whether a new chunk may be sent: window and credit (R235). -/
def Link.open_ (k : Link) : Bool := decide (seqSub k.next k.ack < 256) && credSub k.freed k.used != 0

/-- The plane of a sequence number (R225). -/
def State.planeOf (s : State) (l : LinkId) (q : Nat) : Nat :=
  let ls := s.live l
  ls.getD (seqSub q (s.link l).q0 % ls.length) 0

/-- Puts a numbered chunk on its plane, for the replay of a resume or for none (R384). -/
def State.transmit (s : State) (l : LinkId) (q : Nat) (m : Msg) (why : Option Nat) : State :=
  let p := s.planeOf l q
  s.setLink l { s.link l with flights := (s.link l).flights ++ [(p, q, m, why)] }

/-- Sends a new chunk: number, retry buffer, credit. -/
def State.sendNew (s : State) (l : LinkId) (m : Msg) : State :=
  let k := s.link l
  let q := k.next
  (s.setLink l { k with
    next := seqNext q
    sendFrom := seqNext q
    used := (k.used + 1) % 2 ^ 32
    ackAt := if q = k.ack then s.now else k.ackAt
    retry := k.retry ++ [(q, m)] }).transmit l q m none

/-- The next chunk that a source may send, with its token (R227). -/
def Xfer.nextChunk (x : Xfer) : Option (Nat × Option Nat) :=
  x.todo.findSome? (fun j =>
    if x.free j then some (j, none)
    else (x.tokens.find? (fun k => x.chunkLen j ≤ k.bytes)).map (fun k => (j, some k.id)))

/-- The request to send that a chunk carries (R227), of a class. -/
def Xfer.rtsOf (x : Xfer) (j c : Nat) : Option (Nat × Nat) :=
  if j = 0 ∧ !x.rearmed ∧ 2048 < x.streamLen then some (x.streamLen - 2048, c) else none

/-- What a transfer is after it has sent chunk j. -/
def Xfer.sentChunk (x : Xfer) (j : Nat) (tok : Option Nat) : Xfer :=
  { x with
    todo := x.todo.filter (fun k => k != j)
    tokens := match tok with
      | some id => (x.tokens.map (fun k => if k.id = id then { k with bytes := k.bytes - x.chunkLen j } else k)).filter (fun k => k.bytes != 0)
      | none => x.tokens }

/-- The last source read of a PUT frees its queue place (R136). -/
def State.putRead (s : State) (i : Nat) : State :=
  let x := s.xfer i
  if x.kind = .put ∧ x.todo.isEmpty ∧ x.queued then
    let s := s.setXfer i { x with queued := false }
    let c := (s.team x.team).core
    (s.setCore c { s.core c with eq_ := (s.core c).eq_.filter (fun j => j != i) }).kick c
  else s

/-- Sends the next chunk of a transfer: a put reads its source, a fetch the module, against the tenant's bucket (R230). -/
def State.sendData (s : State) (l : LinkId) (i : Nat) : State :=
  let x := s.xfer i
  if x.dataLink ≠ l ∨ !x.started ∨ x.done ∨ !x.atSource ∨ !s.present x ∨ x.status.isSome then s else
  match x.nextChunk with
  | none => s
  | some (j, tok) =>
    let n := x.chunkLen j
    if x.kind = .put then
      let es := x.elementsOf (256 * j) n
      let c := checkAll (fun s e => s.localCheck x.team (x.localAddr e) x.esize) es s
      if !c.2 then c.1 else
      let b := es.flatMap (fun e => c.1.localRead x.team (x.localAddr e) x.esize)
      ((c.1.setXfer i ((c.1.xfer i).sentChunk j tok)).sendNew l (.data i j b tok (x.rtsOf j (s.clsNow x)))).putRead i
    else if ((s.mod x.pmod).bucket x.tenant).level < n then s
    else
      let r := s.readChunk i j
      match r.2 with
      | none => r.1
      | some b =>
        ((r.1.draw x.pmod x.tenant n).setXfer i ((r.1.xfer i).sentChunk j tok)).sendNew l (.data i j b tok (x.rtsOf j (s.clsNow x)))

/-- Counts a chunk that the replay of a resume sends again (R384). -/
def Link.resent (k : Link) : Link :=
  { k with trace := k.trace.map (fun e => if k.replay = some e.num then { e with replayed := e.replayed + 1 } else e) }

/-- The replay of a resume ends where another replay begins (R384): the last chunk that it sent is the one before `sendFrom`. -/
def Link.cutReplay (k : Link) : Link :=
  let cut (e : Resumed) : Resumed :=
    match e.passed, e.upTo with
    | none, some u =>
      if k.replay ≠ some e.num ∨ seqSub u k.ack ≤ seqSub k.sendFrom k.ack then e
      else if e.replayed = 0 then { e with upTo := none }
      else if k.sendFrom = k.ack then { e with passed := some k.ackAt }
      else { e with upTo := some k.sendFrom }
    | _, _ => e
  { k with trace := k.trace.map cut }

/-- CHUNK_SEND: the next chunk of a replay, or a new one: the oldest waiting message, or data of a transfer. -/
def execChunkSend (l : LinkId) (c : Choice) (s : State) : Out :=
  let k := s.link l
  if !s.moving l then .next s
  else if k.sendFrom ≠ k.next then
    match k.retry.find? (fun e => e.1 = k.sendFrom) with
    | some e => .next ((s.setLink l { k.resent with sendFrom := seqNext k.sendFrom }).transmit l e.1 e.2 k.replay)
    | none => .next (s.setLink l { k with sendFrom := seqNext k.sendFrom })
  else if !k.open_ then .next s
  else match c with
    | .message =>
      match k.outq with
      | m :: rest => .next ((s.setLink l { k with outq := rest }).sendNew l m)
      | [] => .next s
    | .data i => .next (s.sendData l i)

/-! ## Receiving -/

/-- Lands a chunk at the package (R219, R224): its elements, the meter, window and barrier. -/
def State.landChunk (s : State) (i j : Nat) (b : List Byte) : State :=
  let x := s.xfer i
  let es := (x.elementsOf (256 * j) (x.chunkLen j)).mapIdx (fun k n => (n, (b.drop (k * x.esize)).take x.esize))
  let r := s.landElements x es
  let y := r.1.xfer i
  let y1 := { y with
    landed := y.landed ++ [j]
    kept := if x.r0.lbDim.isSome then es.foldl (fun m e => Map.set m e.1 e.2) y.kept else y.kept }
  let s := (r.1.setXfer i y1).meter x.port x.part (7 + x.pmod) b.length
  ((s.account i b.length false r.2).settleXfer i).kick (s.team x.team).core

/-- The request to send that a data chunk carries arrives with it; the ingress slot is that of the data (R227, R236). -/
def State.carriedRts (s : State) (l : LinkId) (i : Nat) (rts : Option (Nat × Nat)) : State :=
  match rts with
  | some n => s.toInbox l (.rts i n.1 n.2 false)
  | none => s

/-- Delivers a chunk that a package accepts (R235): data lands, unless its transfer has been abandoned or purged. -/
def State.acceptDown (s : State) (l : LinkId) (m : Msg) : State :=
  match m with
  | .data i j b tok rts =>
    let s := s.carriedRts l i rts
    let purging : Bool := match (s.xfer i).req with | some r => r.state == .purging | none => false
    if purging then s else
    let s := s.reqChunk i tok b.length
    if (s.xfer i).done then s else s.landChunk i j b
  | .token i k => s.sourceToken i k
  | .tokenBack i k => s.expireToken i k
  | m => s.toInbox l m

/-- Delivers a chunk that a module takes in its place (R235). -/
def State.acceptUp (s : State) (l : LinkId) (m : Msg) (w : Walk) : State :=
  match m with
  | .data i j b tok rts =>
    let s := s.carriedRts l i rts
    let x := s.xfer i
    let purging : Bool := match x.req with | some r => r.state == .purging | none => false
    if purging then s.freeSlot l.port l.part l.pmod
    else
      let s := s.reqChunk i tok b.length
      let r := s.performPut i j b w
      if r.2 then r.1.freeSlot l.port l.part l.pmod else r.1
  | .token i k => (s.sourceToken i k).freeSlot l.port l.part l.pmod
  | .tokenBack i k => (s.expireToken i k).freeSlot l.port l.part l.pmod
  | m => s.toInbox l m

/-- Whether the chunk next in sequence must wait: put data behind a request that is still to be performed (R213). -/
def State.mustStay (s : State) (l : LinkId) (m : Msg) : Bool :=
  match m with
  | .data _ _ _ _ _ => l.up && ((s.mod l.pmod).head l.port l.part).isSome
  | _ => false

/-- Whether a chunk that lands at a package finds its team there. -/
def State.mayLand (s : State) (m : Msg) : Bool :=
  match m with
  | .data i _ _ _ _ => (s.xfer i).done || (s.xfer i).kind == .put || s.present (s.xfer i)
  | _ => true

/-- Takes the chunks that have become next in sequence: at a module each is performed in its place (R235); elsewhere only
the number moves. -/
def takeInOrder : Nat → State → LinkId → Walk → State
  | 0, s, _, _ => s
  | n + 1, s, l, w =>
    let k := s.link l
    match k.heldBack.find? (fun e => e.1 = k.expect) with
    | none => s
    | some e =>
      if l.up && s.mustStay l e.2 then s
      else
        let s := s.setLink l { k with heldBack := k.heldBack.filter (fun f => f.1 != e.1), expect := seqNext k.expect, ahead := k.ahead - 1 }
        takeInOrder n (if l.up then s.acceptUp l e.2 w else s) l w

/-- Offers more ingress slots (R179). -/
def State.offer (s : State) (l : LinkId) (n : Nat) : State :=
  let k := s.link l
  s.setLink l { k with offered := (k.offered + n) % 2 ^ 32 }

/-- Notes whether the receiver holds chunks beyond a gap, and since when (R235). -/
def State.noteGap (s : State) (l : LinkId) (old : Nat) : State :=
  let k := s.link l
  let gap := k.heldBack.any (fun e => e.1 != k.expect) && !k.heldBack.any (fun e => e.1 == k.expect)
  s.setLink l { k with gapAt := if !gap then none else if k.expect ≠ old then some s.now else some (k.gapAt.getD s.now) }

/-- A put prefix draws its bytes from the tenant's level when it arrives, whatever has become of its transfer (R230). -/
def State.drawPrefix (s : State) (m : Msg) : State :=
  match m with
  | .data i _ b none _ =>
    let x := s.xfer i
    if x.kind = .put then s.draw x.pmod x.tenant b.length else s
  | _ => s

/-- Counts a duplicate that the replay of a resume sent (R384). -/
def Link.duplicate (k : Link) (why : Option Nat) : Link :=
  { k with trace := k.trace.map (fun e => if why = some e.num then { e with discarded := e.discarded + 1 } else e) }

/-- Accepts a chunk: a duplicate is discarded; at a package it is delivered at once; then what is next in sequence. The receiver
counts the slot as used, unless the USED that it adopted counts it already (R179). -/
def State.acceptChunk (s : State) (l : LinkId) (q : Nat) (m : Msg) (why : Option Nat) (w : Walk) : State :=
  let k := s.link l
  if 2 ^ 47 ≤ seqSub q k.expect ∨ k.heldBack.any (fun e => e.1 = q) then s.setLink l (k.duplicate why)
  else
    let n := if seqSub q k.expect < k.ahead then k.rxUsed else (k.rxUsed + 1) % 2 ^ 32
    let s := (s.setLink l { k with heldBack := k.heldBack ++ [(q, m)], rxUsed := n }).drawPrefix m
    let s := if l.up then s else (s.acceptDown l m).offer l 1
    let s := if l.up && l.part == mgmt then s.offer l 1 else s
    (takeInOrder 257 s l w).noteGap l k.expect

/-- CHUNK_RECEIVE: a chunk on the fabric reaches its receiver; or the chunk next in sequence, held back behind a request,
is taken. A channel that is DOWN has no chunks. -/
def execChunkReceive (l : LinkId) (i : Nat) (w : Walk) (s : State) : Out :=
  let k := s.link l
  match k.flights.find? (fun e => e.2.1 = i) with
  | some e =>
    if !s.mayLand e.2.2.1 then .next s
    else .next ((s.setLink l { k with flights := k.flights.erase e }).acceptChunk l i e.2.2.1 e.2.2.2 w)
  | none =>
    if l.up ∧ i = k.expect then .next ((takeInOrder 257 s l w).noteGap l k.expect) else .next s

/-- A flit of a chunk under way arrives with a CRC that does not fit (R224): of its four flits one bad one makes the receiver discard
the chunk whole. -/
def State.badFlit (s : State) (l : LinkId) (q flit : Nat) : State :=
  let k := s.link l
  match k.flights.find? (fun e => e.2.1 = q) with
  | some e => if flit < 4 then s.setLink l { k with flights := k.flights.erase e } else s
  | none => s

/-! ## Acknowledgements and replay -/

/-- The slots that a module may still offer a channel beyond those it has offered (R236): up to 256, of which 16 are
reserved where its tenant is valid, the rest from the shared pool. That a channel is topped up to the retry window of 256 with every
flit, as long as the pool lasts, is the model's choice (DESIGN CHOICE, log entry 27): R236 says neither how many of the pool's slots a
module offers a channel nor when. -/
def State.moreSlots (s : State) (l : LinkId) : Nat :=
  if !l.up ∨ l.part = mgmt then 0 else
  let m := s.mod l.pmod
  let valid := (m.buckets.filter (fun e => e.2.flags == 1)).length
  let pool := 16384 - 16 * valid
  let taken := s.links.foldl (fun n e =>
    if e.1.up && e.1.pmod == l.pmod && e.1.part != mgmt && e.1 != l then n + (e.2.slots - s.reserve e.1) else n) 0
  min 256 (s.reserve l + (pool - taken)) - (s.link l).slots

/-- The reverse of a channel direction. -/
def backOf (l : LinkId) : LinkId := { l with up := !l.up }

/-- Sends an acknowledgement flit on the reverse direction's live set (R225, R235). -/
def State.sendFlit (s : State) (l : LinkId) (nak : Bool) : State :=
  let n := s.moreSlots l
  let s := s.offer l n
  let k := s.link l
  s.setLink l { k with
    slots := k.slots + n
    flitAt := s.now
    flits := k.flits ++ [{ ack := k.expect, freed := k.offered, used := k.rxUsed, nak := nak }] }

/-- Whether a management access may pass on a channel direction now (R389): it moves, with a credit, and nothing sent or waiting
before it is still to be received. -/
def State.passes (s : State) (l : LinkId) : Bool :=
  let k := s.link l
  s.moving l && k.open_ && k.outq.isEmpty && k.next == k.expect

/-- The passage of one message of a management channel from its sender to its receiver: its number, credit and place in the retry
buffer, and the slot that is offered again. -/
def State.pass (s : State) (l : LinkId) (m : Msg) : State :=
  let k := s.link l
  s.setLink l { k with
    next := seqNext k.next
    sendFrom := seqNext k.next
    used := (k.used + 1) % 2 ^ 32
    rxUsed := (k.rxUsed + 1) % 2 ^ 32
    offered := (k.offered + 1) % 2 ^ 32
    ackAt := if k.next = k.ack then s.now else k.ackAt
    retry := k.retry ++ [(k.next, m)]
    expect := seqNext k.expect }

/-- Whether a channel is in a retrain in one of its directions: no flit moves (R238). -/
def State.inRetrain (s : State) (l : LinkId) : Bool := (s.link l).retrain.isSome || (s.link (backOf l)).retrain.isSome

/-- Whether the receiver of a channel direction can send flits: nothing moves in a retrain (R238). -/
def State.canFlit (s : State) (l : LinkId) : Bool :=
  (s.pkg l.port).up && !(s.link l).down && !s.inRetrain l && !(s.live (backOf l)).isEmpty

/-- ACK_FLIT_SEND: at least every 64 ns or 1 µs, and as often as the receiver likes. -/
def execAckFlitSend (l : LinkId) (s : State) : Out := if s.canFlit l then .next (s.sendFlit l false) else .next s

/-- NAK_SEND: a gap has been held for 256 ns. -/
def execNakSend (l : LinkId) (s : State) : Out :=
  match (s.link l).gapAt with
  | some t =>
    if !s.canFlit l ∨ s.now < t + 256 then .next s
    else
      let s := s.sendFlit l true
      .next (s.setLink l { s.link l with gapAt := some s.now })
  | none => .next s

/-- What the acknowledgement of a message brings: a performed put chunk is counted, a far atomic without a reply is
complete (R300). -/
def State.acked (s : State) (m : Msg) : State :=
  match m with
  | .data i j _ _ _ => if (s.xfer i).kind = .put then s.countPut i j else s
  | .farReq i =>
    match Map.find s.fars i with
    | some f => if f.performed && !f.ret then s.farDone i f else s
    | none => s
  | _ => s

/-- The sender adopts an acknowledgement (R178): the retry buffer frees the chunks below it. -/
def State.adoptAck (s : State) (l : LinkId) (a : Nat) : State :=
  let k := s.link l
  let d := seqSub a k.ack
  if d = 0 ∨ seqSub k.next k.ack < d then s
  else
    let gone := k.retry.filter (fun e => seqSub e.1 k.ack < d)
    let past (e : Resumed) : Resumed :=
      if e.passed.isNone && e.replayed != 0 && e.upTo.any (fun u => seqSub u k.ack ≤ d) then { e with passed := some s.now } else e
    let s := s.setLink l { k with
      ack := a
      ackAt := s.now
      trace := k.trace.map past
      retry := k.retry.filter (fun e => d ≤ seqSub e.1 k.ack)
      sendFrom := if seqSub k.sendFrom k.ack < d then a else k.sendFrom }
    gone.foldl (fun s e => s.acked e.2) s

/-- The sender adopts a credit count. -/
def State.adoptFreed (s : State) (l : LinkId) (n : Nat) : State :=
  let k := s.link l
  if credSub n k.freed < 2 ^ 31 then s.setLink l { k with freed := n } else s

/-- The sender replays from ACK (R235); the time is kept for the count of R238. -/
def State.replayFrom (s : State) (l : LinkId) : State :=
  let k := s.link l
  s.setLink l { k.cutReplay with sendFrom := k.ack, replay := none, ackAt := s.now, replays := s.now :: k.replays.filter (fun t => s.now < t + 100000) }

/-- ACK_FLIT_RECEIVE: a flit, by its place among those under way; none moves in a retrain (R238). -/
def execAckFlitReceive (l : LinkId) (i : Nat) (s : State) : Out :=
  let k := s.link l
  if s.inRetrain l then .next s else
  match k.flits[i]? with
  | none => .next s
  | some f =>
    let s := ((s.setLink l { k with flits := k.flits.eraseIdx i }).adoptAck l f.ack).adoptFreed l f.freed
    let k := s.link l
    .next (if f.nak && k.next != k.ack && k.resume.isNone && k.retrain.isNone then s.replayFrom l else s)

/-- REPLAY_TIMEOUT: ACK has not advanced for 1 µs while chunks are outstanding. -/
def execReplayTimeout (l : LinkId) (s : State) : Out :=
  let k := s.link l
  if s.moving l && k.next != k.ack && decide (k.ackAt + 1000 ≤ s.now) then .next (s.replayFrom l) else .next s

end Sys2Proof.Machine
end

