-- ==== Sys2Proof/Machine/Optics.lean ====
section
/-! DEFINITION. Optical events (R18, R20, R146, R153, R181, R237 to R239, R366): spares, lanes, resumes, retrains, a channel
that goes DOWN, re-commissioning, and the optical event ring. -/
namespace Sys2Proof.Machine

/-! ## Records (R146) -/

/-- WAVELENGTH_FAIL. -/
def opFail : Nat := 1
/-- LANE_SUBST. -/
def opSubst : Nat := 2
/-- SPARE_LOCK_FAIL. -/
def opSpare : Nat := 3
/-- LANE_DEGRADE. -/
def opDegrade : Nat := 4
/-- CHANNEL_DOWN. -/
def opDown : Nat := 5
/-- RETRAIN. -/
def opRetrain : Nat := 6
/-- LASER_AGE. -/
def opAge : Nat := 7
/-- OVERFLOW. -/
def opOverflow : Nat := 8

/-- The state of a channel over both directions (R105). -/
def State.combined (s : State) (port part m : Nat) : Nat :=
  let a := s.chanState ⟨port, part, m, true⟩
  let b := s.chanState ⟨port, part, m, false⟩
  if a = 4 ∨ b = 4 then 4
  else if a = 3 ∨ b = 3 then 3
  else if a = 1 ∨ b = 1 then 1
  else if a = 2 ∨ b = 2 then 2
  else 0

/-- Writes 32 bytes at the tail of a partition's ring and raises its interrupt (R167). -/
def State.ringPut (s : State) (p n : Nat) (b : List Byte) : State :=
  let x := s.part p n
  let s := s.hostWrite p 0 (x.erBase.toNat + 32 * (x.erTail.toNat % 256)) b
  (s.setPart p n { x with erTail := x.erTail + 1 }).interrupt p (8193 + 2 * n)

/-- Writes a record to the ring of a partition, or counts it when the ring is full. -/
def State.ringRecord (s : State) (p n : Nat) (b : List Byte) : State :=
  let x := s.part p n
  if (x.erTail - x.erHead).toNat < 256 then s.ringPut p n b
  else s.setPart p n { x with erLost := sat32 x.erLost }

/-- The 32 bytes of a record. The plane of a record of a whole channel, and the value of one to which R146 gives none, are written as
0 (DESIGN CHOICE, log entry 7). -/
def opticalBytes (code plane laser state pmod lmod ack time value : Nat) : List Byte :=
  bytesOf 1 code ++ bytesOf 1 plane ++ bytesOf 1 laser ++ bytesOf 1 state ++ bytesOf 1 pmod ++ bytesOf 1 lmod ++ bytesOf 2 0 ++
  bytesOf 8 ack ++ bytesOf 8 time ++ bytesOf 8 value

/-- The logical number under which a partition names a physical module; 0 where it does not: R146 gives byte 5 no value there (DESIGN
CHOICE, log entry 7). -/
def State.logicalMod (s : State) (port part m : Nat) : Nat :=
  ((List.range 64).find? (fun k => ((s.part port part).module k).any (fun e => e.1 == m))).getD 0

/-- An optical event of a channel direction. -/
def State.optical (s : State) (l : LinkId) (code plane laser value : Nat) : State :=
  s.ringRecord l.port l.part (opticalBytes code plane laser (s.combined l.port l.part l.pmod) l.pmod
    (s.logicalMod l.port l.part l.pmod) (s.link l).ack s.now value)

/-! ## Lanes and lasers -/

/-- The partition that owns a plane to a module (R153). -/
def State.planeOwner (s : State) (p m plane : Nat) : Option Nat :=
  let e := (Map.get (s.pkg p).alloc (16 * m + plane) 0).toNat
  if bits e 15 15 = 1 then some (bits e 4 0) else none

/-- The key of a laser in its engine. -/
def laserKey (plane laser : Nat) : Nat := 68 * plane + laser

/-- A laser of the sending end of a lane (R18, R237). -/
def State.laserAt (s : State) (p m : Nat) (up : Bool) (plane laser : Nat) : Laser :=
  Map.get (if up then (s.pkg p).lasers else (s.mod m).lasers) (laserKey plane laser) Laser.blank

/-- Replaces a laser of the sending end of a lane. -/
def State.setLaser (s : State) (p m : Nat) (up : Bool) (plane laser : Nat) (x : Laser) : State :=
  if up then s.setPkg p { s.pkg p with lasers := Map.set (s.pkg p).lasers (laserKey plane laser) x }
  else s.setMod m { s.mod m with lasers := Map.set (s.mod m).lasers (laserKey plane laser) x }

/-- The band-A laser of a lane (R18). -/
def bandA (p m : Nat) (up : Bool) : Nat := if up then m else p

/-- The spare that a lane uses. -/
def Lane.spareOf : Lane → Option Nat
  | .locking k _ _ => some k
  | .spare k => some k
  | _ => none

/-- The laser that carries a lane, or last carried it (R146). -/
def Lane.laser (x : Lane) (fixed : Nat) : Nat :=
  match x with
  | .ok => fixed
  | .spare k => 64 + k
  | .locking _ _ f => f
  | .dead f => f

/-- A free spare of the engine that lights a lane (R20, R238). Which of several is taken no rule says: the lowest-numbered (DESIGN
CHOICE, log entry 46). -/
def State.freeSpare (s : State) (p m plane : Nat) (up : Bool) : Option Nat :=
  let used := s.lanes.filterMap (fun e =>
    if e.1.2.2.1 == plane && e.1.2.2.2 == up && (if up then e.1.1 == p else e.1.2.1 == m) then e.2.spareOf else none)
  (List.range 4).find? (fun k => !used.contains k && !(s.laserAt p m up plane (64 + k)).out)

/-- Takes the laser of a spare out of service until re-commissioning (R238). -/
def State.spareOut (s : State) (p m plane : Nat) (up : Bool) (k : Nat) : State :=
  s.setLaser p m up plane (64 + k) { s.laserAt p m up plane (64 + k) with out := true }

/-! ## Resumes and channels that go down (R238, R239) -/

/-- Every channel direction of a package and a module, the management channel last. -/
def linksAt (p m : Nat) (up : Bool) : List LinkId := (List.range 33).map (fun n => ⟨p, n, m, up⟩)

/-- Chunks on failed planes are lost. -/
def State.lose (s : State) (p m : Nat) (up : Bool) (planes : List Nat) : State :=
  (linksAt p m up).foldl (fun s l =>
    let k := s.link l
    if k.flights.any (fun e => planes.contains e.1) then
      s.setLink l { k with flights := k.flights.filter (fun e => !planes.contains e.1) }
    else s) s

/-- The token timers of the transfers on a channel stood still from one time to another (R231, R238): one that was started in between
stood from its start. -/
def State.shiftTimers (s : State) (l : LinkId) (a b : Nat) : State :=
  if b ≤ a then s else
  { s with xfers := s.xfers.map (fun e =>
      if e.2.dataLink = l ∨ e.2.backLink = l then
        (e.1, { e.2 with req := e.2.req.map (fun r =>
          let ts := r.tokens.map (fun t => { t with start := t.start + (b - max t.start a) })
          { r with tokens := ts }) })
      else e) }

/-- A channel direction has stood still until now: its timers stood for that time, but for what the other direction, which stands
still as well, will add. -/
def State.stoodStill (s : State) (l : LinkId) : State :=
  match (s.link l).still with
  | some t => s.shiftTimers l t ((s.link (backOf l)).still.getD s.now)
  | none => s

/-- Triggers a resume of a channel direction, or restarts it. -/
def State.beginResume (s : State) (l : LinkId) (why : Trigger) : State :=
  let k := s.link l
  if k.down ∨ k.retrain.isSome then s else (s.stoodStill l).setLink l { k with resume := some s.now, why := why }

/-- Clears what a channel direction carries (R239). -/
def Link.flush (k : Link) : Link := { k with retry := [], outq := [], flights := [], heldBack := [], flits := [], resume := none, retrain := none }

/-- Whether a message belongs to a channel. -/
def ofChannel (port part : Nat) (e : Nat × Nat × Msg) : Bool := e.1 == port && e.2.1 == part

/-- Whether a transfer has chunks or an answer still owed on its channel (R239): one of which only lines of its line buffer are left
(R341) has none. -/
def Xfer.owes (x : Xfer) : Bool :=
  x.kind != .copyl && x.started && !x.done && (x.kind != .fetch || (List.range x.chunks).any (fun j => !x.landed.contains j))

/-- A channel goes DOWN in a direction (R239): what it carries is gone, its transfers end, its grant entries are free, grids with far
atomics on it end FAULTED. -/
def State.channelDown (s : State) (l : LinkId) : State :=
  let s := s.setLink l { (s.link l).flush with down := true }
  let b := backOf l
  let s := s.setLink b (s.link b).flush
  let s := s.optical l opDown 0 0 0
  let m := s.mod l.pmod
  let s := s.setMod l.pmod { m with
    inbox := m.inbox.filter (fun e => !ofChannel l.port l.part e)
    waiting := m.waiting.filter (fun e => !ofChannel l.port l.part e) }
  let p := s.pkg l.port
  let s := s.setPkg l.port { p with inbox := p.inbox.filter (fun e => !(e.1 == l.pmod && e.2.1 == l.part)) }
  let mine (x : Xfer) : Bool := x.owes && x.port == l.port && x.part == l.part && x.pmod == l.pmod
  let s := (s.xfers.filter (fun e => mine e.2)).foldl (fun s e => s.finishXfer e.1 xsDown) s
  let entry (x : Xfer) : Bool := x.port == l.port && x.part == l.part && x.pmod == l.pmod
  let s : State := { s with xfers := s.xfers.map (fun (e : Nat × Xfer) => if entry e.2 then (e.1, { e.2 with req := none }) else e) }
  let on (f : FarReq) : Bool := f.port == l.port && f.part == l.part && f.pmod == l.pmod && !f.arrived && f.reserved.isNone
  let s := (s.fars.filter (fun e => on e.2)).foldl (fun s e => s.endGrid e.2.grid stFaulted) s
  { s with fars := s.fars.filter (fun e => !on e.2) }

/-- Something is attached to a port, or taken from it (R17). What is under way on the lanes of a port that goes dark is lost, and its
channels, which have no lane left that carries chunks, go DOWN (R237; DESIGN CHOICE, log entry 48). -/
def State.attach (s : State) (port : Nat) (on : Bool) : State :=
  let rest := s.dark.filter (fun q => q != port)
  if on then { s with dark := rest }
  else if s.dark.contains port then s
  else
    let ends := (List.range 64).map (fun k => if port < 64 then (port, k) else (k, port - 64))
    ends.foldl (fun s e =>
      let ls := (linksAt e.1 e.2 true ++ linksAt e.1 e.2 false).filter (fun l => s.links.any (fun x => x.1 == l))
      let s := ls.foldl (fun s l => s.setLink l { s.link l with flights := [], flits := [] }) s
      (List.range 32).foldl (fun s n =>
        if (s.planes e.1 n e.2).isEmpty || s.isDown e.1 n e.2 then s else s.channelDown ⟨e.1, n, e.2, true⟩) s)
      { s with dark := port :: rest }

/-- The threshold check of a channel direction after its lanes or its planes have changed, else a resume (R237, R238). -/
def State.afterLanes (s : State) (l : LinkId) (why : Trigger) : State :=
  let k := s.link l
  if k.down then s
  else if (s.live l).length < downLimit (s.planes l.port l.part l.pmod).length then s.channelDown l
  else s.beginResume l why

/-- How some lanes have changed since an earlier state. -/
def State.laneChanges (s was : State) (p m : Nat) (up : Bool) (planes : List Nat) : List (Nat × Lane × Lane) :=
  planes.map (fun k => (k, was.lane p m k up, s.lane p m k up))

/-- What follows a change of lanes: for each partition that owns one, the threshold check or a resume, triggered by the changes of its
planes; the management channel resumes when its plane changes (R389). -/
def State.settleLanes (s was : State) (p m : Nat) (up : Bool) (planes : List Nat) : State :=
  let owners := (planes.filterMap (s.planeOwner p m)).eraseDups
  let why (f : Nat → Bool) : Trigger := .lanes (s.laneChanges was p m up (planes.filter f))
  let s := owners.foldl (fun s n => s.afterLanes ⟨p, n, m, up⟩ (why (fun k => s.planeOwner p m k == some n))) s
  let l : LinkId := ⟨p, mgmt, m, up⟩
  if s.live l = was.live l then s else s.beginResume l (why (fun _ => true))

/-- A lane failure starts the count of replays of a channel afresh (R238). -/
def State.clearReplays (s : State) (p m : Nat) (up : Bool) (planes : List Nat) : State :=
  ((planes.filterMap (s.planeOwner p m)).eraseDups).foldl (fun s n =>
    let l : LinkId := ⟨p, n, m, up⟩
    s.setLink l { s.link l with replays := [] }) s

/-- An optical event of a lane, written to the ring of the partition that owns it. -/
def State.laneRecord (s : State) (p m : Nat) (up : Bool) (plane code laser value : Nat) : State :=
  match s.planeOwner p m plane with
  | some n => s.optical ⟨p, n, m, up⟩ code plane laser value
  | none => s

/-- A lane loses its light: the new lane state, with the spare it held taken out of service. -/
def State.failLane (s : State) (p m : Nat) (up : Bool) (plane : Nat) : State :=
  let x := s.lane p m plane up
  let f := x.laser (bandA p m up)
  let s := match x with | .spare k => s.spareOut p m plane up k | _ => s
  s.setLane p m plane up (match s.freeSpare p m plane up with | some k => .locking k s.now f | none => .dead f)

/-- The records of a lane that has lost its light. -/
def State.failRecords (s : State) (p m : Nat) (up : Bool) (plane : Nat) : State :=
  let x := s.lane p m plane up
  let f := x.laser (bandA p m up)
  let s := s.laneRecord p m up plane opFail f 0
  match x with
  | .dead _ => (s.laneRecord p m up plane opSpare f 0).laneRecord p m up plane opDegrade f 0
  | _ => s

/-- WAVELENGTH_FAIL: lanes that carry chunks lose their light in one cycle; those of a dark port carry none (R17, log entry 48). -/
def execWavelengthFail (p m : Nat) (up : Bool) (planes : List Nat) (s : State) : Out :=
  let hit := (List.range 16).filter (fun k => planes.contains k && (s.lane p m k up).live)
  if !(s.pkg p).up ∨ !s.attached p m up ∨ hit.isEmpty then .next s else
  let was := s
  let s := hit.foldl (fun s k => s.failLane p m up k) s
  let s := (s.lose p m up hit).clearReplays p m up hit
  let s := hit.foldl (fun s k => s.failRecords p m up k) s
  .next (s.settleLanes was p m up hit)

/-- LANE_SUBST: the spare locks within 50 µs. -/
def execLaneSubst (p m : Nat) (up : Bool) (plane : Nat) (s : State) : Out :=
  match s.lane p m plane up with
  | .locking k since _ =>
    if since + 50000 < s.now ∨ !s.attached p m up then .next s else
    let was := s
    let s := s.setLane p m plane up (.spare k)
    .next ((s.laneRecord p m up plane opSubst (64 + k) (s.now - since)).settleLanes was p m up [plane])
  | _ => .next s

/-- SPARE_LOCK_TIMEOUT: 50 µs pass without lock; the spare is free again. -/
def execSpareLockTimeout (p m : Nat) (up : Bool) (plane : Nat) (s : State) : Out :=
  match s.lane p m plane up with
  | .locking k since f =>
    if s.now < since + 50000 then .next s else
    let was := s
    let s := s.setLane p m plane up (.dead f)
    .next (((s.laneRecord p m up plane opSpare (64 + k) 0).laneRecord p m up plane opDegrade f 0).settleLanes was p m up [plane])
  | _ => .next s

/-- SPARE_LOCK_FAIL: the locking spare itself fails; another one is tried, if one is free. -/
def execSpareLockFail (p m : Nat) (up : Bool) (plane : Nat) (s : State) : Out :=
  match s.lane p m plane up with
  | .locking k _ f =>
    let was := s
    let s := (s.spareOut p m plane up k).clearReplays p m up [plane]
    match s.freeSpare p m plane up with
    | some j =>
      let s := s.setLane p m plane up (.locking j s.now f)
      .next ((s.laneRecord p m up plane opSpare (64 + k) 0).settleLanes was p m up [plane])
    | none =>
      let s := s.setLane p m plane up (.dead f)
      .next (((s.laneRecord p m up plane opSpare (64 + k) 0).laneRecord p m up plane opDegrade f 0).settleLanes was p m up [plane])
  | _ => .next s

/-! ## The end of a resume; retrains -/

/-- The entry of the resume trace of a channel direction, as its exchange has just ended (R384). -/
def State.resumed (s : State) (l : LinkId) (t : Nat) : Resumed :=
  let k := s.link l
  { num := k.resumes + 1, time := t, why := k.why, ack := k.ack, sender := (k.freed, k.used), receiver := (k.offered, k.rxUsed), adopted := (k.offered, k.used),
    q0 := k.ack, live := s.live l, upTo := some k.next, replayed := 0, discarded := 0, passed := none }

/-- RESUME_COMPLETE: both ends hold the receiver's ACK and FREED and the sender's USED; sending starts again from ACK. -/
def execResumeComplete (l : LinkId) (s : State) : Out :=
  let k := s.link l
  match k.resume with
  | none => .next s
  | some t =>
    if (s.live l).isEmpty then .next s else
    let s := (s.stoodStill l).adoptAck l k.expect
    let k := s.link l
    .next (s.setLink l { k with
      resume := none
      freed := k.offered
      rxUsed := k.used
      ahead := seqSub k.next k.expect
      q0 := k.ack
      sendFrom := k.ack
      ackAt := s.now
      resumes := k.resumes + 1
      replay := some (k.resumes + 1)
      trace := (s.resumed l t :: k.cutReplay.trace).take 16 })

/-- RETRAIN: 16 replays within 100 µs without a lane failure, or a request by system software; nothing moves, and what is under way on
the lanes of the direction, chunks and the flits of the other direction's data, is lost (log entry 27). -/
def execRetrain (l : LinkId) (sw : Bool) (s : State) : Out :=
  let k := s.link l
  let many := decide (16 ≤ (k.replays.filter (fun t => s.now < t + 100000)).length)
  if l.part = mgmt ∨ !(s.pkg l.port).up ∨ k.down ∨ k.retrain.isSome ∨ !(sw || many) then .next s else
  let b := backOf l
  let s := (s.stoodStill l).setLink l { k with retrain := some s.now, resume := none, replays := [], flights := [] }
  let s := s.setLink b { s.link b with flits := [] }
  .next (s.optical l opRetrain 0 0 0)

/-! ## The channel allocation table (R153) -/

/-- The transfers of a partition that have active grant requests to a module. -/
def State.requesting (s : State) (p n m : Nat) : List Nat :=
  (s.xfers.filter (fun e => e.2.port == p && e.2.part == n && e.2.pmod == m && e.2.req.any (fun r => r.state == .active))).map (fun e => e.1)

/-- The transfers that a write of an entry waits for: those with requests active now for the partition that it takes the plane from;
none where there are none. -/
def State.holders (s : State) (p m plane : Nat) : Option (List Nat) :=
  let l := ((s.planeOwner p m plane).map (fun n => s.requesting p n m)).getD []
  if l.isEmpty then none else some l

/-- Whether a write that takes a plane from a partition must wait still: a request that was active when it was written is not
complete, or a chunk of the channel is not acknowledged. -/
def State.planeBusy (s : State) (p n m : Nat) (wait : Option (List Nat)) : Bool :=
  let out (up : Bool) : Bool := let k := s.link ⟨p, n, m, up⟩; k.next != k.ack
  match wait with
  | none => false
  | some l => l.any (fun i => (s.xfer i).req.isSome) || out true || out false

/-- Whether a channel is in a retrain in a direction. -/
def State.retraining (s : State) (p n m : Nat) : Bool :=
  (s.link ⟨p, n, m, true⟩).retrain.isSome || (s.link ⟨p, n, m, false⟩).retrain.isSome

/-- The effect of a plane that joins or leaves a channel: a resume of each direction, or DOWN; without a plane it is suspended. -/
def State.planesChanged (s : State) (p n m : Nat) (why : Trigger) : State :=
  if (s.planes p n m).isEmpty then s
  else
    let s := s.afterLanes ⟨p, n, m, true⟩ why
    if (s.link ⟨p, n, m, true⟩).down then s else s.afterLanes ⟨p, n, m, false⟩ why

/-- Whether a write of an entry that waits for some grant requests, or for none, may take effect now. -/
def State.allocReady (s : State) (p m plane : Nat) (v : BitVec 16) (wait : Option (List Nat)) : Bool :=
  let old := s.planeOwner p m plane
  let new := if bits v.toNat 15 15 = 1 then some (bits v.toNat 4 0) else none
  old == new || (old.all (fun n => !s.planeBusy p n m wait && !s.retraining p n m) && new.all (fun n => !s.retraining p n m))

/-- A write of an entry of the channel allocation table takes effect. -/
def State.allocSet (s : State) (p m plane : Nat) (v : BitVec 16) : State :=
  let old := s.planeOwner p m plane
  let s := s.setPkg p { s.pkg p with alloc := Map.set (s.pkg p).alloc (16 * m + plane) (v &&& 0x801F#16) }
  let new := s.planeOwner p m plane
  if old = new then s
  else
    let s := old.toList.foldl (fun s n => s.planesChanged p n m (.plane plane false)) s
    new.toList.foldl (fun s n => s.planesChanged p n m (.plane plane true)) s

/-- The writes that wait take effect as soon as their conditions hold; those to one entry in the order they were written (DESIGN
CHOICE, log entry 46: R153 says nothing of several). A request that is complete is waited for no more. -/
def State.allocRetry (s : State) (p : Nat) : State :=
  let k := s.pkg p
  if k.allocWait.isEmpty then s else
  let still (e : Nat × Nat × BitVec 16 × Option (List Nat)) : Nat × Nat × BitVec 16 × Option (List Nat) :=
    (e.1, e.2.1, e.2.2.1, e.2.2.2.map (fun l => l.filter (fun i => (s.xfer i).req.isSome)))
  let ws := k.allocWait.map still
  ws.foldl (fun s e =>
    let k := s.pkg p
    if k.allocWait.find? (fun f => f.1 == e.1 && f.2.1 == e.2.1) == some e && s.allocReady p e.1 e.2.1 e.2.2.1 e.2.2.2 then
      (s.setPkg p { k with allocWait := k.allocWait.erase e }).allocSet p e.1 e.2.1 e.2.2.1
    else s) (s.setPkg p { k with allocWait := ws })

/-- CHANNEL_ALLOC_WRITE (R153): the write waits until its conditions hold, then a plane joins or leaves the channel. -/
def execChannelAllocWrite (p m plane : Nat) (v : BitVec 16) (s : State) : Out :=
  if 64 ≤ m ∨ 16 ≤ plane then .next s else
  let k := s.pkg p
  let wait := s.holders p m plane
  if k.allocWait.all (fun e => !(e.1 == m && e.2.1 == plane)) && s.allocReady p m plane v wait then .next (s.allocSet p m plane v)
  else .next (s.setPkg p { k with allocWait := k.allocWait ++ [(m, plane, v, wait)] })

/-- RETRAIN_END: at most 100 µs after it began; lanes that fail training are DEAD, and the channel goes on or goes DOWN. -/
def execRetrainEnd (l : LinkId) (dead : List Nat) (s : State) : Out :=
  let k := s.link l
  match k.retrain with
  | none => .next s
  | some t =>
    if t + 100000 < s.now then .next s else
    let mine := (s.planes l.port l.part l.pmod).filter (fun p => dead.contains p)
    let was := s
    let s := mine.foldl (fun s p =>
      let x := s.lane l.port l.pmod p l.up
      s.setLane l.port l.pmod p l.up (.dead (x.laser (bandA l.port l.pmod l.up)))) s
    let s := (s.stoodStill l).setLink l { k with retrain := none }
    let s := if (s.live l).length < downLimit (s.planes l.port l.part l.pmod).length then s.channelDown l
      else (s.optical l opRetrain 0 0 0).beginResume l .retrained
    let g : LinkId := ⟨l.port, mgmt, l.pmod, l.up⟩
    let s := if s.live g = was.live g then s else s.beginResume g (.lanes (s.laneChanges was l.port l.pmod l.up mine))
    .next (s.allocRetry l.port)

/-! ## Re-commissioning (R238, R366) -/

/-- The bit of CHANCTL that starts a re-commissioning is written: it acts on a channel that is DOWN, unless one is busy; the control
message goes to the module on the management channel (R389). -/
def execChanctlRecommission (p n m : Nat) (s : State) : Out :=
  let k := s.pkg p
  if k.chanBusy.isSome ∨ !s.isDown p n m then .next s
  else .next ((s.setPkg p { k with chanBusy := some (n, m) }).enqueue ⟨p, mgmt, m, true⟩ (.recommission n))

/-- A package is re-commissioned (R181): the counters of its lasers start afresh, and its spares serve again. -/
def State.recommissionPackage (s : State) (p : Nat) : State := s.setPkg p { s.pkg p with lasers := [] }

/-- A lane as re-commissioning leaves it; the spares of its engines that were out of service serve again. -/
def State.freshLane (s : State) (p m : Nat) (up : Bool) (dead : List Nat) (plane : Nat) : State :=
  let s := (List.range 4).foldl (fun s k =>
    let x := s.laserAt p m up plane (64 + k)
    if x.out then s.setLaser p m up plane (64 + k) { x with out := false } else s) s
  s.setLane p m plane up (if dead.contains (if up then plane else 16 + plane) then .dead (bandA p m up) else .ok)

/-- A channel direction as re-commissioning leaves it: numbers and credits restart, the resume trace that the management processor
keeps stays (R384). -/
def Link.recommissioned (k : Link) (n : Nat) : Link :=
  { Link.blank n with resumes := k.resumes, trace := k.trace.map (fun e => { e with upTo := none }) }

/-- RECOMMISSION_COMPLETE: numbers and credits restart at 0; `dead` lists the lanes that stay DEAD, those from the module as
16 more than their plane. The control message has reached the module. -/
def execRecommissionComplete (p : Nat) (dead : List Nat) (s : State) : Out :=
  match (s.pkg p).chanBusy with
  | none => .next s
  | some (n, m) =>
    if !(s.mod m).inbox.contains (p, mgmt, .recommission n) then .next s else
    let s := s.takeInbox (.mod m) (p, mgmt, .recommission n)
    let s := s.setPkg p { s.pkg p with chanBusy := none }
    let planes := s.planes p n m
    let was := s
    let lanes (up : Bool) (s : State) : State := planes.foldl (fun s k => s.freshLane p m up dead k) s
    let s1 := lanes false (lanes true s)
    let fresh (s : State) (l : LinkId) : State := s.setLink l ((s.link l).recommissioned (s.reserve l))
    let s1 := fresh (fresh s1 ⟨p, n, m, true⟩) ⟨p, n, m, false⟩
    let s1 := [true, false].foldl (fun s up =>
      let l : LinkId := ⟨p, mgmt, m, up⟩
      if s.live l = was.live l then s else s.beginResume l (.lanes (s.laneChanges was p m up planes))) s1
    .next ([true, false].foldl (fun s up =>
      let l : LinkId := ⟨p, n, m, up⟩
      if (s.live l).length < downLimit planes.length then s.channelDown l else s) s1)

/-! ## Ageing (R181) -/

/-- Whether a laser is lit, and the lane that it lights: a band-A laser while its lane is OK, a spare while a lane holds it; none where
the lane's port at either end is dark (R17; DESIGN CHOICE, log entry 48). -/
def State.litLane (s : State) (atModule : Bool) (i plane laser : Nat) : Option (Nat × Nat) :=
  let at_ (k : Nat) : Nat × Nat := if atModule then (k, i) else (i, k)
  let lit : Option (Nat × Nat) :=
    if laser < 64 then (if s.lane (at_ laser).1 (at_ laser).2 plane (!atModule) = .ok then some (at_ laser) else none)
    else (List.range 64).map at_ |>.find? (fun e => (s.lane e.1 e.2 plane (!atModule)).spareOf = some (laser - 64))
  lit.filter (fun e => s.attached e.1 e.2 (!atModule))

/-- LASER_AGE_TICK: once a second for a laser that is lit, with the drift measured. -/
def execLaserAgeTick (atModule : Bool) (i plane laser : Nat) (drift : Int) (s : State) : Out :=
  if 16 ≤ plane ∨ 68 ≤ laser then .next s else
  match s.litLane atModule i plane laser with
  | none => .next s
  | some (p, m) =>
    if !(s.pkg p).up then .next s else
    let x := s.laserAt p m (!atModule) plane laser
    let on := min (x.ontime + 1) 0xFFFFFFFF
    let d := max (-32768) (min 32767 drift)
    let aged := x.aged || decide (180000000 ≤ on) || decide (100 ≤ d)
    let s := s.setLaser p m (!atModule) plane laser { x with ontime := on, drift := d, aged := aged }
    .next (if aged && !x.aged then s.laneRecord p m (!atModule) plane opAge laser on else s)

end Sys2Proof.Machine
end

