-- ==== Sys2Proof/Machine/Control.lean ====
section
/-! DEFINITION. Branches, EXIT, reconvergence masks, PPT, rendezvous points with speculation, queues and signal flags, GROW,
TASKDEC, YIELD, system registers, WAITEV, TRAP, BRK and TRET (R306 to R329, R199 to R205). -/
namespace Sys2Proof.Machine

/-! ## Branches (R307, R308) -/

/-- Whether some branch target is not a target (R71). -/
def State.badTarget (s : State) (ts : List Nat) : Bool := ts.any (fun o => !s.targetOk s.curTeam o)

/-- Sends lanes to their targets: the packet ends for them (R66). -/
def Stream.jump {w : Nat} (st : Stream w) (ts : List (Nat × Nat)) : Stream w :=
  let m := maskOf st.n (fun l => ts.any (fun e => e.1 == l))
  let st1 : Stream w := { st with vpc := (List.range st.n).map (fun l => ((ts.find? (fun e => e.1 == l)).map (fun e => e.2)).getD (st.pcOf l)) }
  st1.leavePkt m

/-- A branch of some lanes; the core must hold the code of the targets to check them. -/
def State.branch (s : State) (ts : List (Nat × Nat)) (f : State → State) : State :=
  let os := ts.map (fun e => e.2)
  if let some o := os.find? (fun o => !s.codeHere s.curTeam o) then { s with slotEnd := .noLine o }
  else if s.badTarget os then s.trap .badTarget
  else ((f s).modCur (fun _ st => st.jump ts)).done

/-- The target of a relative branch (R71, R307). -/
def relTarget (pc : Nat) (o : BitVec 18) : Nat :=
  let v := (pc : Int) + 4 * o.toInt
  if v < 0 then 2 ^ 32 else v.toNat

/-- BRA. -/
def execBra (g : BitVec 5) (o : BitVec 18) (s : State) : Out :=
  .next (s.withUse both 0 fun s _ =>
    let ls := s.onCur (fun _ st => lanesOf (st.active g.toNat) st.n)
    let target := relTarget (s.onCur (fun _ st => st.pc)) o
    s.branch (ls.map (fun l => (l, target))) id)

/-- CALL: the link register of each lane that branches is v47 or s31. -/
def execCall (g : BitVec 5) (o : BitVec 18) (s : State) : Out :=
  let lane := s.inLane
  .next (s.withUse { both with ok := !lane || decide (6 ≤ s.onCur (fun _ st => st.blocks)) } 0 fun s _ =>
    let ls := s.onCur (fun _ st => lanesOf (st.active g.toNat) st.n)
    let pc := s.onCur (fun _ st => st.pc)
    let clk := s.clkOf s.curTeam
    s.branch (ls.map (fun l => (l, relTarget pc o))) fun s =>
      if ls.isEmpty then s else
      s.modCur (fun w st => st.result clk 1 (.reg (if lane then 47 else 31))
        (valsOf st.n (st.active g.toNat) (fun _ => BitVec.ofNat w (nextSlot pc false)))))

/-- BRX and RET: each lane branches to its own value of A. -/
def State.branchTo (s : State) (a : Reg) (g : BitVec 5) : State :=
  s.withPeek { both with srcs := [a], keys := [a] } (s.onCur (fun _ st => st.active g.toNat)) fun s pops qs =>
    let c := s.ctx pops
    let ts := s.onCur (fun _ st => (lanesOf (st.active g.toNat) st.n).map (fun l => (l, (st.value c a l).toNat)))
    s.branch ts (fun s => qs.foldl State.pop s)

/-- BRX. -/
def execBrx (a : Reg) (g : BitVec 5) (s : State) : Out := .next (s.branchTo a g)
/-- RET. -/
def execRet (a : Reg) (g : BitVec 5) (s : State) : Out := .next (s.branchTo a g)

/-! ## Masks and parks (R31, R32, R90, R310, R311) -/

/-- Makes waiting lanes ready after the chain of the instruction at which they wait. -/
def Stream.wake {w : Nat} (st : Stream w) (m : Word) : Stream w :=
  let st1 : Stream w := { st with vpc := (List.range st.n).map (fun l => if m.getLsbD l then st.goesOn.getD l 0 else st.pcOf l) }
  st1.setState m .ready

/-- Puts lanes into a wait on mask or point k at the current slot, which names no literal; they go on after it. -/
def Stream.park {w : Nat} (st : Stream w) (m : Word) (k : Nat) (x : LaneState) : Stream w :=
  let st1 : Stream w := { st with
    waits := (List.range st.n).map (fun l => if m.getLsbD l then k else st.waits.getD l 0)
    goesOn := (List.range st.n).map (fun l => if m.getLsbD l then nextSlot st.pc false else st.goesOn.getD l 0) }
  ((st1.setPc m st.pc).setState m x).leavePkt m

/-- Mask k. -/
def Stream.mask {w : Nat} (st : Stream w) (k : Nat) : Word := st.masks.getD k 0

/-- Whether a lane is in mask-wait on mask k. -/
def Stream.parkedOn {w : Nat} (st : Stream w) (k l : Nat) : Bool := st.laneState l == .maskWait && st.waits.getD l 0 == k

/-- After a mask has changed: lanes that no longer belong to it are ready, and the park completes if every member that is
left waits at one WAITM (R31, R311). -/
def Stream.settlePark {w : Nat} (st : Stream w) (k : Nat) : Stream w :=
  let out := maskOf st.n (fun l => st.parkedOn k l && !(st.mask k).getLsbD l)
  let st1 := st.wake out
  let mem := (lanesOf (st.mask k) st.n).filter (fun l => st1.laneState l != .exited)
  match mem with
  | [] => st1
  | l0 :: _ =>
    if mem.all (fun l => st1.parkedOn k l && st1.pcOf l == st1.pcOf l0) then st1.wake (maskOf st.n (fun l => mem.contains l)) else st1

/-- Replaces mask k. -/
def Stream.setMask {w : Nat} (st : Stream w) (k : Nat) (m : Word) : Stream w :=
  let st1 : Stream w := { st with masks := setAt st.masks k m }
  st1.settlePark k

/-- JOIN. -/
def execJoin (k : BitVec 4) (s : State) : Out :=
  .next (s.withUse { laneUse with ok := decide (k.toNat < 12) } 0 fun s _ =>
    (s.modCur (fun _ st => { st with masks := setAt st.masks k.toNat (st.mask k.toNat ||| st.ex) })).done)

/-- LEAVE. -/
def execLeave (k : BitVec 4) (s : State) : Out :=
  .next (s.withUse { laneUse with ok := decide (k.toNat < 12) } 0 fun s _ =>
    (s.modCur (fun _ st => st.setMask k.toNat (st.mask k.toNat &&& ~~~st.ex))).done)

/-- What a WAITM comes to: the packet goes on; the park completes with lanes that wait, and all stand at the next
instruction; the members wait; or MASK_DEADLOCK. -/
def Stream.waitOn {w : Nat} (st : Stream w) (k : Nat) : Option (Stream w) :=
  let p := st.ex &&& st.mask k
  let pc := st.pc
  let mem := (lanesOf (st.mask k) st.n).filter (fun l => st.laneState l != .exited)
  if p = 0 then some st.advance
  else if mem.all (fun l => p.getLsbD l || (st.parkedOn k l && st.pcOf l == pc)) then
    let others := maskOf st.n (fun l => mem.contains l && !p.getLsbD l)
    if others = 0 then some st.advance
    else
      let st1 := (st.wake others).setPc st.ex (nextSlot pc false)
      some { st1 with pkt := none }
  else if (List.range st.n).all (fun l => st.laneState l == .exited || st.laneState l == .maskWait || p.getLsbD l) then none
  else some (st.park p k .maskWait).advance

/-- Whether the current stream is in handler mode. -/
def State.handling (s : State) : Bool := s.onCur (fun _ st => st.handler.isSome)

/-- WAITM. -/
def execWaitm (k : BitVec 4) (s : State) : Out :=
  .next (s.withUse { laneUse with ok := decide (k.toNat < 12) } 0 fun s _ =>
    if s.handling then s.trap .illegalConvergence
    else if s.onCur (fun _ st => (st.waitOn k.toNat).isNone) then s.trap .maskDeadlock
    else { s.modCur (fun _ st => (st.waitOn k.toNat).getD st) with slotEnd := .none })

/-- MASKOP.read. -/
def execMaskopRead (n : Bool) (d b : Reg) (s : State) : Out :=
  let dst := resultDst true (s.onCur (fun _ st => st.blocks)) n d
  .next (s.withUse { laneUse with ok := decide (b.toNat < 12) && dst.isSome } 0 fun s _ =>
    let clk := s.clkOf s.curTeam
    (s.modCur (fun w st => st.produce clk .S (dst.getD none) (valsOf st.n st.ex (fun _ => (st.mask b.toNat).setWidth w)))).done)

/-- MASKOP.write: the value of the lowest executing lane, without exited lanes. -/
def execMaskopWrite (a b : Reg) (s : State) : Out :=
  .next (s.withUse { laneUse with srcs := [a], ok := decide (b.toNat < 12) } (s.onCur (fun _ st => st.ex)) fun s pops =>
    let c := s.ctx pops
    (s.modCur (fun _ st =>
      let v : Word := (st.value c a ((lanesOf st.ex st.n).headD 0)).setWidth 32
      st.setMask b.toNat (v &&& st.live))).done)

/-- MASKOP.clear. -/
def execMaskopClear (b : Reg) (s : State) : Out :=
  .next (s.withUse { laneUse with ok := decide (b.toNat < 12) } 0 fun s _ => (s.modCur (fun _ st => st.setMask b.toNat 0)).done)

/-! ## EXIT (R309) -/

/-- Some lanes exit: their bits leave every mask, which may complete parks; a handler whose lanes have all exited ends
(R327); a group without a lane frees its blocks. -/
def Stream.exit {w : Nat} (st : Stream w) (m : Word) : Stream w :=
  let st1 := ((st.setPc m 0xFFFFFFFF).setState m .exited).leavePkt m
  let st2 := (List.range 12).foldl (fun (t : Stream w) k => if t.mask k &&& m = 0 then t else t.setMask k (t.mask k &&& ~~~m)) st1
  let st3 : Stream w := match st2.handler with
    | some h => if h.lanes &&& st2.live = 0 then { st2 with handler := none } else st2
    | none => st2
  if st3.live = 0 then { st3 with blocks := 0, pkt := none } else st3

/-- EXIT. -/
def execExit (g : BitVec 5) (s : State) : Out :=
  .next (s.withUse { both with pauses := true } 0 fun s _ => (s.modCur (fun _ st => st.exit (st.active g.toNat))).done)

/-! ## PPT (R312) -/

/-- Whether every lane of the group that has not exited executes. -/
def State.wholeGroup (s : State) : Bool := s.onCur (fun _ st => st.ex == st.live)

/-- PPT: with a cooperative preemption pending the group halts with a light save, at the next instruction; of a packet that is not over
that is the slot at which the rest of it is entered (R92). -/
def execPpt (s : State) : Out :=
  let v := s.onCur (fun _ st => st.lit.toNat)
  .next (s.withUse { laneUse with ok := decide (bits v 15 0 < 2 ^ (s.gridOf s.curTeam).tilesDecl), pauses := true } 0 fun s _ =>
    if s.handling then s.trap .illegalConvergence
    else if s.curT.accDecl / 32 < bits v 25 16 + bits v 31 26 then s.trap .accRange
    else if s.wholeGroup && s.curT.preempt.any (fun p => p.coop) then
      s.done.modCur (fun _ st =>
        { st with halted := true, light := true, pkt := none, mid := st.pkt.map (fun k => k.pc), pptLive := some (BitVec.ofNat 32 v) })
    else s.done)

/-! ## Rendezvous points (R97, R193, R195, R199 to R203, R313 to R315) -/

/-- Saturating 16-bit counts of speculation (R180), in the order SPEC, COMMIT, ROLLBACK, NOSPEC. -/
def Team.specCount (x : Team) (k : Nat) : Team := { x with specCounts := setAt x.specCounts k (min (x.specCounts.getD k 0 + 1) 0xFFFF) }

/-- A rendezvous point of a team. -/
def Team.rv (x : Team) (k : Nat) : Rv := x.rvs.getD k Rv.blank
/-- Replaces a rendezvous point. -/
def Team.setRv (x : Team) (k : Nat) (r : Rv) : Team := { x with rvs := setAt x.rvs k r }

/-- Whether some group speculates on a point. -/
def Team.speculatesOn (x : Team) (k : Nat) : Bool := x.grps.any (fun e => match e.2.spec with | some sp => sp.rv == k && !sp.passed | none => false)

/-- RVINIT. -/
def execRvinit (a : Reg) (k : BitVec 5) (s : State) : Out :=
  .next (s.withUse { ctlUse with srcs := [a], ok := decide (k.toNat < 24) } 0 fun s _ =>
    let n := s.ctlValue a
    let r := s.curT.rv k.toNat
    if 17 < n then s.trap .illegalOperand
    else if !r.waiters.isEmpty || s.curT.speculatesOn k.toNat then s.trap .rvBusy
    else (s.setTeam s.curTeam (s.curT.setRv k.toNat { Rv.blank with expect := n })).done)

/-- Register blocks that are held on a core, by groups and by checkpoints (R13, R59). -/
def State.heldBlocks (s : State) (c : Nat) : Nat :=
  s.teams.foldl (fun n e =>
    if e.2.core == c && (e.2.place == .resident || e.2.place == .reserved) then
      e.2.grps.foldl (fun n g => n + g.2.blocks + ((g.2.spec.map (fun x => x.blocks)).getD 0)) n
    else n) 0

/-- Register blocks of a core that nobody holds. -/
def State.freeBlocks (s : State) (c : Nat) : Nat := 384 - s.heldBlocks c

/-- The groups that wait in GROW on a core: team, group, since when, slot, the wait. -/
def State.growWaits (s : State) (c : Nat) : List (Nat × Nat × Nat × Nat × List Byte) :=
  s.teams.flatMap (fun e =>
    if e.2.core == c && e.2.place == .resident then
      e.2.grps.filterMap (fun g => match g.2.hold with
        | some h => if growWanted h = 0 || g.2.halted then none else some (e.1, g.1, h.since, g.2.slot, h.pair)
        | none => none)
    else [])

/-- Whether a group may speculate past a point (R199). A group that still waits for its checkpoint counts as speculating on its point
(DESIGN CHOICE, log entry 19). -/
def State.maySpeculate (s : State) (t g k : Nat) : Bool :=
  let x := s.team t
  (s.grid x.grid).specOn && decide ((x.grp g).blocks ≤ s.freeBlocks x.core) && (s.growWaits x.core).isEmpty &&
  x.grps.all (fun e => e.1 == g || (match e.2.spec with | some sp => sp.rv == k || sp.passed | none => true))

/-- The drain of the buffer of a group that commits at a cycle (R203): its rows are requests of the group to their banks, in the order
of its first writes, behind what it has asked for before (R112, R187). -/
def Stream.drainBuf (st : Stream 32) (clk : Nat) (buf : List (Nat × List (Option Byte))) : Stream 32 :=
  buf.foldl (fun (st : Stream 32) e =>
    let held := (List.range 16).filterMap (fun i => (e.2.getD i none).map (fun v => (i, v.toNat)))
    let a : Access := { Access.blank with
      id := st.accNext, at_ := clk, kind := .store, size := 1, drain := true
      lanes := held.map (fun b => (b.1, 16 * e.1 + b.1)), data := held, rows := [e.1] }
    { st with acc := st.acc ++ [a], accNext := st.accNext + 1 }) st

/-- The stages in which a completion of the point commits: also in the cycle of a conflict (R203). -/
def SpecStage.commits : SpecStage → Bool
  | .running => true
  | .conflicted => true
  | _ => false

/-- What the completion of a point at a cycle does to a group that speculates on it. -/
def Team.settleSpec (x : Team) (k g : Nat) (v : View) (clk : Nat) : Team :=
  let st := x.grp g
  match st.spec with
  | some sp =>
    if sp.rv != k || sp.passed then x
    else
      let st1 : Stream 32 := { st with view := st.view.join v }
      match sp.stage with
      | .wanted => (x.setGrp g { st1 with spec := none }).specCount 3
      | .running => (x.setGrp g ({ st1 with spec := none }.drainBuf clk sp.buf)).specCount 1
      | .conflicted => (x.setGrp g ({ st1 with spec := none }.drainBuf clk sp.buf)).specCount 1
      | .rolling => x.setGrp g { st1 with spec := some { sp with passed := true } }
  | none => x

/-- Makes a waiter at point k ready after its RVWAIT; it acquires what the arrivals released. -/
def Stream.resume {w : Nat} (st : Stream w) (k : Nat) (v : View) : Stream w :=
  let st1 := st.wake (maskOf st.n (fun l => st.laneState l == .rvWait && st.waits.getD l 0 == k))
  { st1 with view := st1.view.join v }.bound

/-- Completes a point whose arrivals are all in (R97): waiters resume, speculators commit, A := 0. -/
def State.rvComplete (s : State) (t k : Nat) : State :=
  let x := s.team t
  let r := x.rv k
  let x := x.grps.foldl (fun y e => y.settleSpec k e.1 r.view (s.clkOf t)) x
  let x := x.setRv k { r with arrived := 0, who := [], waiters := [], view := View.none, rolled := [] }
  r.waiters.foldl (fun s q => s.modStream t q (fun _ st => st.resume k r.view)) (s.setTeam t x)

/-- The arrival of the current stream (R97, R195): counted once since the last completion. Answers nothing where A = E. -/
def State.arrive (s : State) (k : Nat) : Option State :=
  let r := s.curT.rv k
  if r.who.contains s.curSel then some s
  else if r.arrived = r.expect then none
  else
    let s := s.release .team []
    let v := s.onCur (fun _ st => st.view)
    let y : Rv := { r with arrived := r.arrived + 1, who := r.who ++ [s.curSel], view := r.view.join v }
    some (s.setTeam s.curTeam (s.curT.setRv k y))

/-- Whether every expected arrival of a point is in. -/
def Rv.full (r : Rv) : Bool := r.arrived == r.expect && r.expect != 0

/-- Whether the current stream's arrival at a point must wait for its release (R195). -/
def State.arrivalHeld (s : State) (k : Nat) : Bool := !(s.curT.rv k).who.contains s.curSel && !s.releasable .team

/-- RVARRIVE. A completing arrival in the cycle of a conflict commits (R203), but for a conflict that its own stream or an engine made
(State.releasable, log entry 18). -/
def execRvarrive (k : BitVec 5) (s : State) : Out :=
  let n := k.toNat
  .next (s.withUse { both with ok := decide (n < 24), pauses := true } 0 fun s _ =>
    if s.handling then s.trap .illegalConvergence
    else match s.arrive n with
      | none => s.trap .rvOverflow
      | some s1 =>
        if s.arrivalHeld n then s.holdSlot []
        else
          let fresh := !(s.curT.rv n).who.contains s.curSel
          if fresh && (s1.curT.rv n).full then s1.done.rvComplete s.curTeam n else s1.done)

/-- The executing lanes enter rv-wait at point k, among its waiters. -/
def State.enterRv (s : State) (k : Nat) : State :=
  let r := s.curT.rv k
  let s := s.setTeam s.curTeam (s.curT.setRv k { r with waiters := if r.waiters.contains s.curSel then r.waiters else r.waiters ++ [s.curSel] })
  (s.modCur (fun _ st => st.park st.ex k .rvWait)).done

/-- A checkpoint that holds nothing. -/
def Checkpoint.blank : Checkpoint 32 := { regs := [], preds := [], latches := [], masks := [], vpc := [], lst := [], waits := [], goesOn := [] }

/-- A speculation past point k that waits for its checkpoint. -/
def wantedSpec (k : Nat) : Spec 32 :=
  { rv := k, stage := .wanted, ckpt := Checkpoint.blank, blocks := 0, buf := [], lines := [], paused := false, passed := false, writers := [] }

/-- RVWAIT: an arrival that completes the point does not wait; RVWAIT.spec of a group asks for a checkpoint, unless the group
has rolled back from this rendezvous (R180). -/
def execRvwait (sp : Bool) (k : BitVec 5) (s : State) : Out :=
  let n := k.toNat
  .next (s.withUse { both with ok := decide (n < 24), pauses := true } 0 fun s _ =>
    if s.handling then s.trap .illegalConvergence
    else match s.arrive n with
      | none => s.trap .rvOverflow
      | some s1 =>
        if s.arrivalHeld n then s.holdSlot []
        else
          let fresh := !(s.curT.rv n).who.contains s.curSel
          let v := (s1.curT.rv n).view
          if fresh && (s1.curT.rv n).full then
            ((s1.modCur (fun _ st => { st with view := st.view.join v }.bound)).rvComplete s.curTeam n).done
          else
            let t := s.curTeam
            match s.curSel with
            | .ctl => s1.enterRv n
            | .grp g =>
              let s2 := s1.enterRv n
              if !sp then s2
              else if s2.maySpeculate t g n && ((s2.team t).grp g).spec.isNone && !((s2.team t).rv n).rolled.contains (.grp g) then
                let st := (s2.team t).grp g
                s2.setTeam t ((s2.team t).setGrp g { st with spec := some (wantedSpec n) })
              else s2.setTeam t ((s2.team t).specCount 3))

/-- A group with what is due by now visible (R67). -/
def State.settled (s : State) (t g : Nat) : Stream 32 := ((s.team t).grp g).settle (s.clkOf t) false

/-- Whether nothing of a group is outstanding that writes a register or a latch, and no scratchpad store of it (R187, R192, R199,
R202). -/
def State.quiet (s : State) (t g : Nat) : Bool :=
  let st := s.settled t g
  st.pend.isEmpty && st.acc.all (fun a => a.near && a.kind == .store) && (s.farsOf t (.grp g)).all (fun f => !f.ret)

/-- SPEC_CHECKPOINT: once its register writes are complete, a group takes its checkpoint and issues on past the RVWAIT; if it
may no longer speculate it only waits (R59, R199). -/
def execSpecCheckpoint (t g : Nat) (s : State) : Out :=
  let x := s.team t
  let st := s.settled t g
  match st.spec with
  | some sp =>
    if sp.stage != .wanted || !s.quiet t g || x.place != .resident then .next s
    else if !s.maySpeculate t g sp.rv then .next (s.setTeam t ((x.setGrp g { st with spec := none }).specCount 3))
    else
      let ck : Checkpoint 32 :=
        { regs := st.regs, preds := st.preds, latches := st.latches, masks := st.masks, vpc := st.vpc, lst := st.lst, waits := st.waits
          goesOn := st.goesOn }
      let st1 := st.wake (maskOf st.n (fun l => st.laneState l == .rvWait && st.waits.getD l 0 == sp.rv))
      let sp1 : Spec 32 := { sp with stage := .running, ckpt := ck, blocks := st.blocks }
      let r := x.rv sp.rv
      .next (s.setTeam t (((x.setGrp g { st1 with spec := some sp1 }).setRv sp.rv
        { r with waiters := r.waiters.filter (fun q => q != .grp g) }).specCount 0))
  | none => .next s

/-- A group back at its checkpoint, in rv-wait with its arrival standing (R202). -/
def Stream.restore (st : Stream 32) (c : Checkpoint 32) : Stream 32 :=
  { st with regs := c.regs, preds := c.preds, latches := c.latches, latchNew := [], masks := c.masks, vpc := c.vpc, lst := c.lst,
            waits := c.waits, goesOn := c.goesOn, mOwner := copies 32 0, spec := none, pkt := none, hold := none, mid := none, ready := none }

/-- Rolls a group back at a cycle; one whose point has completed meanwhile is ready. -/
def Team.rollback (x : Team) (g clk : Nat) : Team :=
  let st := (x.grp g).settle clk false
  match st.spec with
  | some sp =>
    let st1 := st.restore sp.ckpt
    let y := x.specCount 2
    if sp.passed then y.setGrp g (st1.resume sp.rv View.none)
    else
      let r := y.rv sp.rv
      (y.setGrp g st1).setRv sp.rv { r with waiters := r.waiters ++ [.grp g], rolled := r.rolled ++ [.grp g] }
  | none => x

/-- SPEC_ROLLBACK: after a conflict or a fault, once everything issued while speculating is complete. -/
def execSpecRollback (t g : Nat) (s : State) : Out :=
  let x := s.team t
  match (x.grp g).spec with
  | some sp => if sp.stage != .rolling || !s.quiet t g then .next s else .next (s.setTeam t (x.rollback g (s.clkOf t)))
  | none => .next s

/-- RVSTAT. -/
def execRvstat (d : Reg) (l : Bool) (s : State) : Out :=
  let dst := dstOf false 0 d.toNat
  .next (s.withUse { ctlUse with ok := dst.isSome } 0 fun s _ =>
    let c := s.curT.specCounts
    let v := c.getD 3 0 * 2 ^ 48 + c.getD 2 0 * 2 ^ 32 + c.getD 1 0 * 2 ^ 16 + c.getD 0 0
    let clk := s.clkOf s.curTeam
    let s := s.modCur (fun w st => st.produce clk .S dst (valsOf st.n st.ex (fun _ => BitVec.ofNat w v)))
    (if l then s.setTeam s.curTeam { s.curT with specCounts := copies 4 0 } else s).done)

/-! ## Queues and signal flags (R94, R131 to R133, R193, R316, R317) -/

/-- QPUSH: held while the queue is full and until the release of R195; the entry is visible from the next cycle, and behind what its own
chain has started once that is complete too (R65, R195). -/
def execQpush (a : Reg) (k : BitVec 2) (s : State) : Out :=
  .next (s.withUse { ctlUse with srcs := [a] } 0 fun s _ =>
    let q := s.curT.queues.getD k.toNat []
    if 8 ≤ q.length || !s.releasableTo .team then s.holdSlot [] else
    let v := s.ctlValue a
    let after := if s.releasable .team then none else some (s.onCur (fun _ st => st.accNext))
    let s := s.release .team []
    let e : QEntry := { val := BitVec.ofNat 32 v, from_ := s.clkOf s.curTeam + 1, after := after, view := s.onCur (fun _ st => st.view) }
    (s.setTeam s.curTeam { s.curT with queues := setAt s.curT.queues k.toNat (q ++ [e]) }).done)

/-- SIGSET: a waiter sees it from the next cycle on (R196). -/
def execSigset (k : BitVec 4) (s : State) : Out :=
  .next (s.withUse { both with pauses := true } 0 fun s _ =>
    if !s.releasable .team then s.holdSlot [] else
    let s := s.release .team []
    let f := s.curT.sigs.getD k.toNat SigFlag.blank
    let v := s.onCur (fun _ st => st.view)
    let seen := if f.set then f.from_ else s.clkOf s.curTeam + 1
    let s := s.setTeam s.curTeam { s.curT with sigs := setAt s.curT.sigs k.toNat { f with set := true, from_ := seen, view := f.view.join v } }
    (s.event s.curTeam 2).done)

/-- The order among consuming waiters: who began first, then the control thread, then the lowest group (R94). -/
def waiterRank : Sel → Nat
  | .ctl => 0
  | .grp g => g + 1

/-- Since when a stream's slot waits for what its instruction waits for, if it does. -/
def State.heldSince (s : State) (t : Nat) (q : Sel) : Option Nat :=
  s.onStream t q (fun _ st => (st.hold.filter (fun h => h.own)).map (fun h => h.since))

/-- Since when a stream waits in a consuming SIGWAIT: the first cycle in which it qualified on every other count, whether its port
tried it then or not (R317). -/
def State.waitsSince (s : State) (t : Nat) (q : Sel) : Option Nat :=
  (s.heldSince t q).or (s.onStream t q (fun _ st => st.ready))

/-- Whether the current stream is the first of the consuming waiters of a flag: of those noted that still stand at their SIGWAIT. -/
def State.firstWaiter (s : State) (k : Nat) (f : SigFlag) : Bool :=
  let mine := (s.waitsSince s.curTeam s.curSel).getD (s.clkOf s.curTeam)
  f.waiters.all (fun q => q == s.curSel || s.consumesNext s.curTeam q != some k || (match s.waitsSince s.curTeam q with
    | some t => decide (mine < t) || (mine == t && decide (waiterRank s.curSel < waiterRank q))
    | none => true))

/-- SIGWAIT: held until the flag is set, and in the consuming form until no other waiter comes first. -/
def execSigwait (c : Bool) (k : BitVec 4) (s : State) : Out :=
  .next (s.withUse { both with pauses := true, mem := true } 0 fun s _ =>
    let f := s.curT.sigs.getD k.toNat SigFlag.blank
    let put (g : SigFlag) : State := s.setTeam s.curTeam { s.curT with sigs := setAt s.curT.sigs k.toNat g }
    if !f.set || decide (s.clkOf s.curTeam < f.from_) || (c && !s.firstWaiter k.toNat f) then
      (if c && !f.waiters.contains s.curSel then put { f with waiters := f.waiters ++ [s.curSel] } else s).holdSlot []
    else
      let s1 := if c then put { set := false, from_ := 0, view := View.none, waiters := f.waiters.filter (fun q => q != s.curSel) } else s
      (s1.modCur (fun _ st => { st with view := st.view.join f.view, ready := none }.bound)).done)

/-! ## GROW (R59 to R61, R318) -/

/-- Whether GROW may execute: by every lane that has not exited, and not in a handler. -/
def State.growConverged (s : State) : Bool := s.wholeGroup && !s.handling

/-- The wait of a GROW held at the current slot. -/
def State.growPair (s : State) : List Byte :=
  s.onCur (fun _ st => match st.hold with
    | some h => if h.pc = st.pc then h.pair else []
    | none => [])

/-- Writes the result of a GROW. -/
def State.growDone (s : State) (p : BitVec 6) (v : Bool) : State :=
  let clk := s.clkOf s.curTeam
  (s.modCur (fun _ st => st.setp clk .S p.toNat (valsOf st.n st.ex (fun _ => v)))).done

/-- GROW.req: held until GROW_GRANT has granted or denied it. -/
def execGrowReq (p n : BitVec 6) (s : State) : Out :=
  .next (s.withUse { laneUse with ok := decide (1 ≤ p.toNat ∧ p.toNat ≤ 31 ∧ 1 ≤ n.toNat), pauses := true } 0 fun s _ =>
    if !s.growConverged then s.trap .illegalConvergence
    else match s.growPair with
      | [_, 1] => s.growDone p true
      | [_, 0] => s.growDone p false
      | [m, 2, u] => s.holdSlot [m, 2, u]
      | _ => s.holdSlot [BitVec.ofNat 8 n.toNat, 2])

/-- A group without its highest blocks: what is in flight to their registers writes nothing (R86, R318). -/
def Stream.shrink {w : Nat} (st : Stream w) (n : Nat) : Stream w :=
  let b := st.blocks - n
  let gone (p : PendWrite w) : Bool := match p.dest with | .reg r => decide (b ≤ r / 8) | .pred _ => false
  { st with
    blocks := b
    regs := st.regs.filter (fun e => e.1 / 8 < b)
    pend := st.pend.map (fun p => if gone p then { p with vals := copies p.vals.length none } else p)
    acc := st.acc.map (fun a => if a.dest.any (fun r => decide (b ≤ r / 8)) then { a with dest := none } else a) }

/-- GROW.rel. -/
def execGrowRel (p n : BitVec 6) (s : State) : Out :=
  let blocks := s.onCur (fun _ st => st.blocks)
  .next (s.withUse { laneUse with ok := decide (1 ≤ p.toNat ∧ p.toNat ≤ 31 ∧ 1 ≤ n.toNat ∧ n.toNat < blocks), pauses := true } 0 fun s _ =>
    if !s.growConverged then s.trap .illegalConvergence
    else (s.modCur (fun _ st => st.shrink n.toNat)).growDone p true)

/-- Answers a waiting GROW. -/
def State.growAnswer (s : State) (t g : Nat) (pair : List Byte) (more : Nat) : State :=
  let st := (s.team t).grp g
  s.setTeam t ((s.team t).setGrp g { st with blocks := st.blocks + more, hold := st.hold.map (fun h => { h with pair := pair }) })

/-- Marks the requests that have waited 4,096 cycles as urgent. -/
def State.growUrge (s : State) (c : Nat) : State :=
  (s.growWaits c).foldl (fun s e =>
    match e.2.2.2.2 with
    | [n, 2] => if e.2.2.1 + 4096 ≤ (s.core c).clk then s.growAnswer e.1 e.2.1 [n, 2, 1] 0 else s
    | _ => s) s

/-- GROW_URGENT. -/
def execGrowUrgent (c : Nat) (s : State) : Out := .next (s.growUrge c)

/-- Whether a waiting request comes before another: older, then the lower slot. -/
def growBefore (a b : Nat × Nat × Nat × Nat × List Byte) : Bool :=
  decide (a.2.2.1 < b.2.2.1) || (a.2.2.1 == b.2.2.1 && decide (a.2.2.2.1 < b.2.2.2.1))

/-- The first of some waiting requests. -/
def growFirst (l : List (Nat × Nat × Nat × Nat × List Byte)) : Option (Nat × Nat × Nat × Nat × List Byte) :=
  l.foldl (fun o e => match o with | none => some e | some f => if growBefore e f then some e else some f) none

/-- The blocks a waiting request asks for. -/
def growAsks (e : Nat × Nat × Nat × Nat × List Byte) : Nat := (e.2.2.2.2.headD 0).toNat

/-- Whether every resident group of a core that has not exited waits in GROW. -/
def State.allGrow (s : State) (c : Nat) : Bool :=
  s.teams.all (fun e => e.2.core != c || e.2.place != .resident ||
    e.2.grps.all (fun g => g.2.live == 0 || (g.2.hold.any (fun h => growWanted h != 0))))

/-- GROW_GRANT (R59, R60): the oldest request that fits is granted, among urgent ones only the oldest; when every resident
group waits and none fits, the one in the highest slot is denied. -/
def execGrowGrant (c : Nat) (s : State) : Out :=
  let s := s.growUrge c
  let l := s.growWaits c
  let free := s.freeBlocks c
  let urgent := l.filter (fun e => e.2.2.2.2.length = 3)
  let fits (e : Nat × Nat × Nat × Nat × List Byte) : Bool := decide (growAsks e ≤ free)
  let pick := if urgent.isEmpty then growFirst (l.filter fits) else (growFirst urgent).filter fits
  match pick with
  | some e => .next (s.growAnswer e.1 e.2.1 [BitVec.ofNat 8 (growAsks e), 1] (growAsks e))
  | none =>
    if l.isEmpty || !s.allGrow c then .next s
    else match l.foldl (fun o e => match o with | none => some e | some f => if f.2.2.2.1 < e.2.2.2.1 then some e else some f) none with
      | some e => .next (s.growAnswer e.1 e.2.1 [BitVec.ofNat 8 (growAsks e), 0] 0)
      | none => .next s

/-! ## TASKDEC and YIELD (R320, R321) -/

/-- TASKDEC. -/
def execTaskdec (k : BitVec 8) (s : State) : Out :=
  .next (s.withUse ctlUse 0 fun s _ => (s.depDec s.curT.port s.curT.part k.toNat).done)

/-- YIELD: no architectural effect. -/
def execYield (s : State) : Out := .next (s.withUse { both with pauses := true } 0 fun s _ => s.done)

/-! ## System registers (R96 to R106, R322) -/

/-- sr.chan (R105). To a dark port no lane carries chunks, whatever its lanes were before, and STATE is what its channel came to
(DESIGN CHOICE, log entry 48: R17 says only that such a port is dark). -/
def State.chanReg (s : State) (x : Team) : Nat :=
  match (s.part x.port x.part).module (x.chansel.toNat % 64) with
  | none => 2 ^ 63
  | some (m, _) =>
    let ps := s.planes x.port x.part m
    if ps.isEmpty then 2 ^ 62
    else
      let up (p : Nat) : Lane := s.lane x.port m p true
      let dn (p : Nat) : Lane := s.lane x.port m p false
      let live := ps.filter (fun p => (up p).live && (dn p).live && s.attached x.port m true && s.attached x.port m false)
      let onSpare (y : Lane) : Bool := match y with | .spare _ => true | _ => false
      let spare := ps.filter (fun p => onSpare (up p) || onSpare (dn p))
      let mask (l : List Nat) : Nat := l.foldl (fun n p => n + 2 ^ p) 0
      s.combined x.port x.part m * 2 ^ 48 + mask live * 2 ^ 32 + mask spare * 2 ^ 16 + live.length

/-- sr.lage (R106). -/
def State.lageReg (s : State) (x : Team) : Nat :=
  let sel := x.lagesel.toNat
  let l := bits sel 10 4
  if 68 ≤ l then 0 else
  let y := Map.get (s.pkg x.port).lasers (laserKey (bits sel 3 0) l) Laser.blank
  y.ontime * 2 ^ 32 + (BitVec.ofInt 16 y.drift).toNat * 2 ^ 16 + (if y.aged then 2 ^ 15 else 0)

/-- The rank of a package in a span (R160). -/
def Grid.rank (g : Grid) (port : Nat) : Nat :=
  if g.spanN = 1 then 0 else ((List.range port).filter (fun i => bitOf (g.field 48 8) i)).length

/-- The value of a system register, if the number is not reserved (R98). -/
def State.sysReg (s : State) (t n : Nat) : Option DWord :=
  let x := s.team t
  let g := s.grid x.grid
  match n with
  | 0x000 => some (s.part x.port x.part).caphead
  | 0x001 => some (BitVec.ofNat 64 (g.rank x.port * 2 ^ 58 + (g.spanN - 1) * 2 ^ 52 + g.depth * 2 ^ 48 + g.num))
  | 0x002 => some (BitVec.ofNat 64 (g.nteams * 2 ^ 32 + g.res / 4 * 4))
  | 0x010 => some x.lrbase
  | 0x011 => some x.pptto
  | 0x012 => some x.ltrapvec
  | 0x013 => some x.ctrapvec
  | 0x030 => some x.mxerr
  | 0x040 => some x.chansel
  | 0x041 => some (BitVec.ofNat 64 (s.chanReg x))
  | 0x042 => some x.lagesel
  | 0x043 => some (BitVec.ofNat 64 (s.lageReg x))
  | _ => if 0x020 ≤ n ∧ n ≤ 0x02F then some ((x.tsh.getD (n - 0x020) 0).setWidth 64) else none

/-- A team after a write of a system register, under each field's access (R5, R96, R99, R103, R104); a clear of sr.mxerr comes
before the errors of its cycle. -/
def Team.sysWrite (x : Team) (n : Nat) (v : DWord) : Team :=
  match n with
  | 0x010 => { x with lrbase := v &&& ~~~0x7F#64 }
  | 0x011 => { x with pptto := v &&& 0xFFFFFFFF#64 }
  | 0x012 => { x with ltrapvec := v &&& 0xFFFFFFFF#64 }
  | 0x013 => { x with ctrapvec := v &&& 0xFFFFFFFF#64 }
  | 0x030 =>
    let clear : DWord := ~~~(v &&& 0xC000000000000000#64)
    if x.mxErrs.isEmpty then { x with mxerr := x.mxerr &&& clear }
    else { x with mxerr := x.mxErrs.foldl mxRecord (x.mxOld &&& clear), mxOld := x.mxOld &&& clear }
  | 0x040 => { x with chansel := v &&& 0x3F#64 }
  | 0x042 => { x with lagesel := v &&& 0x7FF#64 }
  | _ => if 0x020 ≤ n ∧ n ≤ 0x02F then { x with tsh := setAt x.tsh (n - 0x020) (v.setWidth 32 &&& 0x000FFF9F#32) } else x

/-- SRR: a w-pair of every executing lane, or a control register. -/
def execSrr (d : Reg) (n : BitVec 12) (s : State) : Out :=
  let lane := s.inLane
  let blocks := s.onCur (fun _ st => st.blocks)
  let v := s.sysReg s.curTeam n.toNat
  .next (s.withUse { both with ok := v.isSome && (if lane then pairOk blocks d.toNat else (dstOf false 0 d.toNat).isSome) } 0 fun s _ =>
    let clk := s.clkOf s.curTeam
    (s.modCur (fun w st =>
      if lane then st.producePair clk .S (some d.toNat) (valsOf st.n st.ex (fun _ => v.getD 0))
      else st.produce clk .S (dstOf false 0 d.toNat) (valsOf st.n st.ex (fun _ => (v.getD 0).setWidth w)))).done)

/-- SRW: a lane traps PERMISSION. -/
def execSrw (a : Reg) (n : BitVec 12) (s : State) : Out :=
  .next (s.withPeek { both with srcs := [a], ok := (s.sysReg s.curTeam n.toNat).isSome, pauses := true } 0 fun s _ _ =>
    if s.inLane then s.trap .permission
    else
      let v := s.onCur (fun _ st => (st.value (s.ctx []) a 0).setWidth 64)
      (s.setTeam s.curTeam (s.curT.sysWrite n.toNat v)).done)

/-! ## WAITEV (R323) -/

/-- The result of a WAITEV that is complete: the events of the first cycle, with bit 4 when the timeout falls into it or has
passed without one; the cycle of either is over. -/
def Team.waitResult (x : Team) (clk since n : Nat) : Option Nat :=
  let expired := n != 0 && decide (since + n < clk)
  if x.evs = 0 then (if expired then some 16 else none)
  else if n ≠ 0 ∧ since + n < x.evCycle then some 16
  else if clk ≤ x.evCycle then none
  else some (x.evs % 16 + (if 16 ≤ x.evs ∨ (n ≠ 0 ∧ x.evCycle = since + n) then 16 else 0))

/-- WAITEV: its first try notes the mask and the timeout, which its wait keeps; it completes in a later cycle. -/
def execWaitev (d a : Reg) (m : BitVec 4) (s : State) : Out :=
  let dst := dstOf false 0 d.toNat
  .next (s.withUse { ctlUse with srcs := [a], ok := dst.isSome } 0 fun s _ =>
    match s.keptPair 8 with
    | none =>
      let n := s.ctlValue a
      if m = 0 ∧ n = 0 then s.trap .illegalOperand
      else (s.setTeam s.curTeam { s.curT with evMask := m.toNat, evs := 0 }).holdSlot (bytesOf 8 n)
    | some b =>
      let clk := s.clkOf s.curTeam
      match s.curT.waitResult clk ((s.heldSince s.curTeam .ctl).getD clk) (ofBytes b) with
      | none => s.holdSlot b
      | some v =>
        let s := s.setTeam s.curTeam { s.curT with evMask := 0, evs := 0 }
        (s.modCur (fun w st => st.produce clk .S dst (valsOf st.n st.ex (fun _ => BitVec.ofNat w v)))).done)

/-- WAITEV_TIMEOUT: the timeout of a waiting WAITEV elapses without a selected event. -/
def execWaitevTimeout (t : Nat) (s : State) : Out :=
  let x := s.team t
  match x.ctl.hold with
  | some h =>
    let n := ofBytes h.pair
    if x.evMask = 0 ∧ n = 0 ∨ h.pair.length ≠ 8 ∨ n = 0 ∨ x.evs ≠ 0 ∨ s.clkOf t < h.since + n then .next s
    else .next (s.setTeam t { x with evs := 16, evCycle := h.since + n })
  | none => .next s

/-! ## TRAP, BRK and TRET (R328, R329) -/

/-- A trap that an instruction asks for; it pauses a speculation. -/
def State.softTrap (s : State) (t : Trap) (n : Nat) : State :=
  s.withUse { both with pauses := true } 0 fun s _ => s.takeTrap t (s.onCur (fun _ st => st.pc / 4 % 4)) n []

/-- TRAP. -/
def execTrap (i : BitVec 12) (s : State) : Out := .next (s.softTrap .software i.toNat)
/-- BRK. -/
def execBrk (i : BitVec 12) (s : State) : Out := .next (s.softTrap .brk i.toNat)

/-- TRET: the handler lanes resume at EPC or at the packet after it; a PC that is no target ends the grid. -/
def execTret (x : Bool) (s : State) : Out :=
  .next (s.withUse { both with pauses := true } 0 fun s _ =>
    match s.onCur (fun _ st => st.handler.map (fun h => h.epc)) with
    | none => s.trap .illegalOperand
    | some epc =>
      let target := if x then epc / 16 * 16 + 20 else epc
      if !s.codeHere s.curTeam target then { s with slotEnd := .noLine target }
      else if !s.targetOk s.curTeam target then { s.endGrid s.curT.grid stFaulted with slotEnd := .none }
      else { s.modCur (fun _ st => st.leaveHandler x) with slotEnd := .none })

end Sys2Proof.Machine
end

