-- ==== Sys2Proof/Machine/Launch.lean ====
section
/-! DEFINITION. The launch path (R39 to R50, R140 to R143, R160, R161, R214, R319, R355, R356): LAUNCH, queue interfaces,
completion records, the grid dispatcher, and the end of a grid. -/
namespace Sys2Proof.Machine

/-- A field of a launch packet (R160). -/
def pk (b : List Byte) (a n : Nat) : Nat := ofBytes ((b.drop a).take n)

/-- Replaces bytes of a packet. -/
def putBytes (b : List Byte) (a : Nat) (new : List Byte) : List Byte := b.take a ++ new ++ b.drop (a + new.length)

/-- Whether a partition's launch queue accepts packets and its QIs fetch (R362). -/
def Part.enabled (x : Part) : Bool := x.pctl.getLsbD 0

/-- The counter that a packet waits for, where it names one that is not zero (R39, R46). -/
def Part.waitsFor (x : Part) (b : List Byte) : Option Nat :=
  let ctl := pk b 24 4
  if bits ctl 3 3 = 1 ∧ Map.get x.depc (bits ctl 11 4) 0 ≠ 0 then some (bits ctl 11 4) else none

/-- Puts a packet on a partition's launch queue or into its hold set (R39). -/
def State.submit (s : State) (p n : Nat) (b : List Byte) (qi : Option Nat) (fn depth : Nat) (parent : Option Nat) (v : View) : State :=
  let k := s.pkg p
  let x := s.part p n
  let q : Queued :=
    { packet := b, order := k.gridsOrder, qi := qi, fn := fn, parent := parent, depth := depth, pasid := pk b 28 4 % 2 ^ 20,
      prio := pk b 24 4 % 8, held := x.waitsFor b, view := v }
  (s.setPkg p { k with gridsOrder := k.gridsOrder + 1 }).setPart p n { x with queue := x.queue ++ [q] }

/-! ## LAUNCH (R161, R319) -/

/-- What a descriptor fails as it is read, in the order of R319, with the address that the trap record carries. -/
def State.launchFault (s : State) (b : List Byte) : Option (Trap × Nat) :=
  let crec := pk b 56 8
  if bits (pk b 0 8) 23 13 ≠ 0 ∨ pk b 20 4 % 4 ≠ 0 ∨ pk b 24 4 / 4096 ≠ 0 ∨ pk b 28 4 ≠ 0 ∨ pk b 44 4 ≠ 0 ∨ pk b 48 8 ≠ 0 then
    some (.illegalOperand, 0)
  else if crec ≠ 0 ∧ (crec < 0x40000000 ∨ 0x80000000 ≤ crec ∨ crec % 32 ≠ 0) then some (.illegalOperand, 0)
  else if crec ≠ 0 ∧ !s.inNear s.curTeam crec 32 then some (.nearBounds, crec)
  else if crec ≠ 0 ∧ (s.nearAt s.curTeam crec).2 ∧ !s.secure s.curTeam then some (.world, crec)
  else if 10 ≤ (s.gridOf s.curTeam).depth then some (.depthExceeded, 0)
  else none

/-- Queues the child of the current team's grid: the parent's PASID and function, one level deeper (R47, R161). -/
def State.launchChild (s : State) (b : List Byte) : State :=
  let s := s.release .package []
  let x := s.curT
  let g := s.grid x.grid
  s.submit x.port x.part (putBytes b 28 (bytesOf 4 g.pasid)) none g.fn (g.depth + 1) (some x.grid) (s.onCur (fun _ st => st.view))

/-- LAUNCH: its chain waits for the thread's earlier accesses, which the descriptor is read behind (R187); it is held until its release may
be made and a place is free (R140, R214), with what it has read. -/
def execLaunch (a : Reg) (s : State) : Out :=
  .next (s.withPeek { ctlUse with srcs := [a], mem := true } 0 fun s _ _ =>
    let d := s.ctlValue a
    if (s.keptPair 64).isNone && d % 64 != 0 then s.trapAt .misaligned [d] else
    if let some w := s.behindAccesses then w else
    let s := s.publish s.curTeam s.curSel true allDies
    let r : State × Except Trap (Option (List Byte)) := match s.keptPair 64 with
      | some b => (s, .ok (some b))
      | none => s.readRecord d 64
    match r.2 with
    | .error t => r.1.trapAt t [d]
    | .ok none => r.1
    | .ok (some b) =>
      match r.1.launchFault b with
      | some (t, at_) => r.1.trapAt t [at_]
      | none =>
        let x := r.1.part r.1.curT.port r.1.curT.part
        if !r.1.releasable .package || !x.enabled || decide (512 ≤ x.queue.length) then r.1.holdSlot b
        else (r.1.launchChild b).done)

/-! ## Queue interfaces (R142, R355) -/

/-- The QI behind notify page j of a function (R352): the j-th of those that QICFG assigns to it; a VF has 64 pages. -/
def State.pageQi (s : State) (p f j : Nat) : Option Nat :=
  if f ≠ 0 ∧ 64 ≤ j then none
  else
    let qis := (s.pkg p).qis
    ((List.range 4096).filter (fun q => (Map.get qis q Qi.blank).fn == f))[j]?

/-- A write to a notify page: taken by an enabled QI that accepts it, else ignored and counted. -/
def State.notify (s : State) (p f j : Nat) (g : Qi → Option Qi) : State :=
  match s.pageQi p f j with
  | none => s
  | some q =>
    let x := s.qi p q
    match (if x.en then g x else none) with
    | some y => s.setQi p q y
    | none => s.setQi p q { x with ignored := sat32 x.ignored }

/-- NOTIFY_TAIL_WRITE: at offset 0; a release by the host at system scope (R214). -/
def execNotifyTailWrite (p f j : Nat) (v : Word) (s : State) : Out :=
  .next (s.notify p f j (fun x =>
    if (x.tail - x.head).toNat ≤ (v - x.head).toNat ∧ (v - x.head).toNat ≤ 2 ^ x.log2 then
      some { x with tail := v, tails := if v = x.tail then x.tails else x.tails ++ [(v, (s.pkg p).pos)] }
    else none))

/-- NOTIFY_LEVEL_WRITE: at offset 0x40. -/
def execNotifyLevelWrite (p f j : Nat) (v : Word) (s : State) : Out :=
  .next (s.notify p f j (fun x => if v.toNat ≤ 7 then some { x with level := v.toNat } else none))

/-- COMPLETION_HEAD_WRITE: at offset 0x80. -/
def execCompletionHeadWrite (p f j : Nat) (v : Word) (s : State) : Out :=
  .next (s.notify p f j (fun x => if (v - x.chead).toNat ≤ (x.written - x.chead).toNat then some { x with chead := v } else none))

/-- The control word of a QI (R355). -/
def Qi.word (x : Qi) : Nat := (if x.en then 2 ^ 31 else 0) + x.part * 2 ^ 22 + x.fn * 2 ^ 11 + x.log2

/-- Counts a register write that is ignored. -/
def State.ignoredWrite (s : State) (p : Nat) : State := s.setPkg p ((s.pkg p).count cntRegIgnored)

/-- QICFG_WRITE (R355): reserved bits are dropped; a bad LOG2, and a change while EN = 1 other than clearing EN alone, is
ignored and counted; setting EN starts all counts at 0, those of the records reserved and written too, of which R355 says nothing (DESIGN
CHOICE, log entry 46). -/
def execQicfgWrite (p q : Nat) (v : Word) (s : State) : Out :=
  let x := s.qi p q
  let n := v.toNat
  let y : Qi := { x with en := bits n 31 31 == 1, part := bits n 26 22, fn := bits n 21 11, log2 := bits n 4 0 }
  if y.word = x.word then .next s
  else if y.log2 < 4 ∨ 16 < y.log2 ∨ (x.en ∧ y.word + 2 ^ 31 ≠ x.word) then .next (s.ignoredWrite p)
  else if y.en then .next (s.setQi p q { y with head := 0, tail := 0, chead := 0, reserved := 0, written := 0, tails := [] })
  else .next (s.setQi p q y)

/-- Whether a QI may fetch (R140, R142, R360, R362): enabled, with a packet, a free completion entry, more than 64 free
places, in a partition that is enabled, for a function that runs. -/
def State.mayFetch (s : State) (p q : Nat) : Bool :=
  let x := s.qi p q
  let n := s.part p x.part
  x.en && n.enabled && (x.fn == 0 || (s.vf p x.fn).state == .running) && x.head != x.tail &&
  decide (n.queue.length < 448) && decide ((x.reserved - x.chead).toNat < 2 ^ x.log2)

/-- The near position that the tail write which exposed the packet at the head has released (R214). -/
def Qi.exposed (x : Qi) : Nat := ((x.tails.find? (fun e => e.1 != x.head)).map (fun e => e.2)).getD 0

/-- QI_PACKET_FETCH: reserves a completion entry, reads the packet, and writes PRIO from the level (R160). -/
def execQiPacketFetch (p q : Nat) (s : State) : Out :=
  if !s.mayFetch p q then .next s else
  let x := s.qi p q
  let a := x.sub.toNat + 64 * (x.head.toNat % 2 ^ x.log2)
  let b := s.host.readN a 64
  let s : State := { s with dma := s.dma ++ [({ port := p, fn := x.fn, write := false, addr := a, len := 64 } : Dma)] }
  let b := putBytes b 24 (bytesOf 1 (pk b 24 1 / 8 * 8 + x.level))
  let s := s.setQi p q { x with head := x.head + 1, reserved := x.reserved + 1, tails := x.tails.filter (fun e => e.1 != x.head + 1) }
  .next (s.submit p x.part b (some q) x.fn 1 none (View.upto x.exposed))

/-- Writes a completion record to the ring of a QI and raises its interrupt (R143, R167). -/
def State.qiRecord (s : State) (p q grid status refused tag : Nat) : State :=
  let x := s.qi p q
  let n := 2 ^ x.log2
  let k := x.written.toNat
  let s := s.hostWrite p x.fn (x.comp.toNat + 32 * (k % n))
    (recordBytes grid q status ((if k / n % 2 = 0 then 0x80 else 0) + refused) tag s.now)
  (s.setQi p q { x with written := x.written + 1 }).interrupt p (2 * q + refused)

/-! ## The dispatcher (R38, R40, R41, R160, R356) -/

/-- How many teams of a grid an empty core takes (R42). -/
def Grid.perCore (g : Grid) : Nat :=
  let share (have_ need : Nat) : Nat := if need = 0 then 8 else have_ / need
  [share 64 g.groups, share 384 (g.groups * g.blocks), share 64 g.tilesDecl, share 1024 g.accDecl, share 48 (g.scratchLen / 65536)].foldl min 8

/-- Whether a field of RES is outside its range, or a reserved field of the packet is set (R102, R149, R160). -/
def badPacket (b : List Byte) : Bool :=
  let r := pk b 20 4
  bits (pk b 0 8) 23 13 != 0 || r % 4 != 0 || bits (pk b 24 4) 31 18 != 0 || bits (pk b 28 4) 31 20 != 0 || pk b 44 4 != 0 ||
  pk b 16 4 == 0 || decide (bits r 31 27 = 0 ∨ 16 < bits r 31 27 ∨ bits r 26 21 = 0 ∨ 48 < bits r 26 21 ∨ 16 < bits r 20 16 ∨
    32 < bits r 15 10 ∨ 48 < bits r 9 4)

/-- Whether PKGS does not fit the span of a packet that package `issuer` submits (R160). -/
def badSpan (b : List Byte) (issuer : Nat) : Bool :=
  let n := bits (pk b 24 4) 17 12
  let m := pk b 48 8
  if n = 0 then m != 0 else ((List.range 64).filter (bitOf m)).length != n + 1 || !bitOf m issuer

/-- Whether the dispatcher of a partition refuses a packet as LAUNCH_UNFIT (R38, R40, R160). -/
def State.unfit (s : State) (p n issuer depth : Nat) (b : List Byte) : Bool :=
  let g : Grid := { Grid.blank with packet := b }
  let x := s.part p n
  badPacket b || badSpan b issuer || decide (10 < depth) ||
  (!g.far && decide (total x.nearExt < g.segBase + g.segLen)) ||
  ((g.cohort || g.spanN != 1) && decide (g.perCore * (coresOf (s.pkg p) p n).length < g.nteams))

/-- The entries of the PASID table that are valid and name a context (R356). -/
def Pkg.contexts (k : Pkg) (part pasid : Nat) : List Nat :=
  ((k.pasids.map (fun e => e.2.toNat)).filter (fun e => bits e 63 63 = 1 && bits e 36 32 = part && bits e 19 0 = pasid))

/-- The function that may submit under a PASID, if exactly one entry names it and that entry is neither revoked nor busy. -/
def Pkg.contextFn (k : Pkg) (part pasid : Nat) : Option Nat :=
  match k.contexts part pasid with
  | [e] => if bits e 62 61 = 0 then some (bits e 31 21) else none
  | _ => none

/-- The status with which the dispatcher refuses a packet, if it does (R40, R51, R356). -/
def State.refusal (s : State) (p n : Nat) (q : Queued) : Option Nat :=
  if (s.pkg p).contextFn n q.pasid ≠ some q.fn then some stRevoked
  else if s.unfit p n ((q.copy.map (fun c => c.2.1)).getD p) q.depth q.packet then some stUnfit
  else if bits (pk q.packet 24 4) 17 12 ≠ 0 ∧ ((s.part p n).module 0).isNone then some stUnfit
  else none

/-- Writes the record of a packet that never became a grid: refused, or discarded. A copy of a span launch has none: its mailbox gets a
refusal (R51). -/
def State.packetRecord (s : State) (p n : Nat) (q : Queued) (status refused : Nat) : State :=
  match q.copy, q.qi with
  | some (g, _, m), _ => s.enqueue ⟨p, mgmt, m, true⟩ (.refuse g p)
  | none, some k => s.qiRecord p k 0xFFFFFFFF status refused (pk q.packet 56 8)
  | none, none => s.childRecord p n (pk q.packet 56 8) 0xFFFFFFFF status refused q.view

/-- Puts a grid before the first of some grids that a test picks. -/
def insertBefore (f : Nat → Bool) (g : Nat) : List Nat → List Nat
  | [] => [g]
  | h :: l => if f h then g :: h :: l else h :: insertBefore f g l

/-- Puts a grid on its placement list: new ones after those of the same priority that were accepted before them, restored ones before
the new ones (R41). -/
def State.enlist (s : State) (g : Nat) (restored : Bool) : State :=
  let x := s.grid g
  let p := s.part x.port x.part
  let old (h : Nat) : Bool := (s.teamsOf h).any (fun t => (s.team t).listed)
  let later (h : Nat) : Bool := decide ((s.grid h).prio < x.prio) ||
    ((s.grid h).prio == x.prio && !old h && (restored || decide (x.order < (s.grid h).order)))
  s.setPart x.port x.part { p with placement := insertBefore later g (p.placement.filter (fun h => h != g)) }

/-- The GRID number after a number (R41). -/
def nextGridNumber (n : Nat) : Nat := if n = 0xFFFFFFFE then 1 else n + 1

/-- Accepts a packet as a grid (R41). -/
def State.accept (s : State) (p n : Nat) (q : Queued) (span : Option (Nat × Nat × Nat)) : State :=
  let x := s.part p n
  let k := s.pkg p
  let g : Grid := { Grid.blank with
    port := p, part := n, num := x.gridCtr, depth := q.depth, parent := q.parent, qi := q.qi, fn := q.fn, packet := q.packet,
    pasid := q.pasid, crec := if q.qi.isNone && q.copy.isNone then pk q.packet 56 8 else 0, order := k.gridsOrder, placing := true, span := span, view := q.view }
  let s := (s.setPkg p { k with gridsOrder := k.gridsOrder + 1 }).setPart p n { x with gridCtr := nextGridNumber x.gridCtr }
  { s with grids := Map.set s.grids s.nextGrid g, nextGrid := s.nextGrid + 1 }

/-- The oldest packet at the highest level that is not held (R39, R40). -/
def Part.front (x : Part) : Option Queued :=
  x.queue.foldl (fun o q => if q.held.isSome then o else match o with
    | none => some q
    | some r => if r.prio < q.prio ∨ (r.prio = q.prio ∧ q.order < r.order) then some q else some r) none

/-- Sends a span packet to the mailbox of its anchor module, or holds it while that mailbox has no free entry (R51, R141). -/
def State.toMailbox (s : State) (p n m grid : Nat) (b : List Byte) : State :=
  let x := s.mod m
  if x.mail.length + x.mailDue < 64 then
    (s.setMod m { x with mailDue := x.mailDue + 1 }).enqueue ⟨p, mgmt, m, true⟩ (.span b n p grid)
  else s.setPkg p { s.pkg p with spansHeld := (s.pkg p).spansHeld ++ [(b, n, grid, m)] }

/-- GRID_DISPATCH (R40, R41, R51): the packet is refused, or becomes a grid on the placement list; a span packet goes to the
mailbox of its anchor module, and its grid, in its place on the list, waits for its generation; a copy has its generation. -/
def execGridDispatch (p n : Nat) (s : State) : Out :=
  let x := s.part p n
  match x.front with
  | none => .next s
  | some q =>
    let s := s.setPart p n { x with queue := x.queue.filter (fun r => r.order != q.order) }
    match s.refusal p n q with
    | some st => .next (s.packetRecord p n q st 1)
    | none =>
      if q.copy.isSome then .next ((s.accept p n q q.copy).enlist s.nextGrid false)
      else if bits (pk q.packet 24 4) 17 12 = 0 then .next ((s.accept p n q none).enlist s.nextGrid false)
      else
        let m := ((x.module 0).map (fun e => e.1)).getD 0
        .next (((s.accept p n q (some (0, p, m))).enlist s.nextGrid false).toMailbox p n m x.gridCtr q.packet)

/-! ## The end of a grid (R28, R48 to R51, R214) -/

/-- TEAM_RETIRE (R28): the streams have exited, every command is complete, no reservation is held; accesses that exited
streams still owe are performed first. -/
def execTeamRetire (t : Nat) (s : State) : Out :=
  let x := s.team t
  if x.place == .resident && x.ctl.live == 0 && x.grps.all (fun e => e.2.live == 0) && x.tls.all (fun l => l.done == l.issued) &&
    x.ctl.acc.isEmpty && x.grps.all (fun e => e.2.acc.isEmpty) && !s.fars.any (fun e => e.2.team == t && e.2.ret) then
    .next (s.stopTeam t)
  else .next s

/-- The streams of a team. -/
def Team.sels (x : Team) : List Sel := .ctl :: x.grps.map (fun e => .grp e.1)

/-- Publishes every store of a grid at system scope (R214). -/
def State.publishGrid (s : State) (g : Nat) : State :=
  (s.teamsOf g).foldl (fun s t => (s.team t).sels.foldl (fun s q => s.publish t q false allDies) s) s

/-- What the streams and commands of a grid have seen. -/
def State.gridView (s : State) (g : Nat) : View :=
  let v := (s.teamsOf g).foldl (fun v t => (s.team t).sels.foldl (fun v q => v.join (s.onStream t q (fun _ st => st.view))) v) View.none
  s.xfers.foldl (fun v e => if e.2.grid = g then v.join e.2.view else v) v

/-- Whether a grid may retire: ended or all teams placed, every team retired, every child retired, and its stores performed, those of far
atomics too (R214). -/
def State.gridOver (s : State) (g : Nat) : Bool :=
  let x := s.grid g
  let stores {w : Nat} (st : Stream w) : Bool := st.acc.any (fun a => a.near && a.kind == .store)
  let fars := s.fars.filter (fun e => e.2.grid == g)
  let gone : Bool := if x.status.isSome then fars.all (fun e => e.2.performed || s.farHeld e.1 e.2) else x.placed == x.nteams && fars.isEmpty
  !x.retired && gone && x.nteams != 0 &&
  (s.teamsOf g).all (fun t => (s.team t).place == .retired && !stores (s.team t).ctl && (s.team t).grps.all (fun e => !stores e.2)) &&
  s.grids.all (fun e => e.2.parent != some g || e.2.retired) &&
  (s.part x.port x.part).queue.all (fun q => q.parent != some g)

/-- The status of a grid over the copies of its span (R51). -/
def Grid.final (x : Grid) : Nat :=
  let all := x.status.getD stComplete :: x.reports.map (fun e => e.2)
  if all.all (fun st => st == stComplete) then stComplete
  else if all.contains stFaulted then stFaulted
  else if x.spanN = 1 then x.status.getD stComplete
  else stAborted

/-- Writes the completion record of a grid to its QI or its CREC. -/
def State.gridRecord (s : State) (g status : Nat) : State :=
  let x := s.grid g
  match x.qi with
  | some q => s.qiRecord x.port q x.num status 0 (x.field 56 8)
  | none => s.childRecord x.port x.part x.crec x.num status 0 (s.gridView g)

/-- GRID_RETIRE (R48, R51): the grid's record is written; a copy of a span reports to the anchor mailbox, and the issuing
package writes the record when all copies have retired. -/
def execGridRetire (g : Nat) (s : State) : Out :=
  if !s.gridOver g then .next s else
  let s := s.publishGrid g
  let x := s.grid g
  let st := x.status.getD stComplete
  let ended (st : Nat) : State := s.setGrid g { x with retired := true, status := some st, placing := false }
  match x.span with
  | none => .next ((ended st).gridRecord g st)
  | some (gen, issuer, m) =>
    if !x.go then .next s
    else if issuer ≠ x.port then .next ((ended st).enqueue ⟨x.port, mgmt, m, true⟩ (.retired gen issuer x.port st))
    else if x.reports.length + 1 < x.spanN then .next s
    else .next ((ended x.final).gridRecord g x.final)

end Sys2Proof.Machine
end

