-- ==== Sys2Proof/Machine/Place.lean ====
section
/-! DEFINITION. The work distributor (R12, R38, R41, R42, R55, R57, R85, R121, R233): placing new teams, restoring saved ones. -/
namespace Sys2Proof.Machine

/-! ## What a core has free (R42) -/

/-- The teams that hold resources of a core. -/
def State.teamsAt (s : State) (c : Nat) : List Nat :=
  (s.teams.filter (fun e => e.2.core == c && (e.2.place == .resident || e.2.place == .reserved))).map (fun e => e.1)

/-- The groups of a team that hold a slot: those with a lane that has not exited (R30). -/
def Team.holders (x : Team) : List Nat := (x.grps.filter (fun e => e.2.live != 0)).map (fun e => e.1)

/-- The group slots in use on a core. -/
def State.slotsUsed (s : State) (c : Nat) : List Nat :=
  (s.teamsAt c).flatMap (fun t => (s.team t).holders.map (fun g => ((s.team t).grp g).slot))

/-- The register blocks that a placement may take: waiting GROW requests come first (R59). -/
def State.placeBlocks (s : State) (c : Nat) : Nat :=
  let free := s.freeBlocks c
  if (s.growWaits c).any (fun e => e.2.2.2.2.length = 3 || decide (growAsks e ≤ free)) then 0 else free

/-- What a core has free: team slots, group slots, register blocks, tiles, accumulator blocks, scratchpad granules; and places in its
engine and matrix queues, which a restored team needs for what it brings (R136, R138). -/
def State.roomAt (s : State) (c : Nat) : List Nat :=
  let ts := s.teamsAt c
  let sum (f : Grid → Nat) : Nat := ts.foldl (fun n t => n + f (s.gridOf t)) 0
  [8 - ts.length, 64 - (s.slotsUsed c).length, s.placeBlocks c, 64 - sum Grid.tilesDecl, 1024 - sum Grid.accDecl,
   48 - sum (fun g => g.scratchLen / 65536), 32 - (s.core c).eq_.length, 64 - (s.core c).mq.length]

/-- What a new team of a grid needs. -/
def Grid.needs (g : Grid) : List Nat := [1, g.groups, g.groups * g.blocks, g.tilesDecl, g.accDecl, g.scratchLen / 65536]

/-- Whether a core fits a team. -/
def fitsIn (room need : List Nat) : Bool := (List.zipWith (fun a b => decide (b ≤ a)) room need).all id

/-- The core of a partition that is chosen for a team: most free group slots, then the lowest logical number (R42). -/
def State.pickCore (s : State) (p n : Nat) (need : List Nat) : Option Nat :=
  let fit := ((coresOf (s.pkg p) p n).map (fun c => (c, s.roomAt c))).filter (fun e => fitsIn e.2 need)
  (fit.foldl (fun o e => match o with
    | none => some e
    | some f => if f.2.getD 1 0 < e.2.getD 1 0 then some e else some f) none).map (fun e => e.1)

/-! ## Slots (R12) -/

/-- The free slots of a quad, lowest first. -/
def quadFree (used : List Nat) (q : Nat) : List Nat := ((List.range 16).map (fun i => 4 * i + q)).filter (fun k => !used.contains k)

/-- The quad with the most free slots, the lowest of equals. -/
def bestQuad (used : List Nat) : Nat :=
  (List.range 4).foldl (fun b q => if (quadFree used b).length < (quadFree used q).length then q else b) 0

/-- The slot of a group that starts looking at a quad. -/
def slotFrom (used : List Nat) (q : Nat) : Nat :=
  ((List.range 4).flatMap (fun i => (quadFree used ((q + i) % 4)).take 1)).headD 0

/-- The slots of some groups of a team. -/
def assignSlots (b : Nat) : List Nat → List Nat → Map Nat
  | _, [] => []
  | used, g :: l =>
    let k := slotFrom used ((b + g) % 4)
    (g, k) :: assignSlots b (k :: used) l

/-- The lowest free team slot of a core. -/
def State.teamSlot (s : State) (c : Nat) : Nat :=
  let used := (s.teamsAt c).map (fun t => (s.team t).slot)
  ((List.range 8).find? (fun k => !used.contains k)).getD 0

/-- Invalidates the lines of a grid's segment when its first team comes to a core (R121). -/
def State.freshCode (s : State) (g c : Nat) : State :=
  if (s.teamsAt c).any (fun t => (s.team t).grid == g) then s
  else s.setCore c { s.core c with icache := (s.core c).icache.filter (fun e => e.1 != g) }

/-! ## New teams (R85) -/

/-- The next team of a grid, on a core (R26, R85). -/
def State.newTeam (s : State) (g c : Nat) (place : TeamPlace) : Team :=
  let x := s.grid g
  let used := s.slotsUsed c
  let slots := assignSlots (bestQuad used) used (List.range x.groups)
  let ctl := Stream.blank 64 1 0 (x.field 8 4)
  let arg (a : Nat) : List (BitVec 64) := [BitVec.ofNat 64 (x.field a 4)]
  { Team.blank with
    grid := g
    tid := x.placed
    port := x.port
    part := x.part
    core := c
    slot := s.teamSlot c
    place := place
    since := s.now
    accDecl := x.accDecl
    ctl := { ctl with regs := [(0, arg 32), (1, arg 36), (2, arg 40)], view := x.view }
    grps := slots.map (fun e =>
      let st := Stream.blank 32 32 x.blocks (x.field 12 4)
      (e.1, { st with slot := e.2, view := x.view })) }

/-- Places the next team of a grid on a core. -/
def State.placeTeam (s : State) (g c : Nat) (place : TeamPlace) : State :=
  let x := s.newTeam g c place
  let s := (s.freshCode g c).setGrid g { s.grid g with placed := (s.grid g).placed + 1 }
  { s.setTeam s.nextTeam x with nextTeam := s.nextTeam + 1 }

/-- Places some number of teams at once, or none (R38). -/
def placeAll : Nat → State → Nat → TeamPlace → Option State
  | 0, s, _, _ => some s
  | n + 1, s, g, place =>
    let x := s.grid g
    match s.pickCore x.port x.part x.needs with
    | none => none
    | some c => placeAll n (s.placeTeam g c place) g place

/-- Takes a grid off its placement list (R41). -/
def State.delist (s : State) (g : Nat) : State :=
  let x := s.grid g
  let p := s.part x.port x.part
  (s.setPart x.port x.part { p with placement := p.placement.filter (fun h => h != g) }).setGrid g { x with placing := false }

/-- The saved teams of a grid that wait on the placement list, in ascending `tid` order. -/
def State.waiting (s : State) (g : Nat) : List Nat :=
  let l := (s.teamsOf g).filter (fun t => (s.team t).listed)
  l.foldl (fun r t => r.filter (fun u => (s.team u).tid < (s.team t).tid) ++ [t] ++ r.filter (fun u => (s.team t).tid ≤ (s.team u).tid)) []

/-- TEAM_PLACEMENT (R38, R41, R42, R51): the next team of the first grid on the list, if a core fits it; a cohort or span
grid all at once, a span grid reserved, with its acknowledgement. -/
def execTeamPlacement (p n : Nat) (s : State) : Out :=
  match (s.part p n).placement with
  | [] => .next s
  | g :: _ =>
    let x := s.grid g
    if !(s.waiting g).isEmpty then .next s
    else if x.nteams ≤ x.placed then .next (s.delist g)
    else match x.span with
      | some (gen, _, m) =>
        -- the copy of the issuing package stands in its place until its generation has come (R51)
        if gen = 0 then .next s else
        match placeAll (x.nteams - x.placed) s g .reserved with
        | some s1 => .next ((s1.delist g).enqueue ⟨p, mgmt, m, true⟩ (.ack gen p))
        | none => .next s
      | none =>
        if x.cohort then .next (((placeAll (x.nteams - x.placed) s g .resident).map (fun s1 => s1.delist g)).getD s)
        else match s.pickCore p n x.needs with
          | none => .next s
          | some c =>
            let s := s.placeTeam g c .resident
            .next (if x.placed + 1 = x.nteams then s.delist g else s)

/-! ## Restores (R53 to R57, R233) -/

/-- A stream as it resumes on a core. -/
def Stream.thaw {w : Nat} (st : Stream w) : Stream w := { st with halted := false, light := false, pptLive := none, lastIssue := 0, hold := none }

/-- The commands of a saved team that enter the engine command queue again. -/
def State.savedCommands (s : State) (t : Nat) : List Nat :=
  (s.xfers.filter (fun e => e.2.team == t && !e.2.done && (e.2.queued || !e.2.started))).map (fun e => e.1)

/-- What a saved team needs: its live groups, with the blocks they hold, and the queue places of its commands and steps. -/
def State.savedNeeds (s : State) (t : Nat) : List Nat :=
  let x := s.team t
  let g := s.gridOf t
  let hs := x.holders
  [1, hs.length, hs.foldl (fun n k => n + (x.grp k).blocks) 0, g.tilesDecl, g.accDecl, g.scratchLen / 65536,
   (s.savedCommands t).length, x.mats.length]

/-- The bytes that a re-armed fetch has still to receive: those of every chunk that has not landed, one of the prefix that a fault holds
among them. -/
def Xfer.unlanded (x : Xfer) : Nat :=
  ((List.range x.chunks).filter (fun j => !x.landed.contains j)).foldl (fun n j => n + x.chunkLen j) 0

/-- Re-arms what is left of a transfer whose request is frozen (R233): a fetch sends a fresh read request, of the class that its window
has now (R174), and its entry at the package is active again; a put sends a fresh request to send. An entry with nothing left is
free. A transfer that has ended is re-armed for its entry alone, which keeps its remaining bytes. -/
def State.rearm (s : State) (i : Nat) : State :=
  let x := s.xfer i
  match x.req with
  | some r =>
    if r.state ≠ .frozen then s
    else if x.kind = .put then
      let y := if x.done then x else { x with rearmed := true, atSource := true }
      (s.setXfer i y).sendRts i y (if y.done then 0 else y.owed)
    else
      let r1 := { r.thaw s.tick_ with remaining := if x.done then r.remaining else x.unlanded }
      let cls := ((s.team x.team).wins.getD x.win Window.blank).cls
      let s := s.setXfer i { x with cls := cls, req := r1.live }
      if r1.over then s else s.enqueue x.backLink (.rearm i 0)
  | none => s

/-- Restores a saved team on a core: slots, matrix steps, engine commands at the tail of the queue in issue order, the
replies that came meanwhile (R55), its requests. What counts in the old core's cycles is over: queue entries and flags are seen, nobody
has begun to wait, no error is of this cycle. -/
def State.restoreTeam (s : State) (t c : Nat) : State :=
  let x := s.team t
  let used := s.slotsUsed c
  let slots := assignSlots (bestQuad used) used x.holders
  let s := s.freshCode x.grid c
  let y : Team := { x with
    place := .resident
    listed := false
    mats := []
    core := c
    slot := s.teamSlot c
    since := s.now
    ctl := x.ctl.thaw
    grps := x.grps.map (fun e => let st := e.2.thaw; (e.1, { st with slot := Map.get slots e.1 0 }))
    queues := x.queues.map (fun q => q.map (fun e => { e with from_ := 0, after := none }))
    sigs := x.sigs.map (fun f => { f with from_ := 0, waiters := [] })
    mxErrs := []
    stuck := 0 }
  let p := s.part x.port x.part
  let s := (s.setPart x.port x.part { p with frames := p.frames.filter (fun f => f.2.2 != t) }).setTeam t y
  let mine := (s.xfers.filter (fun e => e.2.team == t && (!e.2.done || e.2.req.isSome))).map (fun e => e.1)
  let queued := s.savedCommands t
  let k := s.core c
  let s := s.setCore c { k with mq := k.mq ++ x.mats, eq_ := k.eq_ ++ queued }
  let s := { s with xfers := s.xfers.map (fun e => if e.2.team == t then (e.1, { e.2 with saved := true }) else e) }
  let s := mine.foldl State.rearm s
  let replies := (s.fars.filter (fun e => e.2.team == t && e.2.arrived)).map (fun e => e.1)
  let s := replies.foldl (fun s i => match Map.find s.fars i with | some f => s.farDeliver i f | none => s) s
  s.kick c

/-- TEAM_RESTORE (R41, R57): the lowest waiting saved team of the first grid on the list, if a core fits it. -/
def execTeamRestore (p n : Nat) (s : State) : Out :=
  match (s.part p n).placement with
  | [] => .next s
  | g :: _ =>
    match s.waiting g with
    | [] => .next s
    | t :: rest =>
      match s.pickCore p n (s.savedNeeds t) with
      | none => .next s
      | some c =>
        let s := s.restoreTeam t c
        .next (if rest.isEmpty && decide ((s.grid g).nteams ≤ (s.grid g).placed) then s.delist g else s)

end Sys2Proof.Machine
end

