-- ==== Sys2Proof/Machine/Save.lean ====
section
/-! DEFINITION. Preemption and saves (R53, R54, R56, R58, R61, R107, R120, R135, R232, R233, R364). -/
namespace Sys2Proof.Machine

/-! ## Requests -/

/-- Starts the preemption of a resident team; an urgent request takes the place of a cooperative one, and a cooperative one is
urgent at once where sr.pptto is 0 (R103). -/
def State.preemptTeam (s : State) (t reason : Nat) (coop : Bool) : State :=
  let x := s.team t
  let atOnce := coop && x.pptto == 0
  let coop := coop && !atOnce
  let now : Preempt := { coop := coop, reason := if atOnce then 0 else reason, since := s.now, at_ := s.clkOf t }
  if x.place ≠ .resident then s
  else match x.preempt with
    | some p => if p.coop && !coop then s.setTeam t { x with preempt := some now } else s
    | none => s.setTeam t { x with preempt := some now }

/-- BUSY of PREEMPT (R364): the team named by the last request is not yet saved (State.preempted ends it). -/
def State.preempting (s : State) (p : Nat) : Bool :=
  match (s.pkg p).preemptBusy with
  | some t => (s.team t).preempt.isSome
  | none => false

/-- A PREEMPT write with GO (R364). -/
def State.preemptWrite (s : State) (p n core slot : Nat) (coop : Bool) : State :=
  if s.preempting p then s
  else match (coresOf (s.pkg p) p n)[core]? with
    | none => s.ignoredWrite p
    | some c =>
      match (s.teamsAt c).find? (fun t => (s.team t).slot == slot && (s.team t).place == .resident && (s.team t).part == n) with
      | none => s
      | some t =>
        let s := s.preemptTeam t (if coop then 1 else 0) coop
        s.setPkg p { s.pkg p with preemptBusy := some t }

/-- PREEMPT_URGENT. -/
def execPreemptUrgent (p n core slot : Nat) (s : State) : Out := .next (s.preemptWrite p n core slot false)
/-- PREEMPT_COOPERATIVE. -/
def execPreemptCooperative (p n core slot : Nat) (s : State) : Out := .next (s.preemptWrite p n core slot true)

/-! ## Halting the streams -/

/-- Whether all lanes of a group that have not exited are ready at one PC (R53). -/
def Stream.together {w : Nat} (st : Stream w) : Bool :=
  match lanesOf st.live st.n with
  | [] => false
  | l0 :: ls => st.laneState l0 == .ready && ls.all (fun l => st.laneState l == .ready && st.pcOf l == st.pcOf l0)

/-- Whether a held GROW has been answered: its group goes on to the next instruction before it halts (R61). -/
def Stream.grown {w : Nat} (st : Stream w) : Bool :=
  match st.hold with
  | some h => (match h.pair with | [_, v] => decide (v.toNat < 2) | _ => false)
  | none => false

/-- One group under an urgent preemption: a speculation rolls back first, one that waits for its checkpoint is given up;
else it halts, light if its lanes stand together (in a handler, as they will be saved: R327), full when its 64 cycles are
over. -/
def Team.haltGroup (x : Team) (late : Bool) (g : Nat) : Team :=
  let st := x.grp g
  if st.halted || st.live == 0 || st.pkt.isSome then x
  else match st.spec with
    | some sp =>
      match sp.stage with
      | .wanted => (x.setGrp g { st with spec := none }).specCount 3
      | .running => x.setGrp g { st with spec := some { sp with stage := .rolling }, hold := none }
      | .conflicted => x
      | .rolling => x
    | none =>
      let light := st.unwind.together
      if !st.grown && (light || late) then x.setGrp g { st with halted := true, light := light } else x

/-- The control thread halts at an instruction boundary. -/
def Team.haltCtl (x : Team) : Team :=
  if x.ctl.pkt.isNone && x.ctl.live != 0 then let c := x.ctl; { x with ctl := { c with halted := true, light := true } } else x

/-- URGENT_PREEMPT (R53): the streams of a team that can halt do so. -/
def execUrgentPreempt (t : Nat) (s : State) : Out :=
  let x := s.team t
  match x.preempt with
  | none => .next s
  | some p =>
    if p.coop then .next s
    else
      let late := decide (p.at_ + 64 ≤ s.clkOf t)
      .next (s.setTeam t (x.grps.foldl (fun y e => y.haltGroup late e.1) x.haltCtl))

/-- COOPERATIVE_PREEMPT (R56): the control thread halts; the groups halt at PPT. -/
def execCooperativePreempt (t : Nat) (s : State) : Out :=
  let x := s.team t
  .next (if x.preempt.any (fun p => p.coop) then s.setTeam t x.haltCtl else s)

/-- PPT_TIMEOUT (R56): the groups that are not at a PPT are preempted as by an urgent request. -/
def execPptTimeout (t : Nat) (s : State) : Out :=
  let x := s.team t
  match x.preempt with
  | none => .next s
  | some p =>
    if p.coop && decide (p.since + x.pptto.toNat ≤ s.now) && x.grps.any (fun e => e.2.live != 0 && !e.2.halted) then
      .next (s.setTeam t { x with preempt := some { p with coop := false, reason := 0, at_ := s.clkOf t } })
    else .next s

/-- The team of a partition that a time slice ends for (R364): resident longest, then on the lowest logical core. -/
def State.expired (s : State) (p n : Nat) : Option Nat :=
  let x := s.part p n
  let top := bits x.pctl.toNat 15 8
  let waiting := (x.placement.map (fun g => (s.grid g).prio)).filter (fun k => top ≤ k)
  let late (e : Nat × Team) : Bool :=
    e.2.port == p && e.2.part == n && e.2.place == .resident && e.2.preempt.isNone &&
    decide (e.2.since + 1000 * x.quantum ≤ s.now) && waiting.any (fun k => decide ((s.gridOf e.1).prio < k))
  let rank (t : Nat) : Nat := (s.team t).since * 2 ^ 16 + s.logical t * 8 + (s.team t).slot
  let ts := (s.teams.filter late).map (fun e => e.1)
  if x.quantum = 0 then none
  else ts.foldl (fun o t => match o with | none => some t | some u => if rank t < rank u then some t else some u) none

/-- SLICE_EXPIRY. -/
def execSliceExpiry (p n : Nat) (s : State) : Out :=
  match s.expired p n with
  | some t => .next (s.preemptTeam t 0 false)
  | none => .next s

/-! ## Saves for a translation fault (R58) -/

/-- The held commands of a team. -/
def State.heldXfers (s : State) (t : Nat) : List Xfer := (s.xfers.map (fun e => e.2)).filter (fun x => x.team == t && !x.done && !x.held.isEmpty)

/-- Whether the control thread waits in WAITA or WAITT for a command with a held fault. -/
def State.waitsOnFault (s : State) (t : Nat) : Bool :=
  let x := s.team t
  match x.ctl.hold with
  | none => false
  | some h =>
    match decodeWord (s.codeWord t h.pc) with
    | .ok (.waita _ b) => (s.heldXfers t).any (fun y => y.ab == b.toNat)
    | .ok (.waitt a _ k) =>
      let c : Ctx := { lane := false, gid := 0, tid := x.tid, core := s.logical t, clk := s.clkOf t, pops := [] }
      let lit : BitVec 64 := (BitVec.ofNat 32 (s.codeWord t (h.pc + 4))).signExtend 64
      let target := if a.toNat = 62 then lit else x.ctl.value c a 0
      (s.heldXfers t).any (fun y => y.tl == k.toNat && decide (y.num ≤ target.toNat))
    | _ => false

/-- Whether a group qualifies for issue now (R43, R58): a lane is ready, at no held slot, no flag is waited for and DIST has
elapsed. A group whose next packet's line is not in the instruction cache does not qualify; R43 and R58 do not say (DESIGN
CHOICE, log entry 24). -/
def State.qualifies (s : State) (t g : Nat) : Bool :=
  let st := ((s.team t).grp g).settle (s.clkOf t) false
  let stalled := match st.spec with | some x => x.stage != .running || x.paused | none => false
  match st.issuePoint with
  | none => false
  | some (pc, _) =>
    !st.halted && !stalled && st.hold.isNone && s.codeHere t pc &&
    st.packetReady (s.clkOf t) (s.codeWord t (pc / 16 * 16)) pc (s.slotWords t pc)

/-- Whether a team waits on a held fault now while no group of it qualifies. -/
def State.stuckOnFault (s : State) (t : Nat) : Bool :=
  s.waitsOnFault t && (s.team t).grps.all (fun e => !s.qualifies t e.1)

/-- FAULT_SAVE: for 64 cycles in a row the control thread has waited on a held fault and no group has qualified, and so it is now. -/
def execFaultSave (t : Nat) (s : State) : Out :=
  let x := s.team t
  if x.place == .resident && x.preempt.isNone && s.stuckOnFault t && decide (64 ≤ x.stuck) then .next (s.preemptTeam t 2 false)
  else .next s

/-! ## The frame (R107); a byte that is not given a value is free -/

/-- Bytes that have a value. -/
def given (b : List Byte) : List (Option Byte) := b.map some
/-- Bytes without one. -/
def unstated (n : Nat) : List (Option Byte) := copies n none

/-- Fills in free values. -/
def State.fillIn (s : State) (l : List (Option Byte)) : List Byte × State :=
  (l.mapIdx (fun i o => o.getD (Config.freeByte (s.freeCount + i))), { s with freeCount := s.freeCount + l.length })

/-- A number as a given field. -/
def field (n v : Nat) : List (Option Byte) := given (bytesOf n v)

/-- The accumulator ranges of the groups of a cooperative save: base and count in blocks. -/
def Team.liveAcc (x : Team) : List (Nat × Nat) :=
  x.grps.filterMap (fun e => e.2.pptLive.map (fun v => (32 * bits v.toNat 25 16, 32 * bits v.toNat 31 26)))

/-- The union of the live-tile masks. -/
def Team.liveTiles (x : Team) : Nat :=
  (x.grps.foldl (fun (m : Word) e => m ||| ((e.2.pptLive.map (fun v => v &&& 0xFFFF#32)).getD 0)) 0).toNat

/-- The least range that contains the live accumulators. -/
def Team.accHull (x : Team) : Nat × Nat :=
  let l := x.liveAcc.filter (fun r => r.2 != 0)
  let lo := l.foldl (fun n r => min n r.1) (l.headD (0, 0)).1
  let hi := l.foldl (fun n r => max n (r.1 + r.2)) 0
  (lo, hi - lo)

/-- The header. -/
def State.frameHeader (s : State) (t : Nat) (p : Preempt) : List (Option Byte) :=
  let x := s.team t
  let coop := if p.coop then field 4 x.liveTiles ++ field 2 x.accHull.1 ++ field 2 x.accHull.2 else unstated 8
  field 4 1 ++ field 4 p.reason ++ field 4 (s.gridOf t).num ++ field 4 x.tid ++ field 8 ((s.sysReg t 0x002).getD 0).toNat ++ coop ++ unstated 224

/-- A stream of the team as a bit of a waiter mask: the groups, and the control thread as bit 16. -/
def selBit : Sel → Nat
  | .ctl => 2 ^ 16
  | .grp g => 2 ^ g

/-- A rendezvous point. -/
def Rv.image (r : Rv) : List (Option Byte) := field 2 r.expect ++ field 2 r.arrived ++ field 4 (r.waiters.foldl (fun n q => n + selBit q) 0)

/-- A team queue (R135). -/
def queueImage (q : List QEntry) : List (Option Byte) :=
  field 1 q.length ++ field 15 0 ++ q.flatMap (fun e => field 4 e.val.toNat) ++ unstated (32 - 4 * q.length)

/-- Whether a latch may be read in a lane by what a saved stream issues next (R80, R92): at the rest of a packet, also where its producer
is in the packet before that one. -/
def Latch.valid {w : Nat} (l : Latch w) (rest : Bool) : Word := l.cur ||| l.recd ||| (if rest then l.prev else 0)

/-- The mask of a list of facts. -/
def maskNat (l : List Bool) : Nat := l.foldr (fun b n => (if b then 1 else 0) + 2 * n) 0

/-- The control block; `waits` says whether the thread was held at issue when it halted. -/
def State.controlBlock (s : State) (t : Nat) (waits : Bool) : List (Option Byte) :=
  let x := s.team t
  let c := x.ctl
  let state := if c.live = 0 then 2 else if c.laneState 0 = .ready ∧ !waits then 0 else 1
  (List.range 32).flatMap (fun r => field 8 (c.reg r 0).toNat) ++
  (List.range 4).flatMap (fun k => field 8 ((c.latches.getD k (Latch.blank 64 1)).vals.getD 0 0).toNat) ++
  field 4 (c.preds.getD 0 0).toNat ++ field 4 (c.pcOf 0) ++ field 4 state ++ unstated 4 ++ c.flags.flatMap (field 1) ++
  field 2 (maskNat (x.sigs.map (fun f => f.set))) ++ field 2 (maskNat (c.latches.map (fun l => (l.valid c.mid.isSome).getLsbD 0))) ++
  x.rvs.flatMap Rv.image ++
  ([0x010, 0x011, 0x012, 0x013, 0x030, 0x040, 0x042] ++ (List.range 16).map (fun k => 0x020 + k)).flatMap
    (fun r => field 8 ((s.sysReg t r).getD 0).toNat) ++ unstated 72 ++
  x.queues.flatMap queueImage ++ unstated 64

/-- The code of a lane state (R89). -/
def LaneState.code : LaneState → Nat
  | .ready => 0
  | .replyWait => 1
  | .maskWait => 2
  | .rvWait => 3
  | .exited => 4

/-- A group. -/
def Stream.groupImage (st : Stream 32) : List (Option Byte) :=
  let lanes := List.range 32
  let l (k : Nat) : Latch 32 := st.latches.getD k (Latch.blank 32 32)
  field 4 (if st.light then 0 else 1) ++ field 4 (~~~st.live).toNat ++
  (if st.light then field 4 (st.pcOf ((lanesOf st.live 32).headD 0)) else unstated 4) ++ field 4 st.blocks ++
  st.flags.flatMap (field 1) ++ unstated 4 ++ st.masks.flatMap (fun m => field 4 m.toNat) ++
  (List.range 4).flatMap (fun k => field 4 ((l k).valid st.mid.isSome).toNat) ++ unstated 32 ++
  lanes.flatMap (fun i => field 4 (st.preds.getD i 1).toNat) ++
  (List.range 4).flatMap (fun k => lanes.flatMap (fun i => field 4 ((l k).vals.getD i 0).toNat)) ++
  (if st.light then unstated 128 else lanes.flatMap (fun i => field 4 (st.pcOf i))) ++
  lanes.flatMap (fun i => field 1 (st.laneState i).code) ++ unstated 96 ++
  (List.range (8 * st.blocks)).flatMap (fun r => lanes.flatMap (fun i => field 4 (st.reg r i).toNat))

/-- The frame and the scratchpad image of a team (R107, R120). R107 and R233 say what the engine block holds, and no rule where in
it: its bytes are free, and what it holds stays in State (the team's windows, barriers and timelines, its transfers with their
requests and tokens, its matrix steps). -/
def State.frameImage (s : State) (t : Nat) (p : Preempt) (waits : Bool) : List (Option Byte) :=
  let x := s.team t
  let g := s.gridOf t
  s.frameHeader t p ++ s.controlBlock t waits ++ unstated 2048 ++ (List.range g.groups).flatMap (fun k => (x.grp k).groupImage) ++
  given (x.tiles.readN 0 (4096 * g.tilesDecl)) ++ given (x.acc.readN 0 (4096 * g.accDecl)) ++ given (x.scratch.readN 0 g.scratchLen)

/-! ## The save area (R120) -/

/-- The extents of a save area as ranges of its concatenation. -/
def saveRanges : Nat → List (Nat × Nat × Bool) → List (Nat × Nat)
  | _, [] => []
  | o, e :: l => (o, o + e.2.1) :: saveRanges (o + e.2.1) l

/-- The lowest offset at which a frame fits: in one extent, on a 4 KiB boundary, over no live frame. -/
def Part.frameAt (x : Part) (len : Nat) : Option Nat :=
  let rs := saveRanges 0 x.saveExt
  let starts := rs.map (fun r => r.1) ++ x.frames.map (fun f => (f.1 + f.2.1 + 4095) / 4096 * 4096)
  let ok (o : Nat) : Bool :=
    rs.any (fun r => decide (r.1 ≤ o ∧ o + len ≤ r.2)) && x.frames.all (fun f => decide (o + len ≤ f.1 ∨ f.1 + f.2.1 ≤ o))
  (starts.filter ok).foldl (fun o a => match o with | none => some a | some b => some (min a b)) none

/-! ## The save -/

/-- Whether a started command has done what it does before its team is saved: the chunks that tokens or the unscheduled
part cover have landed (R53). -/
def State.xferQuiet (s : State) (i : Nat) : Bool :=
  let x := s.xfer i
  x.done || !x.started ||
  (x.local_.isEmpty && !s.inFlight i && x.tokens.isEmpty && (x.req.map (fun r => r.tokens)).getD [] == [] &&
   !(x.atSource && x.todo.any x.free))

/-- Whether a stream is ready to be saved. -/
def Stream.saveReady {w : Nat} (st : Stream w) : Bool := (st.halted || st.live == 0) && st.pkt.isNone && st.acc.isEmpty && st.spec.isNone

/-- Whether a team that is being preempted can be saved now. -/
def State.saveReady (s : State) (t : Nat) : Bool :=
  let x := s.team t
  x.place == .resident && x.ctl.saveReady && x.grps.all (fun e => e.2.saveReady) &&
  (s.xfers.filter (fun e => e.2.team == t)).all (fun e => s.xferQuiet e.1)

/-- A stream as it is saved: every result in flight is in place, and a handler's progress is discarded (R327); one that is held at a
slot is to enter the rest of its packet there (R73). -/
def Stream.freeze {w : Nat} (st : Stream w) : Stream w :=
  let st1 := (st.settle (st.pend.foldl (fun m p => max m p.at_) 0) false).unwind
  let held := if st.handler.isSome then none else st.hold.map (fun h => h.pc)
  { st1 with hold := none, mid := held.or st1.mid, ready := none }

/-- Whether packet `pkt` of a stream belongs to a handler that runs. -/
def State.inHandler (s : State) (t : Nat) (q : Sel) (pkt : Nat) : Bool :=
  s.onStream t q (fun _ st => match st.handler with | some h => decide (h.pkt < pkt) | none => false)

/-- What a handler that is discarded has asked for writes no register (R327); its flags fall when it completes. -/
def State.forgetReplies (s : State) (t : Nat) : State :=
  { s with
    fars := s.fars.map (fun e => if e.2.team == t && s.inHandler t e.2.sel e.2.pkt then (e.1, { e.2 with dest := none }) else e)
    xfers := s.xfers.map (fun e => if e.2.team == t && e.2.kind == .gcreate && s.inHandler t .ctl e.2.pkt then (e.1, { e.2 with dest := 38 }) else e) }

/-- Undefined contents of memory: free bytes. -/
def State.blur (s : State) (m : Memory) (a n : Nat) : Memory × State :=
  let r := s.fillIn (unstated n)
  (m.writeN a r.1, r.2)

/-- The tiles and blocks that a cooperative save leaves out are undefined (R56). -/
def State.forget (s : State) (t : Nat) : State :=
  let x := s.team t
  let g := s.gridOf t
  let live := x.liveAcc
  let s1 := ((List.range g.tilesDecl).filter (fun k => !bitOf x.liveTiles k)).foldl (fun s k =>
    let r := s.blur (s.team t).tiles (4096 * k) 4096
    r.2.setTeam t { r.2.team t with tiles := r.1 }) s
  ((List.range g.accDecl).filter (fun b => !live.any (fun r => decide (r.1 ≤ b ∧ b < r.1 + r.2)))).foldl (fun s b =>
    let r := s.blur (s.team t).acc (4096 * b) 4096
    r.2.setTeam t { r.2.team t with acc := r.1 }) s1

/-- The requests of a team freeze (R232). -/
def State.freezeRequests (s : State) (t : Nat) : State :=
  let freeze (r : Req) : Req := if r.state = .active then { r with state := .frozen, frozenAt := s.now, deferred := false } else r
  { s with xfers := s.xfers.map (fun (e : Nat × Xfer) => if e.2.team = t then (e.1, { e.2 with req := e.2.req.map freeze }) else e) }

/-- Takes a saved team's work off its core: matrix steps, engine queue entries, line buffers. -/
def State.offCore (s : State) (t : Nat) : State :=
  let x := s.team t
  let k := s.core x.core
  let s := s.setCore x.core { k with
    mq := k.mq.filter (fun e => e.team != t)
    eq_ := k.eq_.filter (fun i => (s.xfer i).team != t)
    lbs := k.lbs.filter (fun e => e.2.tag.head? != some t) }
  s.setTeam t { s.team t with mats := k.mq.filter (fun e => e.team == t) }

/-- Whether the function of a grid lets its saved teams be placed again (R360). -/
def State.mayReturn (s : State) (g : Nat) : Bool :=
  let x := s.grid g
  x.fn == 0 || (s.vf x.port x.fn).state != .descheduled

/-- Whether a team saved for a fault still waits for a replay (R58). -/
def State.faultWaits (s : State) (t : Nat) : Bool :=
  match (s.team t).place with
  | .saved _ reason => reason == 2 && !(s.heldXfers t).isEmpty
  | _ => false

/-- Puts a saved team on the placement list again, unless its function is descheduled. -/
def State.relist (s : State) (t : Nat) : State :=
  let x := s.team t
  match x.place with
  | .saved _ _ => if x.listed || !s.mayReturn x.grid then s else (s.setTeam t { x with listed := true }).enlist x.grid true
  | _ => s

/-- Reads what a frame takes of a team through ECC (R114, R117): the wrong bits of scratchpad rows, and of the accumulator blocks that
are saved. Answers whether the read gives the stored values. -/
def State.checkSaved (s : State) (t : Nat) (p : Preempt) : State × Bool :=
  let x := s.team t
  let live (b : Nat) : Bool := !p.coop || x.liveAcc.any (fun r => decide (r.1 ≤ b ∧ b < r.1 + r.2))
  let wrong (k : Nat) : List Nat := ((x.errs.filter (fun e => e.1 == k)).map (fun e => e.2.1)).foldl insertNat []
  let r := checkAll (fun s i => s.checkRow t i) (wrong 0) s
  if !r.2 then r
  else checkAll (fun s i => s.checkTeam t 1 i srcAcc (4 * i)) ((wrong 1).filter (fun i => live (i / 1024))) r.1

/-- Writes the frame of a team and frees what it holds of its core. -/
def State.writeFrame (s : State) (t : Nat) (p : Preempt) : State :=
  let checked := s.checkSaved t p
  if !checked.2 then checked.1 else
  let s := checked.1
  let x := s.team t
  let waits := x.ctl.hold.isSome && x.ctl.handler.isNone
  let c := x.ctl.freeze
  let s := (s.forgetReplies t).setTeam t { x with ctl := c, grps := x.grps.map (fun e => (e.1, e.2.freeze)) }
  let s := if p.coop then s.forget t else s
  let img := s.frameImage t p waits
  let n := s.part x.port x.part
  match n.frameAt img.length with
  | none =>
    let r := s.fillIn (unstated 9)
    let f : FaultRec := r.2.teamRec t cauSave (r.1.headD 0).toNat (ofBytes (r.1.drop 1))
    (r.2.record x.port x.part f).endGrid x.grid stFaulted
  | some o =>
    let r := s.fillIn img
    let a := ((place n.saveExt o).getD (0, false)).1
    let s := r.2.nearWrite x.port a r.1 none none 0
    let s := s.setPart x.port x.part { s.part x.port x.part with frames := n.frames ++ [(o, img.length, t)] }
    let s := (s.offCore t).preempted t
    let s := s.setTeam t { s.team t with place := .saved o p.reason, preempt := none }
    if s.faultWaits t then s else s.relist t

/-- TEAM_SAVE: the last steps of a preemption (R53, R54): once the team has halted its requests freeze, and the chunks that their tokens
cover land still; when they have, its frame is written. -/
def execTeamSave (t : Nat) (s : State) : Out :=
  match (s.team t).preempt with
  | none => .next s
  | some p =>
    if (s.team t).place != .resident || !(s.team t).standing then .next s else
    let s := s.freezeRequests t
    .next (if s.saveReady t then s.writeFrame t p else s)

end Sys2Proof.Machine
end

