-- ==== Sys2Proof/Machine/Repair.lean ====
section
/-! DEFINITION. Fences from the host (R216), replays (R58, R127, R145), heads of the fault queue and of the event ring (R144,
R146, R362), line fills (R121, R122), soft errors (R114, R117, R119). -/
namespace Sys2Proof.Machine

/-! ## TFENCECTL (R215, R216) -/

/-- BUSY of TFENCECTL. -/
def State.fencing (s : State) (p : Nat) : Bool :=
  match (s.pkg p).tfBusy with
  | some i => s.fences.any (fun f => f.id == i)
  | none => false

/-- Starts a fence of the host over some modules; none to fence completes at once. -/
def State.hostFence (s : State) (p n : Nat) (mods : List Nat) : State :=
  if s.fencing p then s.ignoredWrite p
  else if mods.isEmpty then s
  else
    let f : Fence := { id := s.nextId, port := p, part := n, mods := mods, team := none }
    let s := s.setPkg p { s.pkg p with tfBusy := some s.nextId }
    { s with fences := s.fences ++ [f], nextId := s.nextId + 1 }

/-- TFENCECTL_MODULE. -/
def execTfencectlModule (p n lm : Nat) (s : State) : Out :=
  .next (s.hostFence p n (((s.part p n).module lm).toList.map (fun e => e.1)))
/-- TFENCECTL_DOMAIN. -/
def execTfencectlDomain (p n : Nat) (s : State) : Out :=
  .next (s.hostFence p n ((s.part p n).modules.map (fun e => e.2.1)))

/-! ## Line fills (R121, R122) -/

/-- The context in which a grid's code is translated on a core for a tenant: that of its PASID, in the world of the core's slice. -/
def State.codeAs (s : State) (k c t : Nat) : FarCtx :=
  let g := s.grid k
  let p := s.pkg g.port
  let sec := (slicesOf p g.part).any (fun i => (sliceCores p g.port i).contains c && p.secSlices.getLsbD i)
  { port := g.port, part := g.part, pasid := g.pasid, tenant := t, secure := sec }

/-- The module that a code fetch issued now goes to, by the module map, and its context. -/
def State.codeCtx (s : State) (k c lmod : Nat) : Option (Nat × FarCtx) :=
  let g := s.grid k
  match (s.part g.port g.part).module lmod with
  | some (m, t) => if (s.planes g.port g.part m).isEmpty then none else some (m, s.codeAs k c t)
  | none => none

/-- The lines of 64 bytes that the 128 KiB instruction cache of a core holds (R11). -/
def icacheLines : Nat := 2048

/-- Puts a line into the instruction cache of a core; a full cache drops the line that it filled first (which one no rule says:
DESIGN CHOICE, log entry 31). -/
def State.fillLine (s : State) (k c line : Nat) (b : List Byte) : State :=
  let x := s.core c
  s.setCore c { x with icache := ((k, line, b) :: x.icache.filter (fun e => !(e.1 = k && e.2.1 = line))).take icacheLines }

/-- The record of a code fetch (R144). -/
def State.codeRecord (s : State) (k cause addr : Nat) (held : Option Faulted) : FaultRec :=
  let g := s.grid k
  { cause := cause, source := 0, count := 0, held := held, pasid := g.pasid, addr := addr,
    grid := g.num, tid := 0, lmod := if g.far then lmodOf addr else 0, tl := 0, num := 0, time := 0, page := addr / 65536 }

/-- The record's team: the lowest of the grid on the core; the spec names none. -/
def State.codeTid (s : State) (k c : Nat) : Nat :=
  (((s.teamsAt c).filter (fun t => (s.team t).grid == k)).map (fun t => (s.team t).tid)).headD 0

/-- Enters a record of a code fetch. -/
def State.codeFault (s : State) (k c cause addr : Nat) (held : Option Faulted) : State :=
  let g := s.grid k
  let r := s.codeRecord k cause addr held
  s.record g.port g.part { r with tid := s.codeTid k c }

/-- Fills a line of a near segment, through ECC (R119): more than one wrong bit ends the grid. No world is checked: R128 and R109
speak of the issue of a memory instruction, and R121, R122 and R160 name no such check of code (DESIGN CHOICE, log entry 46). -/
def State.nearLine (s : State) (k c line : Nat) : State :=
  let g := s.grid k
  match (s.part g.port g.part).near (g.segBase + 64 * line) with
  | none => s
  | some (a, _) =>
    let x := s.pkg g.port
    let n := x.errCount (a / 64)
    let local_ := 0x40000000 + g.segBase + 64 * line
    if 2 ≤ n then (s.codeFault k c cauFatal local_ none).endGrid k stFaulted
    else
      let s := if n = 1 then (s.setPkg g.port (x.clean (a / 64))).codeFault k c cauEcc local_ none else s
      s.fillLine k c line (s.nearLatest g.port none a 64)

/-- What the translation of a line of a far segment comes to; a channel that is DOWN or dark and a revoked context give nothing. -/
inductive CodeWalk | nothing | perm (world : Bool) | fault (stage m : Nat) | ok (m pa : Nat)

/-- The translation of a far address of code at the module that its fetch goes to. -/
def State.codeAt (s : State) (to_ : Option (Nat × FarCtx)) (a : Nat) (w : Walk) : CodeWalk :=
  match to_ with
  | none => .perm false
  | some (m, ctx) =>
    if !s.reaches ctx.port ctx.part m then .nothing
    else match (s.mod m).judge ctx (a % 2 ^ 50) .read w with
      | .ok pa => .ok m pa
      | .fault st => .fault st m
      | .perm => .perm false
      | .world => .perm true
      | .revoked => .nothing

/-- The far address of a line of a grid's code. -/
def State.lineAddr (s : State) (k line : Nat) : Nat := (s.grid k).segBase + 64 * line

/-- Translates a line of a far segment for a fetch issued now. -/
def State.codeWalk (s : State) (k c line : Nat) (w : Walk) : CodeWalk :=
  let a := s.lineAddr k line
  s.codeAt (s.codeCtx k c (lmodOf a)) a w

/-- The line of a far segment that translates is read and filled, and its translation cached. -/
def State.farLine (s : State) (to_ : Option (Nat × FarCtx)) (k c line m pa : Nat) (w : Walk) : State :=
  let a := s.lineAddr k line
  match to_ with
  | none => s
  | some (_, ctx) =>
    let s := s.setMod m ((s.mod m).after ctx (a % 2 ^ 50) w)
    (s.fillLine k c line ((s.mod m).mem.readN pa 64)).sample m ctx.tenant pa 0

/-- Whether a line fill is held in the fault queue. -/
def State.codeHeld (s : State) (k c line : Nat) : Bool :=
  let g := s.grid k
  let x := s.part g.port g.part
  let same (r : FaultRec) : Bool := r.held.any (fun h => match h with | .code i j n _ _ _ => i == k && j == c && n == line | _ => false)
  x.fqWait.any same || x.fqRecs.any (fun e => same e.2)

/-- CODE_FETCH: a line fill for a grid with a team on the core. -/
def execCodeFetch (k c line : Nat) (w : Walk) (s : State) : Out :=
  let g := s.grid k
  let a := g.segBase + 64 * line
  if g.retired || !(s.teamsAt c).any (fun t => (s.team t).grid == k) || decide (g.segLen ≤ 64 * line) ||
    (s.core c).icache.any (fun e => e.1 == k && e.2.1 == line) || s.codeHeld k c line then .next s
  else if !g.far then .next (s.nearLine k c line)
  else
    let to_ := s.codeCtx k c (lmodOf a)
    match s.codeWalk k c line w with
    | .nothing => .next s
    | .ok m pa => .next (s.farLine to_ k c line m pa w)
    | .fault st m =>
      .next (s.codeFault k c st a (some (.code k c line m ((to_.map (fun e => e.2.tenant)).getD 0) (to_.any (fun e => e.2.secure)))))
    | .perm world => .next ((s.codeFault k c (if world then cauWorld else cauPerm) a none).endGrid k stFaulted)

/-! ## Replay control (R58, R127, R145) -/

/-- The held record at an index. -/
def Part.heldAt (x : Part) (i : Nat) : Option (FaultRec × Faulted) :=
  match Map.find x.fqRecs (i % 256) with
  | some r => r.held.map (fun h => (r, h))
  | none => none

/-- Rewrites a record in its place; its time of writing stays. -/
def State.rewrite (s : State) (p n i : Nat) (r : FaultRec) : State :=
  let x := s.part p n
  let k := i % 256
  (s.setPart p n { x with fqRecs := Map.set x.fqRecs k r }).hostWrite p 0 (x.fqBase.toNat + 64 * k) r.bytes

/-- Clears the held bit of a record. -/
def State.unhold (s : State) (p n i : Nat) (r : FaultRec) : State := s.rewrite p n i { r with held := none }

/-- The grid of a held access. -/
def State.heldGrid (s : State) (h : Faulted) : Nat :=
  match h with
  | .command i => (s.xfer i).grid
  | .far i => ((Map.find s.fars i).map (fun f => f.grid)).getD 0
  | .code k _ _ _ _ _ => k

/-- What a held access leaves at its module when its grid ends: chunks that wait, the ingress slot of a far atomic. -/
def State.dropHeld (s : State) (h : Faulted) : State :=
  match h with
  | .command i => s.dropWaits i
  | .far i =>
    match Map.find s.fars i with
    | some f => let s1 := s.freeSlot f.port f.part f.pmod; { s1 with fars := Map.erase s1.fars i }
    | none => s
  | .code _ _ _ _ _ _ => s

/-- A replay faults again: the count rises, the interrupt is raised again; at 4 the grid ends FAULTED. -/
def State.faultAgain (s : State) (p n i : Nat) (r : FaultRec) (h : Faulted) : State :=
  let r1 : FaultRec := { r with count := r.count + 1 }
  if r1.count < 4 then (s.rewrite p n i r1).interrupt p (8192 + 2 * n)
  else (((s.unhold p n i r1).interrupt p (8192 + 2 * n)).dropHeld h).endGrid (s.heldGrid h) stFaulted

/-- Replays an access. -/
def State.replay (s : State) (p n i : Nat) (r : FaultRec) (h : Faulted) (w : Walk) : State :=
  let free := s.unhold p n i r
  match h with
  | .command x =>
    let y := s.xfer x
    if y.done || y.status.isSome then free.dropWaits x
    else match s.unitVerdict x r.page w with
      | .ok _ =>
        let s := free.setMod y.pmod ((free.mod y.pmod).after y.ctx (r.page * 65536 % 2 ^ 50) w)
        (s.resumeUnit x r.page .cached).kick (s.team y.team).core
      | .fault _ => s.faultAgain p n i r h
      | v => free.refuseXfer x v r.addr
  | .far k =>
    match Map.find s.fars k with
    | none => free
    | some f =>
      if (s.grid f.grid).status.isSome then free.dropHeld h else
      match (s.mod f.pmod).judge f.ctx (f.addr % 2 ^ 50) (needOf f.aop) w with
      | .fault _ => s.faultAgain p n i r h
      | _ => free.farDecide k f w
  | .code k c line m t sec =>
    let to_ : Option (Nat × FarCtx) := some (m, { s.codeAs k c t with secure := sec })
    if (s.grid k).retired then free
    else match s.codeAt to_ (s.lineAddr k line) w with
      | .nothing => free
      | .ok m pa => free.farLine to_ k c line m pa w
      | .fault _ _ => s.faultAgain p n i r h
      | .perm world => (free.codeFault k c (if world then cauWorld else cauPerm) r.addr none).endGrid k stFaulted

/-- Fails an access with status TRANSLATION: a command gets the status, and the grid of an access without one ends FAULTED. -/
def State.failHeld (s : State) (p n i : Nat) (r : FaultRec) (h : Faulted) : State :=
  let s := s.unhold p n i r
  match h with
  | .command x =>
    let y := s.xfer x
    if y.done || y.status.isSome then s.dropWaits x
    else ((s.setXfer x { y with todo := [], held := [] }).dropWaits x).answer x xsTranslation 0
  | .far k =>
    match Map.find s.fars k with
    | none => s
    | some f => (s.dropHeld h).endGrid f.grid stFaulted
  | .code k _ _ _ _ _ => s.endGrid k stFaulted

/-- After a replay or a failure the team saved for the fault is placed again (R58). -/
def State.wakeSaved (s : State) (h : Faulted) : State :=
  match h with
  | .command x =>
    match (s.team (s.xfer x).team).place with
    | .saved _ reason => if reason = 2 then s.relist (s.xfer x).team else s
    | _ => s
  | _ => s

/-- REPLAY_CONTROL_REPLAY: a record that is not held makes the write ignored and counted. -/
def execReplayControlReplay (p n i : Nat) (w : Walk) (s : State) : Out :=
  match (s.part p n).heldAt i with
  | none => .next (s.setPart p n ((s.part p n).count cntReplayIgnored))
  | some (r, h) => .next ((s.replay p n i r h w).wakeSaved h)

/-- REPLAY_CONTROL_FAIL. -/
def execReplayControlFail (p n i : Nat) (s : State) : Out :=
  match (s.part p n).heldAt i with
  | none => .next (s.setPart p n ((s.part p n).count cntReplayIgnored))
  | some (r, h) => .next ((s.failHeld p n i r h).wakeSaved h)

/-! ## Heads (R144, R146, R362) -/

/-- Whether a head may move to a count: not backwards and not past the tail. -/
def headOk (head tail v : Word) : Bool := decide ((v - head).toNat ≤ (tail - head).toNat)

/-- FAULT_QUEUE_HEAD_WRITE. -/
def execFaultQueueHeadWrite (p n : Nat) (v : Word) (s : State) : Out :=
  let x := s.part p n
  .next (s.setPart p n (if headOk x.fqHead x.fqTail v then { x with fqHead := v } else x.count cntHeadIgnored))

/-- The OVERFLOW record of a ring (R146): code, laser 0, the time and the number of events lost; the rest is in no rule. -/
def State.overflowRecord (s : State) (p n : Nat) : State :=
  let x := s.part p n
  let img := field 1 8 ++ unstated 1 ++ field 1 0 ++ unstated 3 ++ field 2 0 ++ unstated 8 ++ field 8 s.now ++ field 8 x.erLost
  let r := s.fillIn img
  (r.2.setPart p n { x with erLost := 0 }).ringPut p n r.1

/-- EVENT_RING_HEAD_WRITE: where a place frees and events were lost, one OVERFLOW record is written. -/
def execEventRingHeadWrite (p n : Nat) (v : Word) (s : State) : Out :=
  let x := s.part p n
  if !headOk x.erHead x.erTail v then .next (s.setPart p n (x.count cntHeadIgnored))
  else
    let s := s.setPart p n { x with erHead := v }
    .next (if x.erLost ≠ 0 ∧ (x.erTail - v).toNat < 256 then s.overflowRecord p n else s)

/-! ## Soft errors (R114, R117, R119, R260) -/

/-- Flips a bit in a list of wrong bits. -/
def flip {α : Type} [BEq α] (l : List α) (e : α) : List α := if l.contains e then l.filter (fun x => !(x == e)) else e :: l


/-- SOFT_ERROR: one bit of a codeword is wrong from now on; it stays latent until it is read or written. -/
def execSoftError (x : ErrSite) (s : State) : Out :=
  match x with
  | .scratch t row b => .next (s.setTeam t { s.team t with errs := flip (s.team t).errs (0, row, b) })
  | .acc t word b => .next (s.setTeam t { s.team t with errs := flip (s.team t).errs (1, word, b) })
  | .near p unit b => .next (s.setPkg p { s.pkg p with errs := flip (s.pkg p).errs (unit, b) })
  | .tile t k row col b => .next (s.setTeam t { s.team t with errs := flip (s.team t).errs (2, (k * 32 + row) * 256 + col, b) })

end Sys2Proof.Machine
end

