-- ==== Sys2Proof/Machine/Tenants.lean ====
section
/-! DEFINITION. Contexts and virtual functions: the PASID table (R356, R357), teardown of a context (R234), context messages at
the modules (R158), states and teardown of a VF (R148, R167, R359 to R361). -/
namespace Sys2Proof.Machine

/-! ## Teardown of a context (R55, R234, R357) -/

/-- Purges the grant requests of some grids (R232, R234). -/
def State.purgeRequests (s : State) (ks : List Nat) : State :=
  let live (r : Req) : Bool := r.state != .purging
  let purge (r : Req) : Req := if live r then { r with state := .purging, frozenAt := s.now } else r
  let s := s.xfers.foldl (fun s e =>
    if ks.contains e.2.grid && e.2.req.any live then s.grantCount e.2 cntOrphan else s) s
  { s with xfers := s.xfers.map (fun (e : Nat × Xfer) => if ks.contains e.2.grid then (e.1, { e.2 with req := e.2.req.map purge }) else e) }

/-- Tears contexts down: the requests of some grids are purged, the grids end ABORTED, and their reply reservations begin to be
released: one whose reply has arrived goes at once (R55). -/
def State.tearDown (s : State) (ks : List Nat) : State :=
  let s := ks.foldl (fun s k => s.endGrid k stAborted) (s.purgeRequests ks)
  let kept := s.fars.filter (fun e => !(ks.contains e.2.grid && e.2.arrived))
  { s with fars := kept.map (fun e =>
      if ks.contains e.2.grid then (e.1, { e.2 with reserved := some (e.2.reserved.getD s.now) }) else e) }

/-- All grids of a context, those too that have ended: what they left in the tables goes with the context. -/
def State.contextAll (s : State) (p part pasid : Nat) : List Nat :=
  (s.grids.filter (fun e => e.2.port == p && e.2.part == part && e.2.pasid == pasid)).map (fun e => e.1)

/-- The live grids of a context. -/
def State.contextGrids (s : State) (p part pasid : Nat) : List Nat :=
  (s.grids.filter (fun e => e.2.port == p && e.2.part == part && e.2.pasid == pasid && !e.2.retired)).map (fun e => e.1)

/-- Sends a message to every module of a partition's map; answers their number. -/
def State.tellModules (s : State) (p part : Nat) (m : Msg) : State × Nat :=
  let ms := (s.part p part).modules
  (ms.foldl (fun s e => s.enqueue ⟨p, mgmt, e.2.1, true⟩ m) s, ms.length)

/-- Takes packets out of a launch queue, each with a record. -/
def State.discard (s : State) (p n : Nat) (f : Queued → Bool) (status refused : Nat) : State :=
  let x := s.part p n
  let gone := x.queue.filter f
  let s := s.setPart p n { x with queue := x.queue.filter (fun q => !f q) }
  gone.foldl (fun s q => s.packetRecord p n q status refused) s

/-! ## The PASID table (R356, R357) -/

/-- An entry of the PASID table. -/
def Pkg.pasidEntry (x : Pkg) (i : Nat) : DWord := Map.get x.pasids i 0

/-- Replaces an entry of the PASID table. -/
def State.setPasid (s : State) (p i : Nat) (v : DWord) : State :=
  let x := s.pkg p
  s.setPkg p { x with pasids := Map.set x.pasids i v }

/-- Notes how many modules an entry waits for. -/
def State.pasidAwait (s : State) (p i n : Nat) : State :=
  let x := s.pkg p
  s.setPkg p { x with pasidWait := Map.set x.pasidWait i n }

/-- REVOKE and BUSY of an entry. -/
def revokeBusy : DWord := 0x6000000000000000#64
/-- The fields of an entry that a write sets: V, PART, FN, PASID. -/
def pasidFields : DWord := 0x8000001FFFEFFFFF#64

/-- Revokes the context of an entry, as the entry stands. -/
def State.pasidRevoke (s : State) (p i : Nat) : State :=
  let e := (s.pkg p).pasidEntry i
  if e.getLsbD 61 then s.ignoredWrite p
  else
    let s := s.setPasid p i (e ||| revokeBusy)
    if !e.getLsbD 63 then s.pasidAwait p i 0
    else
      let part := bits e.toNat 36 32
      let pasid := bits e.toNat 19 0
      let s := s.discard p part (fun q => q.pasid == pasid) stRevoked 1
      let s := s.tearDown (s.contextAll p part pasid)
      let r := s.tellModules p part (.revoke part pasid i)
      r.1.pasidAwait p i r.2

/-- PASID_REVOKE. -/
def execPasidRevoke (p i : Nat) (s : State) : Out := .next (s.pasidRevoke p i)

/-- A write to an entry: one that sets REVOKE revokes; V = 0 frees the entry; a write that makes it valid enables the
context; an entry in use takes no other write. -/
def State.pasidWrite (s : State) (p i : Nat) (v : DWord) : State :=
  let e := (s.pkg p).pasidEntry i
  if v.getLsbD 62 then s.pasidRevoke p i
  else if e.getLsbD 61 then s.ignoredWrite p
  else if !v.getLsbD 63 then s.setPasid p i (v &&& pasidFields)
  else if e.getLsbD 63 then s.ignoredWrite p
  else
    let part := bits v.toNat 36 32
    let s := s.setPasid p i ((v &&& pasidFields) ||| 0x2000000000000000#64)
    let r := s.tellModules p part (.enable part (bits v.toNat 19 0) i)
    r.1.pasidAwait p i r.2

/-- PASID_ENABLE. -/
def execPasidEnable (p i : Nat) (v : DWord) (s : State) : Out := .next (s.pasidWrite p i v)

/-- Whether a message answers a context message of an entry. -/
def Msg.answers (i : Nat) : Msg → Bool
  | .revokeDone k => k == i
  | .enableDone k => k == i
  | _ => false

/-- Whether nothing of a context is left at its package: packets, grids, grant requests. -/
def State.contextGone (s : State) (p part pasid : Nat) : Bool :=
  (s.part p part).queue.all (fun q => q.pasid != pasid) && (s.contextGrids p part pasid).isEmpty &&
  s.xfers.all (fun e => !(e.2.port == p && e.2.part == part && e.2.pasid == pasid && e.2.req.isSome))

/-- PASID_BUSY_CLEAR: every module has answered, and for a revocation the teardown is complete. -/
def execPasidBusyClear (p i : Nat) (s : State) : Out :=
  let x := s.pkg p
  let e := x.pasidEntry i
  let n := (x.inbox.filter (fun m => m.2.2.answers i)).length
  if e.getLsbD 61 && decide (Map.get x.pasidWait i 0 ≤ n) &&
    (!(e.getLsbD 62 && e.getLsbD 63) || s.contextGone p (bits e.toNat 36 32) (bits e.toNat 19 0)) then
    let s := s.setPkg p { x with inbox := x.inbox.filter (fun m => !m.2.2.answers i), pasidWait := Map.erase x.pasidWait i }
    .next (s.setPasid p i (e &&& ~~~0x2000000000000000#64))
  else .next s

/-! ## Context messages at a module (R158, R234) -/

/-- Whether a command belongs to a context. -/
def Xfer.inContext (x : Xfer) (p part pasid : Nat) : Bool := x.port == p && x.part == part && x.pasid == pasid

/-- A module drops what it holds of a context. -/
def State.purgeAt (s : State) (m p part pasid : Nat) : State :=
  let mine := (s.xfers.filter (fun e => e.2.inContext p part pasid && e.2.pmod == m)).map (fun e => e.1)
  mine.foldl (fun s i => let s := s.dropWaits i; s.setXfer i { s.xfer i with atSource := (s.xfer i).kind == .put && (s.xfer i).atSource }) s

/-- CONTEXT_REVOKE_MESSAGE: from package i on, the module answers the PASID with REVOKED. -/
def execContextRevokeMessage (m i : Nat) (s : State) : Out :=
  match s.message (.mod m) (fun x => match x with | .revoke _ _ _ => true | _ => false) with
  | some (p, n, .revoke part pasid idx) =>
    if p ≠ i then .next s else
    let s := s.takeInbox (.mod m) (p, n, .revoke part pasid idx)
    let x := s.mod m
    let c := (p, part, pasid)
    let s := s.setMod m { x with revoked := if x.revoked.contains c then x.revoked else c :: x.revoked }
    let s := s.purgeAt m p part pasid
    .next (if idx < 4096 then s.enqueue ⟨p, mgmt, m, false⟩ (.revokeDone idx) else s)
  | _ => .next s

/-- CONTEXT_ENABLE_MESSAGE: the module answers the PASID of package i normally again. -/
def execContextEnableMessage (m i : Nat) (s : State) : Out :=
  match s.message (.mod m) (fun x => match x with | .enable _ _ _ => true | _ => false) with
  | some (p, n, .enable part pasid idx) =>
    if p ≠ i then .next s else
    let s := s.takeInbox (.mod m) (p, n, .enable part pasid idx)
    let x := s.mod m
    let s := s.setMod m { x with revoked := x.revoked.filter (fun c => c != (p, part, pasid)) }
    .next (s.enqueue ⟨p, mgmt, m, false⟩ (.enableDone idx))
  | _ => .next s

/-! ## Virtual functions (R148, R359 to R361) -/

/-- Whether a number names a VF. -/
def isVf (v : Nat) : Bool := decide (1 ≤ v ∧ v ≤ 1024)

/-- The live grids of a function. -/
def State.vfGrids (s : State) (p v : Nat) : List Nat :=
  (s.grids.filter (fun e => e.2.port == p && e.2.fn == v && !e.2.retired)).map (fun e => e.1)

/-- All grids of a function. -/
def State.vfAll (s : State) (p v : Nat) : List Nat :=
  (s.grids.filter (fun e => e.2.port == p && e.2.fn == v)).map (fun e => e.1)

/-- The teams of a function. -/
def State.vfTeams (s : State) (p v : Nat) : List Nat :=
  (s.teams.filter (fun e => e.2.port == p && (s.grid e.2.grid).fn == v)).map (fun e => e.1)

/-- Sends the pending vectors in ascending order (R148). -/
def State.deliverPending (s : State) (p v : Nat) : State :=
  let x := s.vf p v
  let vs := (List.range 64).filter (fun b => x.pending.getLsbD b)
  let s := s.setVf p v { x with pending := 0 }
  { s with msix := s.msix ++ vs.map (fun b => (p, v, b)) }

/-- VF_RUN: a write of STATE 1. -/
def execVfRun (p v : Nat) (s : State) : Out :=
  let x := s.vf p v
  if isVf v && (x.state == .off || x.state == .paused || x.state == .descheduled) then
    let s := s.setVf p v { x with state := .running }
    let s := ((s.vfTeams p v).filter (fun t => !s.faultWaits t)).foldl State.relist s
    .next (s.deliverPending p v)
  else .next (s.ignoredWrite p)

/-- VF_PAUSE: a write of STATE 2. -/
def execVfPause (p v : Nat) (s : State) : Out :=
  let x := s.vf p v
  .next (if isVf v && x.state == .running then s.setVf p v { x with state := .paused } else s.ignoredWrite p)

/-- VF_DESCHEDULE: a write of STATE 3; saved teams of the function wait as well. -/
def execVfDeschedule (p v : Nat) (s : State) : Out :=
  let x := s.vf p v
  if isVf v && (x.state == .running || x.state == .paused) then
    let s := s.setVf p v { x with state := .descheduled }
    let ts := s.vfTeams p v
    let s := ts.foldl (fun s t => s.preemptTeam t 0 false) s
    .next (ts.foldl (fun s t => s.setTeam t { s.team t with listed := false }) s)
  else .next (s.ignoredWrite p)

/-- Tears a VF down (R361): packets discarded, grids ended, requests purged, its contexts revoked at the modules. -/
def State.vfTearDown (s : State) (p v : Nat) : State :=
  let x := s.vf p v
  let s := s.setVf p v { x with state := .draining, gen := x.gen + 1, pending := 0, since := s.now }
  let s := (List.range 32).foldl (fun s n => s.discard p n (fun q => q.fn == v) stAborted 0) s
  let s := s.tearDown (s.vfAll p v)
  let mine := ((s.pkg p).pasids.map (fun e => e.2.toNat)).filter (fun e => bits e 63 63 == 1 && bits e 31 21 == v)
  mine.foldl (fun s e => (s.tellModules p (bits e 36 32) (.revoke (bits e 36 32) (bits e 19 0) 4096)).1) s

/-- Whether a VF can be torn down. -/
def Vf.up (x : Vf) : Bool := x.state == .running || x.state == .paused || x.state == .descheduled

/-- VF_DRAIN: a write of STATE 0. -/
def execVfDrain (p v : Nat) (s : State) : Out :=
  .next (if isVf v && (s.vf p v).up then s.vfTearDown p v else s.ignoredWrite p)

/-- FLR: the same for a function-level reset, which no register write is. -/
def execFlr (p v : Nat) (s : State) : Out := .next (if isVf v && (s.vf p v).up then s.vfTearDown p v else s)

/-- VF_TEARDOWN_COMPLETE: no grid, request or reservation of the function is left. -/
def execVfTeardownComplete (p v : Nat) (s : State) : Out :=
  let x := s.vf p v
  let mine (k : Nat) : Bool := (s.grid k).port == p && (s.grid k).fn == v
  if x.state == .draining && (s.vfGrids p v).isEmpty && s.xfers.all (fun e => !(mine e.2.grid && e.2.req.isSome)) &&
    s.fars.all (fun e => !(mine e.2.grid && e.2.ret)) then
    .next (s.setVf p v { x with state := .off })
  else .next s

end Sys2Proof.Machine
end

