-- ==== Sys2Proof/Machine/Attest.lean ====
section
/-! DEFINITION. Garnet snapshots and meter resets (R182, R367, R368), SPDM (R369). -/
namespace Sys2Proof.Machine

/-- The meters of a partition, in the order of the snapshot. -/
def meterCount : Nat := 135

/-- The 1,144 bytes of a snapshot. -/
def Part.snapshot (x : Part) (n now : Nat) : List Byte :=
  bytesOf 4 (n + if x.resetSeen then 2 ^ 31 else 0) ++ bytesOf 4 0 ++ bytesOf 8 (x.snapNo + 1) ++ bytesOf 8 now ++
  bytesOf 32 x.resetMask.toNat ++ (List.range meterCount).flatMap (fun k => bytesOf 8 (Map.get x.meters k 0)) ++ bytesOf 8 0

/-- Takes a snapshot of a partition into GBUF, with its chain value. -/
def State.snapshot (s : State) (p n : Nat) : State :=
  let x := s.part p n
  let b := x.snapshot n s.now
  let h := sha384 (x.chain ++ b)
  let s := s.setPart p n { x with snap := b, chain := h, snapNo := x.snapNo + 1, resetMask := 0, resetSeen := false }
  s.setPkg p { s.pkg p with gbuf := b ++ h }

/-- GARNET_SNAPSHOT: a write of GSNAP. -/
def execGarnetSnapshot (p n : Nat) (s : State) : Out := .next (s.snapshot p (n % 32))

/-- The meters that a mask names. -/
def meterMask (m : BitVec 256) : BitVec 256 := m &&& (BitVec.ofNat 256 (2 ^ meterCount - 1))

/-- GARNET_RESET: by the management processor only. -/
def execGarnetReset (p n : Nat) (mask : BitVec 256) (fw : Bool) (s : State) : Out :=
  if !fw then .next s else
  let x := s.part p (n % 32)
  let m := meterMask mask
  .next (s.setPart p (n % 32) { x with
    meters := x.meters.map (fun e => (e.1, if m.getLsbD e.1 then 0 else e.2))
    resetMask := x.resetMask ||| m
    resetSeen := true })

/-! ## SPDM (R369); the bytes of a reply are SPDM 1.3's and the device keys' -/

/-- Answers a request with a free value. -/
def State.spdmAnswer (s : State) (code : Nat) : State :=
  { s with spdm := Config.spdmReply code s.freeCount, freeCount := s.freeCount + 1 }

/-- GET_VERSION. -/
def execGetVersion (_ : Nat) (s : State) : Out := .next (s.spdmAnswer 0)
/-- GET_CAPABILITIES. -/
def execGetCapabilities (_ : Nat) (s : State) : Out := .next (s.spdmAnswer 1)
/-- NEGOTIATE_ALGORITHMS. -/
def execNegotiateAlgorithms (_ : Nat) (s : State) : Out := .next (s.spdmAnswer 2)
/-- GET_DIGESTS. -/
def execGetDigests (_ : Nat) (s : State) : Out := .next (s.spdmAnswer 3)
/-- GET_CERTIFICATE. -/
def execGetCertificate (_ : Nat) (s : State) : Out := .next (s.spdmAnswer 4)
/-- CHALLENGE. -/
def execChallenge (_ : Nat) (s : State) : Out := .next (s.spdmAnswer 5)

/-- GET_MEASUREMENTS: a Garnet index takes a snapshot, and the reply carries it with its chain value. -/
def execGetMeasurements (p i : Nat) (s : State) : Out :=
  if 0x10 ≤ i ∧ i ≤ 0x2F then
    let s := s.snapshot p (i - 0x10)
    .next { s with
      spdm := Config.spdmReply 6 s.freeCount ++ (s.pkg p).gbuf ++ Config.spdmReply 7 s.freeCount
      freeCount := s.freeCount + 1 }
  else .next (s.spdmAnswer 6)

end Sys2Proof.Machine
end

