-- ==== Sys2Proof/Machine/Float.lean ====
section
/-! DEFINITION. Floating-point, conversion and block-format instructions (R277 to R289) and LRED.FADD (R261). -/
namespace Sys2Proof.Machine

/-- A guarded A-format float operation of the lane stream on 32-bit patterns (R278). -/
def State.flt3 (s : State) (n : Bool) (d a b : Reg) (g : BitVec 5) (flops : Nat) (f : Nat → Nat → Nat → Nat) : State :=
  s.compute { laneUse with srcs := [a, b] } .F n d a b g.toNat false flops
    fun w x => BitVec.ofNat w (f x.a.toNat x.b.toNat x.d.toNat)

/-- FADD (R279). -/
def execFadd (n : Bool) (d a b : Reg) (g : BitVec 5) (s : State) : Out := .next (s.flt3 n d a b g 1 fun x y _ => fF32.fadd x y)
/-- FSUB. -/
def execFsub (n : Bool) (d a b : Reg) (g : BitVec 5) (s : State) : Out := .next (s.flt3 n d a b g 1 fun x y _ => fF32.fsub x y)
/-- FMUL. -/
def execFmul (n : Bool) (d a b : Reg) (g : BitVec 5) (s : State) : Out := .next (s.flt3 n d a b g 1 fun x y _ => fF32.fmul x y)
/-- FFMA. -/
def execFfma (n : Bool) (d a b : Reg) (g : BitVec 5) (s : State) : Out := .next (s.flt3 n d a b g 2 fun x y z => fF32.ffma x y z)
/-- FMIN. -/
def execFmin (n : Bool) (d a b : Reg) (g : BitVec 5) (s : State) : Out := .next (s.flt3 n d a b g 1 fun x y _ => fF32.minNum x y)
/-- FMAX. -/
def execFmax (n : Bool) (d a b : Reg) (g : BitVec 5) (s : State) : Out := .next (s.flt3 n d a b g 1 fun x y _ => fF32.maxNum x y)

/-- FADD64 (R280). -/
def execFadd64 (n : Bool) (d a b : Reg) (g : BitVec 5) (s : State) : Out :=
  .next (s.computePair .F n d a b true g.toNat 0 fun x => BitVec.ofNat 64 (fF64.fadd x.a.toNat x.b.toNat))
/-- FMUL64. -/
def execFmul64 (n : Bool) (d a b : Reg) (g : BitVec 5) (s : State) : Out :=
  .next (s.computePair .F n d a b true g.toNat 0 fun x => BitVec.ofNat 64 (fF64.fmul x.a.toNat x.b.toNat))
/-- FFMA64. -/
def execFfma64 (n : Bool) (d a b : Reg) (g : BitVec 5) (s : State) : Out :=
  .next (s.computePair .F n d a b true g.toNat 0 fun x => BitVec.ofNat 64 (fF64.ffma x.a.toNat x.b.toNat x.d.toNat))

/-- The two elements of a packed form, computed independently (R281). -/
def packed (f : Nat → Nat → Nat → Nat) (x y z : Nat) : Nat :=
  f (x % 65536) (y % 65536) (z % 65536) + f (x / 65536 % 65536) (y / 65536 % 65536) (z / 65536 % 65536) * 65536

/-- HXADD (R281). -/
def execHxadd (n : Bool) (d a b : Reg) (g : BitVec 5) (s : State) : Out := .next (s.flt3 n d a b g 2 (packed fun x y _ => fF16.fadd x y))
/-- HXMUL. -/
def execHxmul (n : Bool) (d a b : Reg) (g : BitVec 5) (s : State) : Out := .next (s.flt3 n d a b g 2 (packed fun x y _ => fF16.fmul x y))
/-- HXFMA. -/
def execHxfma (n : Bool) (d a b : Reg) (g : BitVec 5) (s : State) : Out := .next (s.flt3 n d a b g 4 (packed fF16.ffma))
/-- BXADD. -/
def execBxadd (n : Bool) (d a b : Reg) (g : BitVec 5) (s : State) : Out := .next (s.flt3 n d a b g 2 (packed fun x y _ => fBf16.fadd x y))
/-- BXMUL. -/
def execBxmul (n : Bool) (d a b : Reg) (g : BitVec 5) (s : State) : Out := .next (s.flt3 n d a b g 2 (packed fun x y _ => fBf16.fmul x y))
/-- BXFMA. -/
def execBxfma (n : Bool) (d a b : Reg) (g : BitVec 5) (s : State) : Out := .next (s.flt3 n d a b g 4 (packed fBf16.ffma))

/-- A FUNARY function on binary32 patterns (R282). -/
def State.funary (s : State) (n : Bool) (d a : Reg) (f : Nat → Nat) : State :=
  s.compute { laneUse with srcs := [a] } .T n d a a 0 true 0 fun w x => BitVec.ofNat w (f x.a.toNat)

/-- A function of R248, rounded once to nearest even. -/
def viaNear (f : FV → FV) (x : Nat) : Nat := fF32.near (f (fF32.val x))

/-- FABS. -/
def execFabs (n : Bool) (d a : Reg) (s : State) : Out := .next (s.funary n d a fun x => x % 2 ^ 31)
/-- FNEG. -/
def execFneg (n : Bool) (d a : Reg) (s : State) : Out := .next (s.funary n d a fun x => (x + 2 ^ 31) % 2 ^ 32)
/-- FRCP. -/
def execFrcp (n : Bool) (d a : Reg) (s : State) : Out := .next (s.funary n d a (viaNear frcpV))
/-- FRSQ. -/
def execFrsq (n : Bool) (d a : Reg) (s : State) : Out := .next (s.funary n d a (viaNear frsqV))
/-- FSQRT. -/
def execFsqrt (n : Bool) (d a : Reg) (s : State) : Out := .next (s.funary n d a (viaNear fsqrtV))
/-- FEXP2. -/
def execFexp2 (n : Bool) (d a : Reg) (s : State) : Out := .next (s.funary n d a (viaNear fexp2V))
/-- FLOG2. -/
def execFlog2 (n : Bool) (d a : Reg) (s : State) : Out := .next (s.funary n d a (viaNear flog2V))
/-- FSINPI. -/
def execFsinpi (n : Bool) (d a : Reg) (s : State) : Out := .next (s.funary n d a (viaNear fsinpiV))
/-- FCOSPI. -/
def execFcospi (n : Bool) (d a : Reg) (s : State) : Out := .next (s.funary n d a (viaNear fcospiV))
/-- FFLOOR. -/
def execFfloor (n : Bool) (d a : Reg) (s : State) : Out := .next (s.funary n d a (viaNear (integralV .rdn)))
/-- FCEIL. -/
def execFceil (n : Bool) (d a : Reg) (s : State) : Out := .next (s.funary n d a (viaNear (integralV .rup)))
/-- FTRUNC. -/
def execFtrunc (n : Bool) (d a : Reg) (s : State) : Out := .next (s.funary n d a (viaNear (integralV .rtz)))
/-- FRINT. -/
def execFrint (n : Bool) (d a : Reg) (s : State) : Out := .next (s.funary n d a (viaNear (integralV .rne)))
/-- FCLASS (R283). -/
def execFclass (n : Bool) (d a : Reg) (s : State) : Out := .next (s.funary n d a fclassBits)

/-- FCMP (R284). -/
def execFcmp (p : BitVec 5) (k : FCnd) (m : Cmb) (a b : Reg) (s : State) : Out :=
  .next (s.compare { laneUse with srcs := [a, b] } .F p.toNat m a b 1 fun _ x y => fcndHolds k (fF32.val x.toNat) (fF32.val y.toNat))
/-- FCMP64. -/
def execFcmp64 (p : BitVec 5) (k : FCnd) (m : Cmb) (a b : Reg) (s : State) : Out :=
  .next (s.comparePair .F p.toNat m a b 0 fun x y => fcndHolds k (fF64.val x.toNat) (fF64.val y.toNat))

/-- Whether CVT may name a format (R252). -/
def cvtFmt : Fmt → Bool
  | .te8 => false
  | .te4 => false
  | _ => true

/-- CVT (R285 to R287): wide formats take pairs; `zero` only for a 32-bit destination. -/
def execCvt (sat : Bool) (d a : Reg) (f g : Fmt) (r : Rnd) (s : State) : Out :=
  let blocks := s.onCur (fun _ st => st.blocks)
  let act := s.onCur (fun _ st => st.ex)
  let okD := if fmtWide f then pairOk blocks d.toNat else (dstOf s.inLane blocks d.toNat).isSome
  let okA := !fmtWide g || pairSrcOk blocks a.toNat
  .next (s.withUse { laneUse with srcs := if fmtWide g then [] else [a], ok := cvtFmt f && cvtFmt g && okD && okA } act fun s pops =>
    let c := s.ctx pops
    (s.modCur (fun w st =>
      let vals := valsOf st.n act (fun l =>
        BitVec.ofNat 64 (cvtBits f g r sat (if fmtWide g then (st.pair a l).toNat else (st.value c a l).toNat)))
      if fmtWide f then st.producePair c.clk .T (some d.toNat) vals
      else st.produce c.clk .T (dstOf c.lane st.blocks d.toNat) (vals.map (fun o => o.map (fun (v : DWord) => v.setWidth w))))).done)

/-- TXEXP (R288): collective. -/
def execTxexp (n : Bool) (d a : Reg) (r : Rnd) (te4 : Bool) (s : State) : Out :=
  let blocks := s.onCur (fun _ st => st.blocks)
  let act := s.onCur (fun _ st => st.ex)
  let dst := resultDst s.inLane blocks n d
  .next (s.withUse { laneUse with srcs := [a], ok := dst.isSome, conv := true } act fun s pops =>
    let c := s.ctx pops
    (s.modCur (fun w st =>
      let p := tePair te4 r ((List.range 32).map (fun l => fF32.val (st.value c a l).toNat))
      st.produce c.clk .T (dst.getD none) (valsOf st.n act (fun _ => BitVec.ofNat w p)))).done)

/-- TXCV in one direction, per lane (R289). -/
def State.txcv (s : State) (n : Bool) (d a b : Reg) (f : Nat → Nat → Nat) : State :=
  s.compute { laneUse with srcs := [a, b] } .T n d a b 0 true 0 fun w x => BitVec.ofNat w (f x.a.toNat (x.b.toNat % 65536))

/-- TXCV.PACK. -/
def execTxcvPack (n : Bool) (d a b : Reg) (r : Rnd) (e : Bool) (s : State) : Out :=
  .next (s.txcv n d a b fun x p => tePack e r p (fF32.val x))
/-- TXCV.UNPACK: RND is ignored. -/
def execTxcvUnpack (n : Bool) (d a b : Reg) (_r : Rnd) (e : Bool) (s : State) : Out :=
  .next (s.txcv n d a b fun x p => fF32.near (teVal e p (x % (if e then 16 else 256))))

/-- LRED.FADD (R261): the fixed tree over the executing lanes. -/
def execLredFadd (n : Bool) (d a : Reg) (s : State) : Out :=
  .next (s.laneOp { laneUse with srcs := [a] } .I n d fun c w st _ =>
    BitVec.ofNat w ((treeSum 6 0 32 (valsOf st.n st.ex (fun l => leaf (st.value c a l).toNat))).getD 0))

end Sys2Proof.Machine
end

