-- ==== Sys2Proof/Machine/Registers.lean ====
section
/-! DEFINITION. What the host and the management processor write and read: partition blocks (R177, R362, R363), firmware tables
(R151, R152, R155), memory windows (R214, R352, R354), module management apertures (R358), power (R370, R371), BAR0 (R353). -/
namespace Sys2Proof.Machine

/-- Whether a partition has no resident, reserved or saved team. -/
def State.idlePart (s : State) (p n : Nat) : Bool :=
  s.teams.all (fun e => !(e.2.port == p && e.2.part == n && e.2.place != .retired))

/-- Counts a partition write that is ignored (R362, R363). -/
def State.partIgnored (s : State) (p n : Nat) : State := s.setPart p n ((s.part p n).count cntPartIgnored)

/-! ## Partition blocks -/

/-- COUNTER_LOAD (R177): a counter loaded to 0 releases its packets. -/
def State.counterLoad (s : State) (p n c : Nat) (v : Nat) : State :=
  let x := s.part p n
  let y := { x with depc := Map.set x.depc (c % 256) (BitVec.ofNat 16 v) }
  s.setPart p n (if v % 2 ^ 16 = 0 then y.releaseHeld (c % 256) else y)

/-- COUNTER_LOAD. -/
def execCounterLoad (p n c : Nat) (v : Word) (s : State) : Out := .next (s.counterLoad p n c v.toNat)

/-- The fields of a near map or save area entry (R363). -/
def extentFields : DWord := 0xC0000007007F003F#64

/-- Whether two extents overlap. -/
def extentsMeet (a b : Nat × Nat × Bool) : Bool := decide (a.1 < b.1 + b.2.1 ∧ b.1 < a.1 + a.2.1)

/-- The valid extents of a map but for one entry. -/
def otherExtents (m : Map DWord) (n : Nat) (skip : Option Nat) : List (Nat × Nat × Bool) :=
  ((List.range n).filter (fun i => skip != some i)).filterMap (fun i => extentOf (Map.get m i 0))

/-- The valid extents of a package but for the entry written. -/
def Pkg.extentsBut (k : Pkg) (n : Nat) (save : Bool) (i : Nat) : List (Nat × Nat × Bool) :=
  k.parts.flatMap (fun e =>
    otherExtents e.2.nearMap 16 (if e.1 = n ∧ !save then some i else none) ++
    otherExtents e.2.saveMap 4 (if e.1 = n ∧ save then some i else none))

/-- Whether an entry is one that R363 ignores; the limits hold for an entry without V too. -/
def Pkg.badExtent (k : Pkg) (n : Nat) (save : Bool) (i : Nat) (v : DWord) : Bool :=
  let len := bits v.toNat 22 16
  decide (64 < len) || decide (64 < bits v.toNat 5 0 + len) ||
  match extentOf v with
  | none => false
  | some e => len == 0 || (k.extentsBut n save i).any (extentsMeet e)

/-- A write of a near map or save area entry: SECURE by the management processor alone, and of the near map alone. -/
def State.extentWrite (s : State) (p n : Nat) (save : Bool) (i : Nat) (v : DWord) (fw : Bool) : State :=
  let x := s.part p n
  let secure : DWord := 0x4000000000000000#64
  let old := Map.get x.nearMap i 0
  let f := v &&& extentFields &&& ~~~secure
  let w := if save then f else f ||| ((if fw then v else old) &&& secure)
  if (if save then 4 else 16) ≤ i then s
  else if !s.idlePart p n || (s.pkg p).badExtent n save i w then s.partIgnored p n
  else if save then s.setPart p n { x with saveMap := Map.set x.saveMap i w }
  else s.setPart p n { x with nearMap := Map.set x.nearMap i w }

/-- NEAR_MAP_WRITE. -/
def execNearMapWrite (p n : Nat) (save : Bool) (i : Nat) (v : DWord) (fw : Bool) (s : State) : Out :=
  .next (s.extentWrite p n save i v fw)

/-- A partition at the sixth step of its set-up: its grid counter and counts start afresh (R365, R367). -/
def Part.setUp (x : Part) (base : DWord) : Part :=
  { x with fqBase := base, fqHead := 0, fqTail := 0, gridCtr := 1, chain := copies 48 0, snapNo := 0 }

/-- Firmware publishes a capability list (R169): the last step of a set-up before the launch queue opens (R365). -/
def State.publishCaps (s : State) (p n : Nat) (head : DWord) : State :=
  if (s.part p n).enabled || !s.idlePart p n then s else s.setPart p n { s.part p n with caphead := head }

/-! ## Firmware tables -/

/-- The positions that a remap entry names. -/
def positions (e : List Byte) : List Byte := (e.take 12).filter (fun b => b != 0xFF)

/-- Whether an entry written for a slice names a position that another slice of its die already names (R151). -/
def Pkg.clashes (x : Pkg) (k : Nat) (v : List Byte) : Bool :=
  (List.range 4).any (fun i =>
    let j := k / 4 * 4 + i
    j != k && (positions (Map.get x.remap j [])).any (fun b => (positions v).contains b))

/-- A write of a slice's remap entry: by firmware, and not while the partition that owns the slice has a team (R152); nor while
the partition that the write gives the slice to has one, whose cores it would number anew (R10; DEDUCED, log entry 47). Of two
entries that name one position the one written later is invalid (R151). The first slice of a partition begins its set-up: its
dependence counters are 0 (R177, R365; DEDUCED, log entry 47). -/
def State.remapWrite (s : State) (p k : Nat) (v : List Byte) (fw : Bool) : State :=
  let x := s.pkg p
  let owner (e : List Byte) : Nat := (e.getD 12 0xFF).toNat
  if !fw || decide (32 ≤ k) || v.length != 16 then s
  else if !s.idlePart p (owner (Map.get x.remap k [])) || !s.idlePart p (owner v) then s.setPkg p (x.count cntRemapIgnored)
  else
    let rest := x.clash.filter (fun j => j != k)
    let s := s.setPkg p { x with remap := Map.set x.remap k v, clash := if x.clashes k v then k :: rest else rest }
    let n := owner v
    if n < 32 ∧ x.remap.all (fun e => owner e.2 != n) then s.setPart p n { s.part p n with depc := [] } else s

/-- Firmware retires a core (R9): it is fused off from then on. The numbers of a partition that is running do not change (R10):
a core of one that has teams is not retired. -/
def State.retireCore (s : State) (p die pos : Nat) : State :=
  let x := s.pkg p
  let held (n : Nat) : Bool :=
    (slicesOf x n).any (fun k => k / 4 == die && (positions (Map.get x.remap k [])).contains (BitVec.ofNat 8 pos))
  if 8 ≤ die ∨ 52 ≤ pos ∨ x.fused.contains (64 * die + pos) ∨ (List.range 32).any (fun n => held n && !s.idlePart p n) then s
  else s.setPkg p { x with fused := x.fused ++ [64 * die + pos] }

/-- REMAP_WRITE. -/
def execRemapWrite (p k : Nat) (v : List Byte) (fw : Bool) (s : State) : Out := .next (s.remapWrite p k v fw)

/-! ## Memory windows of the PF (R352, R354) -/

/-- The units of a near range that more than one wrong bit makes unreadable. -/
def Pkg.badUnits (k : Pkg) (a n : Nat) : List Nat :=
  ((k.errs.map (fun e => e.1)).eraseDups).filter (fun u => decide (64 * u < a + n ∧ a < 64 * u + 64 ∧ 2 ≤ k.errCount u))

/-- HOST_NEAR_ACCESS: die d's stack lies at d × 128 MiB. What the host has written up to now reaches every acquire at system scope
(R214). A unit with an uncorrectable error reads as free bytes. -/
def execHostNearAccess (p a : Nat) (x : HostAccess) (s : State) : Out :=
  match x with
  | .write b =>
    if 0x40000000 < a + b.length then .next s
    else
      let s := s.nearWrite p a b none none 0
      .next (s.setPkg p { s.pkg p with hostPos := (s.pkg p).pos })
  | .read n =>
    if 0x40000000 < a + n then .next s
    else
      let bad := (s.pkg p).badUnits a n
      let img := (s.nearLatest p none a n).mapIdx (fun i b => if bad.contains ((a + i) / 64) then none else some b)
      let r := s.fillIn img
      .next { r.2 with hostRead := r.1 }

/-- Refuses a far-window access (R354). -/
def State.farRefused (s : State) (p : Nat) (x : HostAccess) : State :=
  let s := s.setPkg p ((s.pkg p).count cntFarWindow)
  match x with
  | .write _ => s
  | .read n => { s with hostRead := copies n 0xFF }

/-- Performs a far-window access whose units have all translated. -/
def State.farWindow (s : State) (m : Nat) (c : FarCtx) (v : Map Verdict) (a : Nat) (x : HostAccess) : State :=
  match x with
  | .write b =>
    let s := (b.mapIdx (fun i y => (i, y))).foldl (fun s e => s.farWrite m (physOf v (a + e.1)) [e.2]) s
    s.sample m c.tenant (physOf v a) 1
  | .read n =>
    let b := (List.range n).map (fun i => (s.mod m).mem.read (physOf v (a + i)))
    { s.sample m c.tenant (physOf v a) 0 with hostRead := b }

/-- HOST_FAR_ACCESS: at offset o of far window k, translated at the module in the non-secure world; a channel that is DOWN
and a dark port carry nothing (R17). -/
def execHostFarAccess (p k o : Nat) (x : HostAccess) (w : Walk) (s : State) : Out :=
  let e := (Map.get (s.pkg p).farwin k 0).toNat
  let part := bits e 42 38
  let lmod := bits e 37 32
  let a := lmod * 2 ^ 50 + bits e 17 0 * 2 ^ 32 + o
  let n := match x with | .read n => n | .write b => b.length
  if n = 0 ∨ 2 ^ 32 < o + n then .next s
  else match (if bits e 63 63 = 1 then (s.part p part).module lmod else none) with
    | none => .next (s.farRefused p x)
    | some (m, t) =>
      if (s.planes p part m).isEmpty then .next (s.farRefused p x)
      else if !s.reaches p part m then .next s
      else
        let c : FarCtx := { port := p, part := part, pasid := bits e 62 43, tenant := t, secure := false }
        let need := match x with | .read _ => Need.read | .write _ => Need.write
        let r := s.verdicts m c need w (unitsOf ((List.range n).map (fun i => a + i)))
        match judged r.2 with
        | .ok => .next (r.1.farWindow m c r.2 a x)
        | _ => .next (r.1.farRefused p x)

/-! ## Module management apertures (R147, R158, R159, R168, R358) -/

/-- The 256 bytes of a place of the launch mailbox in the aperture (R380; their layout is the model's own, log entry 26): bytes 0 to 7
the generation, 8 to 15 the acknowledgement mask, 16 to 23 the time at which its replication was complete in ns, 0 before, 24 to 31 GRID, partition and issuing
port, 32 to 95 the packet, then the arrival of each port's acknowledgement, in 0.1 µs from the replication, two bytes each. -/
def MailEntry.image (x : MailEntry) : List Byte :=
  bytesOf 8 x.g ++ bytesOf 8 (x.acks.foldl (fun n e => n ||| 2 ^ e.1) 0) ++ bytesOf 8 (x.start.getD 0) ++
  bytesOf 4 x.grid ++ bytesOf 2 x.part ++ bytesOf 2 x.port ++ (x.packet ++ copies 64 0).take 64 ++
  (List.range 64).flatMap (fun p => bytesOf 2 (match x.acks.find? (fun e => e.1 == p) with
    | some e => (e.2 - x.start.getD e.2) / 100
    | none => 0)) ++ copies 32 0

/-- The readable value of the 8 bytes at a multiple of 8. LEVEL is kept unbounded and read modulo 2^32: R168 gives it 32 signed bits and
BURST 32 unsigned ones, and does not say what it holds where BURST is 2^31 or more (DESIGN CHOICE, log entry 46). -/
def Module.mgRead (x : Module) (r : Nat) : DWord :=
  if r < 0x1000 then
    let b := x.bucket (r / 16)
    if r % 16 = 0 then BitVec.ofNat 64 (b.newRate + b.newBurst * 2 ^ 32)
    else BitVec.ofNat 64 ((BitVec.ofInt 32 b.level).toNat + b.newPort * 2 ^ 32 + b.newPart * 2 ^ 40 + b.newFlags * 2 ^ 48)
  else if r = 0x1000 then BitVec.ofNat 64 x.hotctl
  else if 0x2000 ≤ r ∧ r < 0x3000 then
    let e := Map.get x.rings ((r - 0x2000) / 16) (0, 0)
    if r % 16 = 0 then e.1 else e.2
  else if 0x3000 ≤ r ∧ r < 0xB000 then
    let e := Map.get x.roots ((r - 0x3000) / 16) (0, 0)
    if r % 16 = 0 then e.1 else e.2
  else if r = 0xB000 then x.wmbase
  else if 0xC000 ≤ r ∧ r < 0x10000 then
    match x.mail[(r - 0xC000) / 256]? with
    | some e => BitVec.ofNat 64 (ofBytes ((e.image.drop (r % 256)).take 8))
    | none => 0
  else if 0xB400 ≤ r ∧ r < 0xB800 then
    let t := (r - 0xB400) / 4
    BitVec.ofNat 64 ((Map.get x.ringIdx t (0, 0)).2 + (Map.get x.ringIdx (t + 1) (0, 0)).2 * 2 ^ 32)
  else 0

/-- Whether a hotness ring may have a size: 2^8 to 2^20 records (R130), or none. -/
def ringSizeOk (n : Nat) : Bool := n == 0 || (List.range 13).any (fun i => n == 2 ^ (i + 8))

/-- Writes the 8 bytes at a multiple of 8; bucket fields wait for the next window (R150), WMBASE is for firmware, and a ring size
that R130 does not allow is not written (log entry 11). -/
def Module.mgWrite (x : Module) (r : Nat) (v : DWord) (fw : Bool) : Module :=
  let n := v.toNat
  if r < 0x1000 then
    let b := x.bucket (r / 16)
    let b := if r % 16 = 0 then { b with newRate := bits n 31 0, newBurst := bits n 63 32 }
      else { b with newPort := bits n 39 32, newPart := bits n 47 40, newFlags := bits n 63 48 }
    { x with buckets := Map.set x.buckets (r / 16) b }
  else if r = 0x1000 then
    if bits n 4 0 < 8 ∨ 20 < bits n 4 0 then x.count cntRegIgnored else { x with hotctl := bits n 4 0 + 128 * bits n 7 7 }
  else if 0x2000 ≤ r ∧ r < 0x3000 then
    let t := (r - 0x2000) / 16
    let e := Map.get x.rings t (0, 0)
    if r % 16 = 0 then { x with rings := Map.set x.rings t (v, e.2) }
    else if ringSizeOk n then { x with rings := Map.set x.rings t (e.1, v) }
    else x
  else if 0x3000 ≤ r ∧ r < 0xB000 then
    let t := (r - 0x3000) / 16
    let e := Map.get x.roots t (0, 0)
    let f := if r % 16 = 0 then (v &&& 0x0003FFFFFFFC0001#64, e.2) else (e.1, v &&& 0x0003FFFFFFFFF03F#64)
    { x with roots := Map.set x.roots t f }
  else if r = 0xB000 then (if fw then { x with wmbase := v } else x)
  else if 0xB400 ≤ r ∧ r < 0xB800 then
    let t := (r - 0xB400) / 4
    let put (m : Map (Nat × Nat)) (t c : Nat) : Map (Nat × Nat) := Map.set m t ((Map.get m t (0, 0)).1, c)
    { x with ringIdx := put (put x.ringIdx t (bits n 31 0)) (t + 1) (bits n 63 32) }
  else x

/-- The bytes of a register with some bytes of a write at an offset laid over them. -/
def overlayBytes (old : DWord) (r o : Nat) (b : List Byte) : DWord :=
  BitVec.ofNat 64 (ofBytes ((bytesOf 8 old.toNat).mapIdx (fun i y => if o ≤ r + i then b.getD (r + i - o) y else y)))

/-- The registers of 8 bytes that some bytes touch. -/
def regsOf (o n : Nat) : List Nat := (List.range ((o + n + 7) / 8 - o / 8)).map (fun i => 8 * (o / 8 + i))

/-- The management channel between a package and a module in a direction (R389). -/
def mgmtLink (p m : Nat) (up : Bool) : LinkId := { port := p, part := mgmt, pmod := m, up := up }

/-- Whether an access to an aperture can go over the management channel now: there, and for a read back (R389). -/
def State.apertureOpen (s : State) (p m : Nat) (x : HostAccess) : Bool :=
  s.passes (mgmtLink p m true) && (match x with | .read _ => s.passes (mgmtLink p m false) | .write _ => true)

/-- What an access to the management aperture of a module does there. -/
def State.apertureAt (s : State) (p m o : Nat) (x : HostAccess) (fw : Bool) : State :=
  let y := s.mod m
  match x with
  | .read n => { s with hostRead := (List.range n).map (fun i => (bytesOf 8 (y.mgRead ((o + i) / 8 * 8)).toNat).getD ((o + i) % 8) 0) }
  | .write b =>
    if !y.managers.getLsbD p then s.setMod m (y.count cntMgmtDropped)
    else s.setMod m ((regsOf o b.length).foldl (fun y r => y.mgWrite r (overlayBytes (y.mgRead r) r o b) fw) y)

/-- An access to an aperture: it goes as a message of the management channel, and what is read comes back as one (R358, R389). While
the channel cannot carry it, it waits. -/
def State.aperture (s : State) (p m o : Nat) (x : HostAccess) (fw : Bool) : State :=
  if !s.apertureOpen p m x then s else
  let s := (s.pass (mgmtLink p m true) (.access o x fw)).apertureAt p m o x fw
  match x with
  | .read _ => s.pass (mgmtLink p m false) (.readBack s.hostRead)
  | .write _ => s

/-- MGMT_APERTURE_ACCESS. -/
def execMgmtApertureAccess (p m o : Nat) (x : HostAccess) (fw : Bool) (s : State) : Out := .next (s.aperture p m o x fw)

/-! ## Power and bring-up (R370, R371) -/

/-- POWER_ARBITER_TICK: each die's clock, in 100 MHz units, from FLOOR to nominal. -/
def execPowerArbiterTick (p : Nat) (clocks : List Nat) (s : State) : Out :=
  let k := s.pkg p
  if clocks.length = 8 ∧ clocks.all (fun c => decide (k.floor ≤ c ∧ c ≤ 21)) then .next (s.setPkg p { k with clocks := clocks })
  else .next s

/-- POWER_GOOD: the package that stands at the port is up with its reset values; its channels are commissioned, numbers and credits at 0. -/
def execPowerGood (p : Nat) (s : State) : Out :=
  let k := s.pkg p
  if k.up || s.dark.contains p then .next s
  else
    let s := s.setPkg p { Pkg.blank with up := true, fused := k.fused, lasers := k.lasers }
    .next { s with links := s.links.filter (fun e => e.1.port != p) }

/-- PWRCAP. -/
def State.pwrcapWrite (s : State) (p : Nat) (v : Nat) : State :=
  let f := bits v 23 16
  if f < 12 ∨ 21 < f then s.ignoredWrite p else s.setPkg p { s.pkg p with floor := f, cap := min (bits v 11 0) 3600 }

/-! ## BAR0 (R353) -/

/-- The state that an outcome gives. -/
def State.after (s : State) (o : Out) : State := match o with | .next t => t | _ => s

/-- TFENCECTL (R216). -/
def State.tfenceWrite (s : State) (p v : Nat) : State :=
  if 2 ≤ bits v 29 28 then s.ignoredWrite p
  else if bits v 31 31 = 0 then s
  else if bits v 29 28 = 0 then s.after (execTfencectlModule p (bits v 12 8) (bits v 5 0) s)
  else s.after (execTfencectlDomain p (bits v 12 8) s)

/-- The global page. -/
def State.globalWrite (s : State) (p o : Nat) (v : DWord) (fw : Bool) : State :=
  let n := v.toNat
  if o = 0x010 then (if fw then s.pwrcapWrite p n else s)
  else if o = 0x100 then s.tfenceWrite p n
  else if o = 0x110 then
    if bits n 31 31 = 1 then s.preemptWrite p (bits n 28 24) (bits n 20 12) (bits n 2 0) (bits n 29 29 == 1) else s
  else if o = 0x120 then (if bits n 31 31 = 1 then s.after (execChanctlRecommission p (bits n 12 8) (bits n 5 0) s) else s)
  else if 0x200 ≤ o ∧ o < 0x280 ∧ o % 8 = 0 then
    let x := s.pkg p
    s.setPkg p { x with farwin := Map.set x.farwin ((o - 0x200) / 8) (v &&& 0xFFFFFFFF0003FFFF#64) }
  else s

/-- QICFG (R355). -/
def State.qicfgWrite (s : State) (p o : Nat) (v : DWord) : State :=
  let q := o / 32
  let x := s.qi p q
  match o % 32 with
  | 0 => s.setQi p q { x with sub := v &&& ~~~0xFFF#64 }
  | 8 => s.setQi p q { x with comp := v &&& ~~~0xFFF#64 }
  | 16 => s.after (execQicfgWrite p q (v.setWidth 32) s)
  | _ => s

/-- VFCTL and VFPEND (R359, R360). -/
def State.vfctlWrite (s : State) (p o : Nat) (v : DWord) : State :=
  let k := o / 16 + 1
  if o % 16 = 8 then
    let x := s.vf p k
    if x.state = .paused ∨ x.state = .descheduled then s.setVf p k { x with pending := v } else s
  else if o % 16 = 0 then
    match bits v.toNat 2 0 with
    | 0 => s.after (execVfDrain p k s)
    | 1 => s.after (execVfRun p k s)
    | 2 => s.after (execVfPause p k s)
    | 3 => s.after (execVfDeschedule p k s)
    | _ => s.ignoredWrite p
  else s

/-- The replay control register (R145). -/
def State.replayWrite (s : State) (p n v : Nat) : State :=
  if bits v 31 31 = 0 then s
  else match bits v 17 16 with
    | 0 => s.after (execReplayControlReplay p n (bits v 7 0) .fresh s)
    | 1 => s.after (execReplayControlFail p n (bits v 7 0) s)
    | _ => s.setPart p n ((s.part p n).count cntReplayIgnored)

/-- A write that R362 takes only while the partition is idle. -/
def State.idleOnly (s : State) (p n : Nat) (f : Part → Part) : State :=
  if s.idlePart p n then s.setPart p n (f (s.part p n)) else s.partIgnored p n

/-- A partition block (R362). -/
def State.blockWrite (s : State) (p n o : Nat) (v : DWord) (fw : Bool) : State :=
  let x := s.part p n
  let page : DWord := v &&& ~~~0xFFF#64
  if o = 0x0000 then s.setPart p n { x with pctl := v &&& 0xFF01#64 }
  else if o = 0x0008 then s.setPart p n { x with weight := bits v.toNat 6 0 }
  else if o = 0x0010 then s.setPart p n { x with quantum := v.toNat }
  else if 0x0100 ≤ o ∧ o < 0x0180 ∧ o % 8 = 0 then s.extentWrite p n false ((o - 0x0100) / 8) v fw
  else if 0x0180 ≤ o ∧ o < 0x01A0 ∧ o % 8 = 0 then s.extentWrite p n true ((o - 0x0180) / 8) v fw
  else if o = 0x0200 then s.idleOnly p n (fun x => x.setUp page)
  else if o = 0x0208 then s.after (execFaultQueueHeadWrite p n (v.setWidth 32) s)
  else if o = 0x0220 then s.replayWrite p n v.toNat
  else if o = 0x0230 then s.idleOnly p n (fun x => { x with erBase := page, erHead := 0, erTail := 0 })
  else if o = 0x0238 then s.after (execEventRingHeadWrite p n (v.setWidth 32) s)
  else if 0x1000 ≤ o ∧ o < 0x1400 ∧ o % 4 = 0 then s.counterLoad p n ((o - 0x1000) / 4) v.toNat
  else s

/-- The remap table and the package world map, for firmware (R151, R155): 8 bytes of a remap entry, or 4 of a mask. -/
def State.secureWrite (s : State) (p o : Nat) (v : DWord) : State :=
  let x := s.pkg p
  if o < 0x200 then
    let k := o / 16
    let old := Map.get x.remap k (copies 16 0xFF)
    if o % 16 = 0 then s.remapWrite p k (bytesOf 8 v.toNat ++ old.drop 8) true
    else if o % 16 = 8 then s.remapWrite p k (old.take 8 ++ bytesOf 8 v.toNat) true
    else s
  else if o = 0x200 then s.setPkg p { x with secSlices := v.setWidth 32 }
  else if 0x204 ≤ o ∧ o < 0x404 ∧ o % 4 = 0 then
    let b := 32 * ((o - 0x204) / 4)
    let kept := x.secQis.filter (fun q => q < b || decide (b + 32 ≤ q))
    s.setPkg p { x with secQis := kept ++ ((List.range 32).filter (fun i => v.getLsbD i)).map (fun i => b + i) }
  else s

/-- Clears a count (R183); the places of the counts in their region are the model's own (log entry 26). -/
def State.countClear (s : State) (p i : Nat) : State :=
  if i < 4096 then s.setQi p i { s.qi p i with ignored := 0 }
  else if i = 4096 then s.setPkg p { s.pkg p with pfDropped := 0 }
  else if i < 8192 then s.setVf p (i - 4096) { s.vf p (i - 4096) with dropped := 0 }
  else if i < 16384 then
    let n := (i - 8192) / 64
    let k := (i - 8192) % 64
    let x := s.part p n
    s.setPart p n (if k = 63 then { x with erLost := 0 } else { x with counts := Map.set x.counts k 0 })
  else if i < 0x8000 then s.setPkg p { s.pkg p with counts := Map.set (s.pkg p).counts (i - 16384) 0 }
  else
    let m := if i < 0x10000 then (i - 0x8000) / 64 else (i - 0x10000) / 256
    let k := if i < 0x10000 then (i - 0x8000) % 64 else cntHotDropped + 256 * ((i - 0x10000) % 256)
    let x := s.mod m
    s.setMod m { x with counts := Map.set x.counts k 0 }

/-- A write to a notify page (R142), of which function f has page j at an offset of BAR2. -/
def State.notifyWrite (s : State) (p f j o : Nat) (v : Word) : State :=
  match o with
  | 0 => s.after (execNotifyTailWrite p f j v s)
  | 0x40 => s.after (execNotifyLevelWrite p f j v s)
  | 0x80 => s.after (execCompletionHeadWrite p f j v s)
  | _ => match s.pageQi p f j with
    | some q => s.setQi p q { s.qi p q with ignored := sat32 (s.qi p q).ignored }
    | none => s

/-- REGISTER_WRITE: one write to BAR0 of the PF, `v` being the value of the register at the offset; secure regions take it from
the management processor alone. Offsets from 64 MiB on stand for BAR2, 16 MiB a function. Unlisted offsets ignore it. -/
def execRegisterWrite (p o : Nat) (v : DWord) (fw : Bool) (s : State) : Out :=
  let x := s.pkg p
  let s1 : State :=
    if o < 0x10000 then s.globalWrite p o v fw
    else if o < 0x30000 then s.qicfgWrite p (o - 0x10000) v
    else if 0x40000 ≤ o ∧ o < 0x44000 then s.vfctlWrite p (o - 0x40000) v
    else if 0x80000 ≤ o ∧ o < 0x80000 + 8 * 8256 ∧ o % 8 = 0 then
      s.setPkg p { x with irt := Map.set x.irt ((o - 0x80000) / 8) (v &&& 0x8000FFFF0001FFFF#64) }
    else if 0x100000 ≤ o ∧ o < 0x300000 then s.blockWrite p ((o - 0x100000) / 0x10000) (o % 0x10000) v fw
    else if 0x300000 ≤ o ∧ o < 0x300800 ∧ o % 2 = 0 then
      let i := (o - 0x300000) / 2
      s.after (execChannelAllocWrite p (i / 16) (i % 16) (v.setWidth 16 &&& 0x801F#16) s)
    else if 0x301000 ≤ o ∧ o < 0x303000 ∧ o % 4 = 0 then
      let i := (o - 0x301000) / 4
      let y := s.part p (i / 64)
      s.setPart p (i / 64) { y with modMap := Map.set y.modMap (i % 64) (v.setWidth 32 &&& 0x80FF003F#32) }
    else if 0x310000 ≤ o ∧ o < 0x318000 ∧ o % 8 = 0 then s.pasidWrite p ((o - 0x310000) / 8) v
    else if 0x400000 ≤ o ∧ o < 0x400404 then (if fw then s.secureWrite p (o - 0x400000) v else s)
    else if o = 0x500000 then s.snapshot p (v.toNat % 32)
    else if 0x600000 ≤ o ∧ o < 0x800000 ∧ o % 8 = 0 then (if v = 0 then s.countClear p ((o - 0x600000) / 8) else s)
    else if 0x800000 ≤ o ∧ o < 0xC00000 then s.aperture p ((o - 0x800000) / 0x10000) (o % 0x10000) (.write (bytesOf 8 v.toNat)) fw
    else if 0x4000000 ≤ o then
      let b := o - 0x4000000
      s.notifyWrite p (b / 2 ^ 24) (b % 2 ^ 24 / 4096) (b % 4096) (v.setWidth 32)
    else s
  .next s1

end Sys2Proof.Machine
end

