-- ==== Sys2Proof/Machine/Span.lean ====
section
/-! DEFINITION. Multi-package launches (R51, R52, R141): the mailbox of the anchor module, and the copies at the packages. All
of its messages travel on management channels (R389). -/
namespace Sys2Proof.Machine

/-! ## The mailbox -/

/-- The packages that a packet names. -/
def spanPorts (b : List Byte) : List Nat := (List.range 64).filter (bitOf (pk b 48 8))

/-- An entry of a mailbox is free: the first span launch that is held for it goes, of the lowest package port that holds one (which
one no rule says: DESIGN CHOICE, log entry 46). -/
def State.mailFreed (s : State) (m : Nat) : State :=
  let held := s.pkgs.flatMap (fun e => (e.2.spansHeld.filter (fun h => h.2.2.2 == m)).map (fun h => (e.1, h)))
  match held.head? with
  | some (p, h) => (s.setPkg p { s.pkg p with spansHeld := (s.pkg p).spansHeld.erase h }).toMailbox p h.2.1 m h.2.2.1 h.1
  | none => s

/-- Replaces the entry of a generation. -/
def State.setEntry (s : State) (m : Nat) (e : MailEntry) : State :=
  s.setMod m { s.mod m with mail := (s.mod m).mail.map (fun f => if f.g = e.g then e else f) }

/-- Ends a generation with a message for each of its packages; its entry is free once they have been sent (R141). -/
def State.endGeneration (s : State) (m : Nat) (e : MailEntry) (msg : Msg) : State :=
  ((spanPorts e.packet).foldl (fun s p => s.enqueue ⟨p, mgmt, m, false⟩ msg) s).setEntry m { e with ended := true }

/-- Whether a message of a kind waits still to be sent to one of a generation's packages; to one that nothing can be sent to it counts
as sent (DESIGN CHOICE, log entry 46). -/
def State.mailWaits (s : State) (m : Nat) (e : MailEntry) (f : Msg → Bool) : Bool :=
  (spanPorts e.packet).any (fun p =>
    let l : LinkId := ⟨p, mgmt, m, false⟩
    (s.pkg p).up && !(s.live l).isEmpty && (s.link l).outq.any f)

/-- Whether a go or an abort of a generation is still to be sent (R141). -/
def State.mailUnsent (s : State) (m : Nat) (e : MailEntry) : Bool := s.mailWaits m e (fun x => x == .go e.g || x == .abort e.g)

/-- Whether a copy of a generation is still to be sent: its replication is not yet complete (R141). -/
def State.mailCopying (s : State) (m : Nat) (e : MailEntry) : Bool :=
  s.mailWaits m e (fun x => match x with | .copy g _ _ _ _ => g == e.g | _ => false)

/-- The timers of the generations whose replication is complete start (R141). -/
def State.mailStart (s : State) (m : Nat) : State :=
  s.setMod m { s.mod m with mail := (s.mod m).mail.map (fun e =>
    if e.start.isNone && !s.mailCopying m e then { e with start := some s.now } else e) }

/-- The entries of a mailbox whose generations have ended, and whose messages have been sent, are free (R141). -/
def State.mailClear (s : State) (m : Nat) : State :=
  ((s.mod m).mail.filter (fun e => e.ended && !s.mailUnsent m e)).foldl (fun s e =>
    (s.setMod m { s.mod m with mail := (s.mod m).mail.filter (fun f => f.g != e.g) }).mailFreed m) s

/-- Counts a message about a generation that is over (R52). -/
def State.mailDiscard (s : State) (m : Nat) : State := s.setMod m ((s.mod m).count cntMailDiscard)

/-- The entry of a generation that is not over. -/
def Module.entry (x : Module) (g : Nat) : Option MailEntry := x.mail.find? (fun e => e.g == g && !e.ended)

/-- MAILBOX_REPLICATE: with a free entry, the packet gets its generation and goes to its packages. -/
def execMailboxReplicate (m : Nat) (s : State) : Out :=
  match s.message (.mod m) (fun x => match x with | .span _ _ _ _ => true | _ => false) with
  | some (p, n, .span b part port grid) =>
    if 64 ≤ (s.mod m).mail.length then .next s else
    let s := s.takeInbox (.mod m) (p, n, .span b part port grid)
    let x := s.mod m
    let e : MailEntry := { g := x.gNext, packet := b, part := part, port := port, grid := grid, acks := [], start := none, ended := false }
    let s := s.setMod m { x with gNext := x.gNext + 1, mailDue := x.mailDue - 1, mail := x.mail ++ [e] }
    .next ((spanPorts b).foldl (fun s i => s.enqueue ⟨i, mgmt, m, false⟩ (.copy e.g part port grid b)) s)
  | _ => .next s

/-- SPAN_ACK: go when all packages have acknowledged; an acknowledgement of a generation that is over is discarded. -/
def execSpanAck (m : Nat) (s : State) : Out :=
  match s.message (.mod m) (fun x => match x with | .ack _ _ => true | _ => false) with
  | some (p, n, .ack g port) =>
    let s := s.takeInbox (.mod m) (p, n, .ack g port)
    match (s.mod m).entry g with
    | none => .next (s.mailDiscard m)
    | some e =>
      let e1 := { e with acks := if e.acks.any (fun a => a.1 == port) then e.acks else e.acks ++ [(port, s.now)] }
      if (spanPorts e.packet).all (fun i => e1.acks.any (fun a => a.1 == i)) then .next (s.endGeneration m e1 (.go g))
      else .next (s.setEntry m e1)
  | _ => .next s

/-- SPAN_REFUSE: a refusal aborts the generation; one that is over takes none. -/
def execSpanRefuse (m : Nat) (s : State) : Out :=
  match s.message (.mod m) (fun x => match x with | .refuse _ _ => true | _ => false) with
  | some (p, n, .refuse g port) =>
    let s := s.takeInbox (.mod m) (p, n, .refuse g port)
    match (s.mod m).entry g with
    | none => .next s
    | some e => .next (s.endGeneration m e (.abort g))
  | _ => .next s

/-- MAILBOX_TIMEOUT: 100 µs after replication without all acknowledgements. -/
def execMailboxTimeout (m g : Nat) (s : State) : Out :=
  match (s.mod m).entry g with
  | some e => if e.start.all (fun t => s.now < t + 100000) then .next s else .next (s.endGeneration m e (.abort g))
  | none => .next s

/-! ## The packages -/

/-- The copy of a generation at a package. -/
def State.copyOf (s : State) (p m g : Nat) : Option Nat :=
  (s.grids.find? (fun e => e.2.port == p && !e.2.retired && e.2.span.any (fun x => x.1 == g && x.2.2 == m))).map (fun e => e.1)

/-- Ends a copy whose generation is aborted (R52): what it reserved is free; the issuing package writes the one record. -/
def State.abortCopy (s : State) (k : Nat) : State :=
  let s := s.endGrid k stPartial
  let x := s.grid k
  let s := s.setGrid k { x with retired := true, status := some stPartial }
  if x.span.any (fun e => e.2.1 == x.port) then s.gridRecord k stPartial else s

/-- Whether a package that is not the issuer takes a copy (R51). Its function at this package is the one that may submit under its
PASID here (R356): R51 does not say whose it is (DESIGN CHOICE, log entry 46). -/
def State.takesCopy (s : State) (p m part port : Nat) (b : List Byte) : Bool :=
  let x := s.part p part
  bitOf (pk b 48 8) p && bitOf (pk b 48 8) port && x.enabled && (x.module 0).any (fun e => e.1 == m) &&
  ((s.pkg p).contextFn part (pk b 28 4 % 2 ^ 20)).isSome && !s.unfit p part port 1 b

/-- SPAN_COPY_RECEIVE: a package refuses its copy, or puts it on its launch queue, once more than 64 places are free (R140); the
issuing package's copy is the packet it accepted, which stands on the placement list already and may be placed from now on: step 2 says
that each package checks its copy, and that this one is the packet accepted in step 1, which was checked there: it is not checked again
(DESIGN CHOICE, log entry 35). -/
def execSpanCopyReceive (p : Nat) (s : State) : Out :=
  match s.message (.pkg p) (fun x => match x with | .copy _ _ _ _ _ => true | _ => false) with
  | some (m, n, .copy g part port grid b) =>
    let x := s.part p part
    if port ≠ p ∧ 448 ≤ x.queue.length ∧ s.takesCopy p m part port b then .next s else
    let s := s.takeInbox (.pkg p) (m, n, .copy g part port grid b)
    let gone := (s.pkg p).aborts.contains (m, g)
    let refuse : State := if gone then s else s.enqueue ⟨p, mgmt, m, true⟩ (.refuse g p)
    if port = p then
      match s.grids.find? (fun e => e.2.port == p && e.2.part == part && e.2.num == grid && e.2.span == some (0, p, m) && !e.2.retired) with
      | none => .next refuse
      | some (k, x) =>
        let s1 := s.setGrid k { x with span := some (g, p, m) }
        if gone then .next (s1.abortCopy k)
        else if x.status.isSome then .next (s1.enqueue ⟨p, mgmt, m, true⟩ (.refuse g p))
        else .next s1
    else if gone ∨ !s.takesCopy p m part port b then .next refuse
    else
      let k := s.pkg p
      let x := s.part p part
      let q : Queued :=
        { packet := b, order := k.gridsOrder, qi := none, fn := (k.contextFn part (pk b 28 4 % 2 ^ 20)).getD 0, parent := none, depth := 1,
          pasid := pk b 28 4 % 2 ^ 20, prio := pk b 24 4 % 8, held := x.waitsFor b, view := View.upto k.pos, copy := some (g, port, m) }
      .next ((s.setPkg p { k with gridsOrder := k.gridsOrder + 1 }).setPart p part { x with queue := x.queue ++ [q] })
  | _ => .next s

/-- SPAN_GO: the reserved teams start; a go for a generation without a copy is discarded and counted, at the module of the mailbox
(R52, R183). -/
def execSpanGo (p : Nat) (s : State) : Out :=
  match s.message (.pkg p) (fun x => match x with | .go _ => true | _ => false) with
  | some (m, n, .go g) =>
    let s := s.takeInbox (.pkg p) (m, n, .go g)
    match s.copyOf p m g with
    | none => .next (s.mailDiscard m)
    | some k =>
      let s := s.setGrid k { s.grid k with go := true }
      .next ((s.teamsOf k).foldl (fun s t =>
        let x := s.team t
        if x.place = .reserved then s.setTeam t { x with place := .resident, since := s.now } else s) s)
  | _ => .next s

/-- SPAN_ABORT: the copy is discarded; an abort that comes before its copy is kept for it. -/
def execSpanAbort (p : Nat) (s : State) : Out :=
  match s.message (.pkg p) (fun x => match x with | .abort _ => true | _ => false) with
  | some (m, n, .abort g) =>
    let s := s.takeInbox (.pkg p) (m, n, .abort g)
    let queued (q : Queued) : Bool := q.copy.any (fun c => c.1 == g && c.2.2 == m)
    match s.copyOf p m g with
    | some k => .next (s.abortCopy k)
    | none =>
      match (s.pkg p).parts.find? (fun e => e.2.queue.any queued) with
      | some (n, x) => .next (s.setPart p n { x with queue := x.queue.filter (fun q => !queued q) })
      | none => .next (s.setPkg p { s.pkg p with aborts := (m, g) :: (s.pkg p).aborts })
  | _ => .next s

/-- SPAN_RETIRED: the mailbox forwards a report to the issuing package; there it is noted. -/
def execSpanRetired (atModule : Bool) (i : Nat) (s : State) : Out :=
  let e : End := if atModule then .mod i else .pkg i
  match s.message e (fun x => match x with | .retired _ _ _ _ => true | _ => false) with
  | some (o, n, .retired g issuer port st) =>
    let s := s.takeInbox e (o, n, .retired g issuer port st)
    if atModule then .next (s.enqueue ⟨issuer, mgmt, i, false⟩ (.retired g issuer port st))
    else match s.copyOf i o g with
      | none => .next s
      | some k => .next (s.setGrid k { s.grid k with reports := (s.grid k).reports ++ [(port, st)] })
  | _ => .next s

end Sys2Proof.Machine
end

