-- ==== Sys2Proof/Machine/Tiles.lean ====
section
/-! DEFINITION. Tiles, the accumulator store and the matrix engine (R115 to R117, R138, R257 to R260, R330 to R335). -/
namespace Sys2Proof.Machine

/-! ## Tiles and accumulators as data (R116, R330) -/

/-- The bits of element (r, c) of a tile. -/
def Team.tileBits (x : Team) (k : Nat) (w : Word) (r c : Nat) : Nat :=
  let base := 4096 * k + r * shPitch w
  if shFmt w = 12 then (x.tiles.read (base + c)).toNat
  else if shFmt w = 13 then (x.tiles.read (base + c / 2)).toNat / 16 ^ (c % 2) % 16
  else x.tiles.num (base + c * shEsz w) (shEsz w)

/-- The float format of a tile format code. -/
def codeFloat (code : Nat) : FFmt := if code = 4 then fF32 else if code = 6 then fF16 else fBf16

/-- Replaces a whole tile, padding 0, with fresh ECC (R330). -/
def Team.writeTile (x : Team) (k : Nat) (rows : List (Nat × List Byte)) : Team :=
  let m := x.tiles.clear (4096 * k) 4096
  { x with
    tiles := rows.foldl (fun m r => m.writeN (4096 * k + r.1) r.2) m
    errs := x.errs.filter (fun e => !(e.1 = 2 && e.2.1 / 8192 = k)) }

/-- An accumulator word. -/
def Team.accWord (x : Team) (b i j : Nat) : Nat := x.acc.num (4096 * b + 4 * (32 * i + j)) 4

/-- Writes accumulator words of a block from an element on, with fresh ECC. -/
def Team.writeAcc (x : Team) (b i j : Nat) (vals : List Nat) : Team :=
  let first := 1024 * b + 32 * i + j
  { x with
    acc := x.acc.writeN (4 * first) (vals.flatMap (bytesOf 4))
    errs := x.errs.filter (fun e => !(e.1 = 1 && decide (first ≤ e.2.1 ∧ e.2.1 < first + vals.length))) }

/-- Checks some blocks by ECC as they are read (R117). -/
def State.checkAcc (s : State) (t b n : Nat) : State × Bool :=
  let bad := (((s.team t).errs.filter (fun e => e.1 = 1 && e.2.1 / 1024 ≥ b && decide (e.2.1 / 1024 < b + n))).map (fun e => e.2.1)).eraseDups
  checkAll (fun s w => s.checkTeam t 1 w srcAcc (4 * w)) bad s

/-! ## Issue (R331) -/

/-- What an X-pipe instruction checks and captures at issue: the fault that its entry gives first, and its queue entry. -/
structure MatPlan where
  fault : Option (Trap × Nat)
  op : MatOp
  shapes : List Word
  moves : Bool

/-- Enters a plan into the matrix queue of the core: the number on tl1, the flag (R171, R331). -/
def State.enterMat (s : State) (p : MatPlan) : State :=
  let x := s.curT
  let l := (x.tls.getD 1 Timeline.blank).take
  let g := match s.curSel with | .grp g => g | .ctl => 0
  let e : MatEntry := { team := s.curTeam, g := g, op := p.op, shapes := p.shapes, num := l.issued,
                        flag := s.onCur (fun _ st => st.setFlag), seq := s.nextId
                        after := if p.moves then s.onCur (fun _ st => st.accNext) else 0 }
  let s := s.setTeam s.curTeam { x with tls := setAt x.tls 1 l }
  let k := s.core x.core
  let s := s.setCore x.core { k with mq := k.mq ++ [e] }
  ({ s with nextId := s.nextId + 1 }.modCur (fun _ st => st.raise st.setFlag)).done

/-- A matrix-engine instruction (R331): convergence, its own faults, then a wait for a queue place (R138). Its entry, of a tile move,
waits for the stream's earlier accesses as it executes (R218). -/
def State.matrix (s : State) (srcs : List Reg) (ok : Bool) (plan : State → Map Word → MatPlan) : State :=
  s.withPeek { laneUse with srcs := srcs, keys := srcs, ok := ok, pauses := true, mem := true, conv := true } (s.onCur (fun _ st => st.ex)) fun s pops qs =>
    let p := plan s pops
    match p.fault with
    | some (t, a) => s.trapAt t ((List.range 32).map (fun l => if l = 0 then a else 0))
    | none =>
      if 64 ≤ (s.core s.curT.core).mq.length then s.holdSlot []
      else (qs.foldl State.pop s).enterMat p

/-- Whether the team has a tile (R95). -/
def State.hasTile (s : State) (k : Nat) : Bool := decide (k < (s.gridOf s.curTeam).tilesDecl)
/-- The shape of a tile now (R96). -/
def State.shape (s : State) (k : Nat) : Word := s.curT.tsh.getD k 0

/-! ## MMA (R332, R333) -/

/-- The conversion code of a format. -/
def mmaCode : Fmt → Nat
  | .f32 => 4
  | .f16 => 6
  | .bf16 => 7
  | .te8 => 12
  | _ => 13

/-- Whether a tile's shape fits a step: the opcode's format, 32 rows, the columns of the K-step. -/
def mmaShape (w : Word) (code sel : Nat) : Bool :=
  shOk w && shFmt w == code && shRows w == 32 && decide (32 * (sel + 1) ≤ shCols w)

/-- An MMA of a format; `vs` names the scale pair of a block format. -/
def State.mma (s : State) (f : Fmt) (acc ta tb : Nat) (vs : Option Nat) (sel : Bool) : State :=
  let blocks := s.onCur (fun _ st => st.blocks)
  let scaleOk := match vs with | some v => decide (v ≤ 23) && pairOk blocks (2 * v) | none => true
  s.matrix [] (scaleOk && s.hasTile ta && s.hasTile tb) fun s _ =>
    let n := if sel then 1 else 0
    let wa := s.shape ta
    let wb := s.shape tb
    let scale (r : Nat) : List Nat := s.onCur (fun _ st => (List.range 32).map (fun l => bits (st.reg r l).toNat (16 * n + 15) (16 * n)))
    { fault :=
        if !(mmaShape wa (mmaCode f) n && mmaShape wb (mmaCode f) n) then some (.tileShape, 0)
        else if s.curT.accDecl ≤ acc then some (.accRange, 0) else none
      op := .mma f acc ta tb n (match vs with | some v => scale (2 * v) | none => []) (match vs with | some v => scale (2 * v + 1) | none => [])
      shapes := [wa, wb]
      moves := false }

/-- MMA.BF16. -/
def execMmaBf16 (a : BitVec 10) (t u : BitVec 4) (x : Bool) (s : State) : Out := .next (s.mma .bf16 a.toNat t.toNat u.toNat none x)
/-- MMA.F16. -/
def execMmaF16 (a : BitVec 10) (t u : BitVec 4) (x : Bool) (s : State) : Out := .next (s.mma .f16 a.toNat t.toNat u.toNat none x)
/-- MMA.F32. -/
def execMmaF32 (a : BitVec 10) (t u : BitVec 4) (x : Bool) (s : State) : Out := .next (s.mma .f32 a.toNat t.toNat u.toNat none x)
/-- MMA.TE8. -/
def execMmaTe8 (a : BitVec 10) (t u : BitVec 4) (v : BitVec 5) (x : Bool) (s : State) : Out :=
  .next (s.mma .te8 a.toNat t.toNat u.toNat (some v.toNat) x)
/-- MMA.TE4. -/
def execMmaTe4 (a : BitVec 10) (t u : BitVec 4) (v : BitVec 5) (x : Bool) (s : State) : Out :=
  .next (s.mma .te4 a.toNat t.toNat u.toNat (some v.toNat) x)

/-! ## TLD and TST (R334) -/

/-- A tile move: the base and the stride are lane 0's. -/
def State.tileMove (s : State) (load tr : Bool) (k : Nat) (a b : Reg) : State :=
  s.matrix [a, b] (s.hasTile k) fun s pops =>
    let c := s.ctx pops
    let base := s.onCur (fun _ st => (st.value c a 0).toNat)
    let stride := s.onCur (fun _ st => (st.value c b 0).toNat)
    let w := s.shape k
    let e := tileExtent w base stride tr
    { fault :=
        if !shOk w || (tr && shBlock w) then some (.tileShape, 0)
        else if base % 16 ≠ 0 ∨ stride % 16 ≠ 0 then some (.misaligned, base)
        else if (s.gridOf s.curTeam).scratchLen ≤ e.2 then some (.scratchBounds, base) else none
      op := if load then .tld k base stride tr else .tst k base stride tr
      shapes := [w]
      moves := true }

/-- TLD. -/
def execTld (t : BitVec 4) (a b : Reg) (r : Bool) (s : State) : Out := .next (s.tileMove true r t.toNat a b)
/-- TST. -/
def execTst (t : BitVec 4) (a b : Reg) (r : Bool) (s : State) : Out := .next (s.tileMove false r t.toNat a b)

/-! ## ACCOP (R335) -/

/-- The blocks that a tile covers. -/
def coverBlocks (w : Word) : Nat := (shCols w + 31) / 32

/-- An ACCOP between tile k and the blocks from `acc` on. -/
def State.accTile (s : State) (acc k : Nat) (op : MatOp) : State :=
  s.matrix [] (s.hasTile k) fun s _ =>
    let w := s.shape k
    { fault :=
        if !shOk w || shBlock w then some (.tileShape, 0)
        else if s.curT.accDecl < acc + coverBlocks w then some (.accRange, 0) else none
      op := op
      shapes := [w]
      moves := false }

/-- ACCZ: T + 1 blocks. -/
def execAccz (a : BitVec 10) (t : BitVec 4) (s : State) : Out :=
  .next (s.matrix [] true fun s _ =>
    { fault := if s.curT.accDecl < a.toNat + t.toNat + 1 then some (.accRange, 0) else none
      op := .accz a.toNat (t.toNat + 1)
      shapes := []
      moves := false })
/-- ACCRD. -/
def execAccrd (a : BitVec 10) (t : BitVec 4) (r : Rnd) (x : Bool) (s : State) : Out :=
  .next (s.accTile a.toNat t.toNat (.accrd a.toNat t.toNat r x))
/-- ACCWR. -/
def execAccwr (a : BitVec 10) (t : BitVec 4) (s : State) : Out := .next (s.accTile a.toNat t.toNat (.accwr a.toNat t.toNat))
/-- ACCADD. -/
def execAccadd (a : BitVec 10) (t : BitVec 4) (s : State) : Out := .next (s.accTile a.toNat t.toNat (.accadd a.toNat t.toNat))
/-- TZERO. -/
def execTzero (t : BitVec 4) (s : State) : Out :=
  .next (s.matrix [] (s.hasTile t.toNat) fun _ _ =>
    { fault := none
      op := .tzero t.toNat
      shapes := []
      moves := false })

/-! ## Execution of a queue entry (R138, R333 to R335) -/

/-- Records the errors of a step in sr.mxerr, and for a clear that comes in the same cycle (R104). -/
def Team.mxNote (x : Team) (l : List (List Nat)) : Team :=
  if l.isEmpty then x else
  { x with mxerr := l.foldl mxRecord x.mxerr, mxOld := if x.mxErrs.isEmpty then x.mxerr else x.mxOld, mxErrs := x.mxErrs ++ l }

/-- The elements of a K-step of a tile whose errors cannot be corrected: row and column within the step. -/
def Team.badElements (x : Team) (k sel : Nat) : List (Nat × Nat) :=
  (List.range 1024).filterMap (fun n =>
    let r := n / 32
    let c := n % 32
    if 2 ≤ x.errCount 2 ((k * 32 + r) * 256 + 32 * sel + c) then some (r, c) else none)

/-- The values of row r of an operand of a step; an element in error is replaced by zero (R260). -/
def Team.operand (x : Team) (k : Nat) (w : Word) (sel : Nat) (pairs : List Nat) (bad : List (Nat × Nat)) (r : Nat) : List FV :=
  (List.range 32).map (fun c =>
    if bad.contains (r, c) then .fin false 0 0
    else
      let b := x.tileBits k w r (32 * sel + c)
      if shBlock w then teVal (shFmt w == 13) (pairs.getD r 0) b else (codeFloat (shFmt w)).val b)

/-- The block after an MMA step: every element from the block's value before it (R333). Of several elements in error the first,
the one that sr.mxerr records, is the first of operand A, else of operand B, by rows and then columns; R104 does not say which
(DESIGN CHOICE, log entry 39). -/
def Team.mmaStep (x : Team) (acc ta tb sel : Nat) (wa wb : Word) (sa sb : List Nat) : Team :=
  let badA := x.badElements ta sel
  let badB := x.badElements tb sel
  let ra := (List.range 32).map (x.operand ta wa sel sa badA)
  let rb := (List.range 32).map (x.operand tb wb sel sb badB)
  let vals := (List.range 1024).map (fun n =>
    mmaElement (shBlock wa) (mmaTerms (fF32.val (x.accWord acc (n / 32) (n % 32))) (ra.getD (n / 32) []) (rb.getD (n % 32) [])))
  (x.writeAcc acc 0 0 vals).mxNote (badA.map (fun e => [0, acc, ta, e.1, e.2]) ++ badB.map (fun e => [1, acc, tb, e.1, e.2]))

/-- The Garnet meter of a format (R182). -/
def macMeter : Fmt → Nat
  | .bf16 => 0
  | .f16 => 1
  | .te8 => 2
  | .te4 => 3
  | _ => 4

/-- The pieces of a tile move in the order of R334: scratchpad address, tile byte, length. -/
def movePieces (w : Word) (base stride : Nat) (tr : Bool) : List (Nat × Nat × Nat) :=
  if tr then
    let n := shEsz w
    (List.range (shCols w * shRows w)).map (fun i =>
      let c := i / shRows w
      let r := i % shRows w
      (base + c * stride + r * n, r * shPitch w + c * n, n))
  else (List.range (shRows w)).map (fun r => (base + r * stride, r * shPitch w, shLen w))

/-- TLD: every piece is read, then the tile written. -/
def State.runTld (s : State) (t k : Nat) (w : Word) (base stride : Nat) (tr : Bool) : State × Bool :=
  let ps := movePieces w base stride tr
  let rows := (ps.flatMap (fun p => (rowPieces p.1 p.2.2).map (fun q => q.1 / 16))).eraseDups
  let c := checkAll (fun s r => s.checkRow t r) rows s
  if !c.2 then c else
  let x := c.1.team t
  (c.1.setTeam t (x.writeTile k (ps.map (fun p => (p.2.1, x.scratch.readN p.1 p.2.2)))), true)

/-- TST: the pieces in order. -/
def Team.runTst (x : Team) (k : Nat) (w : Word) (base stride : Nat) (tr : Bool) : Team :=
  (movePieces w base stride tr).foldl (fun y p => y.scratchWrite none p.1 (x.tiles.readN (4096 * k + p.2.1) p.2.2)) x

/-- ACCRD: the tile's rows from the accumulator values. -/
def Team.runAccrd (x : Team) (acc k : Nat) (w : Word) (r : Rnd) (sat : Bool) : Team :=
  let f := codeFloat (shFmt w)
  x.writeTile k ((List.range (shRows w)).map (fun i => (i * shPitch w, (List.range (shCols w)).flatMap (fun c =>
    bytesOf (shEsz w) (f.round r sat (fF32.val (x.accWord (acc + c / 32) i (c % 32))))))))

/-- ACCWR and ACCADD: each covered element from the tile value. -/
def Team.runAcc (x : Team) (acc k : Nat) (w : Word) (add : Bool) : Team :=
  let f := codeFloat (shFmt w)
  (List.range (shRows w)).foldl (fun y i => (List.range (coverBlocks w)).foldl (fun y b =>
    let vals := (List.range (min 32 (shCols w - 32 * b))).map (fun j =>
      let v := f.val (x.tileBits k w i (32 * b + j))
      if add then fF32.near ((fF32.val (x.accWord (acc + b) i j)).add v) else fF32.near v)
    y.writeAcc (acc + b) i 0 vals) y) x

/-- The elements of a tile with more than one wrong bit, by row and column. -/
def Team.brokenElements (x : Team) (k : Nat) : List (Nat × Nat) :=
  ((x.errs.filter (fun e => e.1 == 2 && e.2.1 / 8192 == k)).map (fun e => e.2.1 % 8192)).eraseDups.filterMap (fun i =>
    if 2 ≤ x.errCount 2 (8192 * k + i) then some (i / 256, i % 256) else none)

/-- The bits of one element of a tile replaced; its neighbours keep theirs. -/
def putElement (k : Nat) (w : Word) (m : Memory) (r c v : Nat) : Memory :=
  let base := 4096 * k + r * shPitch w
  if shFmt w = 12 then m.write (base + c) (BitVec.ofNat 8 v)
  else if shFmt w = 13 then
    let b := (m.read (base + c / 2)).toNat
    m.write (base + c / 2) (BitVec.ofNat 8 (if c % 2 = 0 then b / 16 * 16 + v % 16 else b % 16 + 16 * (v % 16)))
  else m.writeN (base + c * shEsz w) (bytesOf (shEsz w) v)

/-- A step that reads tile k and does not write it. An element with an uncorrectable error reads as a free value: R117 and R260 give
one to the operands of MMA alone. -/
def State.readingTile (s : State) (t k : Nat) (w : Word) (f : Team → Team) : State :=
  let x := s.team t
  match x.brokenElements k with
  | [] => s.setTeam t (f x)
  | l =>
    let free (i : Nat) : Nat := ofBytes ((List.range 4).map (fun j => Config.freeByte (s.freeCount + 4 * i + j)))
    let seen := (l.mapIdx (fun i e => (i, e))).foldl (fun m e => putElement k w m e.2.1 e.2.2 (free e.1)) x.tiles
    let s1 := s.setTeam t { f { x with tiles := seen } with tiles := x.tiles }
    { s1 with freeCount := s.freeCount + 4 * l.length }

/-- What a queue entry does; false when an uncorrectable error has ended its grid. -/
def State.runMat (s : State) (e : MatEntry) : State × Bool :=
  let t := e.team
  let w := e.shapes.headD 0
  match e.op with
  | .mma f acc ta tb sel sa sb =>
    let c := s.checkAcc t acc 1
    if !c.2 then c else
    let x := c.1.team t
    ((c.1.setTeam t (x.mmaStep acc ta tb sel w (e.shapes.getD 1 0) sa sb)).meter x.port x.part (macMeter f) 32768, true)
  | .tld k base stride tr => s.runTld t k w base stride tr
  | .tst k base stride tr => (s.readingTile t k w (fun x => x.runTst k w base stride tr), true)
  | .accz acc n => (s.setTeam t ((List.range n).foldl (fun x b => x.writeAcc (acc + b) 0 0 (copies 1024 0)) (s.team t)), true)
  | .accrd acc k r sat =>
    let c := s.checkAcc t acc (coverBlocks w)
    if !c.2 then c else (c.1.setTeam t ((c.1.team t).runAccrd acc k w r sat), true)
  | .accwr acc k => (s.readingTile t k w (fun x => x.runAcc acc k w false), true)
  | .accadd acc k =>
    let c := s.checkAcc t acc (coverBlocks w)
    if !c.2 then c else (c.1.readingTile t k w (fun x => x.runAcc acc k w true), true)
  | .tzero k => (s.setTeam t ((s.team t).writeTile k []), true)

/-- Whether an entry of the matrix queue may execute: it does not wait in the range-overlap unit (R137), nor, a tile move, for the
scratchpad accesses of its group that came before it (R218). -/
def State.mayRun (s : State) (e : MatEntry) : Bool :=
  !s.mustWait e.team e.seq e.sides && ((s.team e.team).grp e.g).acc.all (fun a => a.near || decide (e.after ≤ a.id))

/-- MATRIX_ENTRY_EXECUTE (R138): the first entry of a core's queue executes whole, once it may; its number completes and its flag falls
(R331). The steps of a team that has halted for its save are not executed (R53). -/
def execMatrixEntryExecute (c : Nat) (s : State) : Out :=
  match (s.core c).mq.find? (fun e => !(s.team e.team).standing) with
  | none => .next s
  | some e =>
    if !s.mayRun e then .next s else
    let r := s.runMat e
    if !r.2 then .next r.1 else
    let s := r.1.setCore c { r.1.core c with mq := (s.core c).mq.erase e }
    let s := s.tlComplete e.team 1 e.num 0
    .next ((s.modStream e.team (.grp e.g) (fun _ st => st.lower e.flag)).kick c)

end Sys2Proof.Machine
end

