-- ==== Sys2Proof/Machine/Dispatch.lean ====
section
/-! DEFINITION. The dispatcher: one arm per constructor of Instr, each one direct call of its meaning. -/
namespace Sys2Proof.Machine

def exec (i : Instr) (s : State) : Host.Outcome State Fault Refusal :=
  match i with
  | .nop => Sys2Proof.Machine.execNop s
  | .add n d a b g => Sys2Proof.Machine.execAdd n d a b g s
  | .sub n d a b g => Sys2Proof.Machine.execSub n d a b g s
  | .mul n d a b g => Sys2Proof.Machine.execMul n d a b g s
  | .mulh n d a b g => Sys2Proof.Machine.execMulh n d a b g s
  | .mulhu n d a b g => Sys2Proof.Machine.execMulhu n d a b g s
  | .mad n d a b g => Sys2Proof.Machine.execMad n d a b g s
  | .and n d a b g => Sys2Proof.Machine.execAnd n d a b g s
  | .or n d a b g => Sys2Proof.Machine.execOr n d a b g s
  | .xor n d a b g => Sys2Proof.Machine.execXor n d a b g s
  | .andn n d a b g => Sys2Proof.Machine.execAndn n d a b g s
  | .shl n d a b g => Sys2Proof.Machine.execShl n d a b g s
  | .shr n d a b g => Sys2Proof.Machine.execShr n d a b g s
  | .sar n d a b g => Sys2Proof.Machine.execSar n d a b g s
  | .min n d a b g => Sys2Proof.Machine.execMin n d a b g s
  | .max n d a b g => Sys2Proof.Machine.execMax n d a b g s
  | .minu n d a b g => Sys2Proof.Machine.execMinu n d a b g s
  | .maxu n d a b g => Sys2Proof.Machine.execMaxu n d a b g s
  | .sel n d a b g => Sys2Proof.Machine.execSel n d a b g s
  | .mov n d a g => Sys2Proof.Machine.execMov n d a g s
  | .add64 n d a b g => Sys2Proof.Machine.execAdd64 n d a b g s
  | .sub64 n d a b g => Sys2Proof.Machine.execSub64 n d a b g s
  | .mul64 n d a b g => Sys2Proof.Machine.execMul64 n d a b g s
  | .shl64 n d a b g => Sys2Proof.Machine.execShl64 n d a b g s
  | .shr64 n d a b g => Sys2Proof.Machine.execShr64 n d a b g s
  | .sar64 n d a b g => Sys2Proof.Machine.execSar64 n d a b g s
  | .addi n d a ix => Sys2Proof.Machine.execAddi n d a ix s
  | .andi n d a ix => Sys2Proof.Machine.execAndi n d a ix s
  | .ori n d a ix => Sys2Proof.Machine.execOri n d a ix s
  | .xori n d a ix => Sys2Proof.Machine.execXori n d a ix s
  | .shli n d a ix => Sys2Proof.Machine.execShli n d a ix s
  | .shri n d a ix => Sys2Proof.Machine.execShri n d a ix s
  | .sari n d a ix => Sys2Proof.Machine.execSari n d a ix s
  | .movi n d ix => Sys2Proof.Machine.execMovi n d ix s
  | .popc n d a => Sys2Proof.Machine.execPopc n d a s
  | .clz n d a => Sys2Proof.Machine.execClz n d a s
  | .ctz n d a => Sys2Proof.Machine.execCtz n d a s
  | .brev n d a => Sys2Proof.Machine.execBrev n d a s
  | .not n d a => Sys2Proof.Machine.execNot n d a s
  | .neg n d a => Sys2Proof.Machine.execNeg n d a s
  | .abs n d a => Sys2Proof.Machine.execAbs n d a s
  | .sext8 n d a => Sys2Proof.Machine.execSext8 n d a s
  | .sext16 n d a => Sys2Proof.Machine.execSext16 n d a s
  | .zext8 n d a => Sys2Proof.Machine.execZext8 n d a s
  | .zext16 n d a => Sys2Proof.Machine.execZext16 n d a s
  | .bfx n d a b => Sys2Proof.Machine.execBfx n d a b s
  | .bfxn n d a b => Sys2Proof.Machine.execBfxn n d a b s
  | .bfi n d a b => Sys2Proof.Machine.execBfi n d a b s
  | .bmix n d a b => Sys2Proof.Machine.execBmix n d a b s
  | .icmp p k m a b => Sys2Proof.Machine.execIcmp p k m a b s
  | .icmp64 p k m a b => Sys2Proof.Machine.execIcmp64 p k m a b s
  | .pand d a b => Sys2Proof.Machine.execPand d a b s
  | .por d a b => Sys2Proof.Machine.execPor d a b s
  | .pxor d a b => Sys2Proof.Machine.execPxor d a b s
  | .pandn d a b => Sys2Proof.Machine.execPandn d a b s
  | .pnot d a => Sys2Proof.Machine.execPnot d a s
  | .pmov d a => Sys2Proof.Machine.execPmov d a s
  | .ptov n d => Sys2Proof.Machine.execPtov n d s
  | .vtop a => Sys2Proof.Machine.execVtop a s
  | .ballot n d a => Sys2Proof.Machine.execBallot n d a s
  | .pany d a => Sys2Proof.Machine.execPany d a s
  | .pall d a => Sys2Proof.Machine.execPall d a s
  | .shflIdx n d a b => Sys2Proof.Machine.execShflIdx n d a b s
  | .shflUp n d a b => Sys2Proof.Machine.execShflUp n d a b s
  | .shflDn n d a b => Sys2Proof.Machine.execShflDn n d a b s
  | .shflXor n d a b => Sys2Proof.Machine.execShflXor n d a b s
  | .bcast n d a => Sys2Proof.Machine.execBcast n d a s
  | .lredAdd n d a => Sys2Proof.Machine.execLredAdd n d a s
  | .lredMin n d a => Sys2Proof.Machine.execLredMin n d a s
  | .lredMax n d a => Sys2Proof.Machine.execLredMax n d a s
  | .lredFadd n d a => Sys2Proof.Machine.execLredFadd n d a s
  | .lscanAdd n d a => Sys2Proof.Machine.execLscanAdd n d a s
  | .fadd n d a b g => Sys2Proof.Machine.execFadd n d a b g s
  | .fsub n d a b g => Sys2Proof.Machine.execFsub n d a b g s
  | .fmul n d a b g => Sys2Proof.Machine.execFmul n d a b g s
  | .ffma n d a b g => Sys2Proof.Machine.execFfma n d a b g s
  | .fmin n d a b g => Sys2Proof.Machine.execFmin n d a b g s
  | .fmax n d a b g => Sys2Proof.Machine.execFmax n d a b g s
  | .fadd64 n d a b g => Sys2Proof.Machine.execFadd64 n d a b g s
  | .fmul64 n d a b g => Sys2Proof.Machine.execFmul64 n d a b g s
  | .ffma64 n d a b g => Sys2Proof.Machine.execFfma64 n d a b g s
  | .hxadd n d a b g => Sys2Proof.Machine.execHxadd n d a b g s
  | .hxmul n d a b g => Sys2Proof.Machine.execHxmul n d a b g s
  | .hxfma n d a b g => Sys2Proof.Machine.execHxfma n d a b g s
  | .bxadd n d a b g => Sys2Proof.Machine.execBxadd n d a b g s
  | .bxmul n d a b g => Sys2Proof.Machine.execBxmul n d a b g s
  | .bxfma n d a b g => Sys2Proof.Machine.execBxfma n d a b g s
  | .fabs n d a => Sys2Proof.Machine.execFabs n d a s
  | .fneg n d a => Sys2Proof.Machine.execFneg n d a s
  | .frcp n d a => Sys2Proof.Machine.execFrcp n d a s
  | .frsq n d a => Sys2Proof.Machine.execFrsq n d a s
  | .fsqrt n d a => Sys2Proof.Machine.execFsqrt n d a s
  | .fexp2 n d a => Sys2Proof.Machine.execFexp2 n d a s
  | .flog2 n d a => Sys2Proof.Machine.execFlog2 n d a s
  | .fsinpi n d a => Sys2Proof.Machine.execFsinpi n d a s
  | .fcospi n d a => Sys2Proof.Machine.execFcospi n d a s
  | .ffloor n d a => Sys2Proof.Machine.execFfloor n d a s
  | .fceil n d a => Sys2Proof.Machine.execFceil n d a s
  | .ftrunc n d a => Sys2Proof.Machine.execFtrunc n d a s
  | .frint n d a => Sys2Proof.Machine.execFrint n d a s
  | .fclass n d a => Sys2Proof.Machine.execFclass n d a s
  | .fcmp p k m a b => Sys2Proof.Machine.execFcmp p k m a b s
  | .fcmp64 p k m a b => Sys2Proof.Machine.execFcmp64 p k m a b s
  | .cvt sx d a f g r => Sys2Proof.Machine.execCvt sx d a f g r s
  | .txcvPack n d a b r e => Sys2Proof.Machine.execTxcvPack n d a b r e s
  | .txcvUnpack n d a b r e => Sys2Proof.Machine.execTxcvUnpack n d a b r e s
  | .txexp n d a r e => Sys2Proof.Machine.execTxexp n d a r e s
  | .lds x d a z o => Sys2Proof.Machine.execLds x d a z o s
  | .sts d a z o => Sys2Proof.Machine.execSts d a z o s
  | .ldn x d a z o => Sys2Proof.Machine.execLdn x d a z o s
  | .stn d a z o => Sys2Proof.Machine.execStn d a z o s
  | .ats o d a b r => Sys2Proof.Machine.execAts o d a b r s
  | .atn o d a b r => Sys2Proof.Machine.execAtn o d a b r s
  | .atfp o d a b r => Sys2Proof.Machine.execAtfp o d a b r s
  | .atfd o d a b r => Sys2Proof.Machine.execAtfd o d a b r s
  | .atfs o d a b r => Sys2Proof.Machine.execAtfs o d a b r s
  | .mmaBf16 a t u sx => Sys2Proof.Machine.execMmaBf16 a t u sx s
  | .mmaF16 a t u sx => Sys2Proof.Machine.execMmaF16 a t u sx s
  | .mmaTe8 a t u v sx => Sys2Proof.Machine.execMmaTe8 a t u v sx s
  | .mmaTe4 a t u v sx => Sys2Proof.Machine.execMmaTe4 a t u v sx s
  | .mmaF32 a t u sx => Sys2Proof.Machine.execMmaF32 a t u sx s
  | .tld t a b r => Sys2Proof.Machine.execTld t a b r s
  | .tst t a b r => Sys2Proof.Machine.execTst t a b r s
  | .phase sx k => Sys2Proof.Machine.execPhase sx k s
  | .tfence sx m => Sys2Proof.Machine.execTfence sx m s
  | .drain p => Sys2Proof.Machine.execDrain p s
  | .accz a t => Sys2Proof.Machine.execAccz a t s
  | .accrd a t r sx => Sys2Proof.Machine.execAccrd a t r sx s
  | .accwr a t => Sys2Proof.Machine.execAccwr a t s
  | .accadd a t => Sys2Proof.Machine.execAccadd a t s
  | .tzero t => Sys2Proof.Machine.execTzero t s
  | .bra g o => Sys2Proof.Machine.execBra g o s
  | .call g o => Sys2Proof.Machine.execCall g o s
  | .brx a g => Sys2Proof.Machine.execBrx a g s
  | .ret a g => Sys2Proof.Machine.execRet a g s
  | .exit g => Sys2Proof.Machine.execExit g s
  | .join k => Sys2Proof.Machine.execJoin k s
  | .leave k => Sys2Proof.Machine.execLeave k s
  | .waitm k => Sys2Proof.Machine.execWaitm k s
  | .maskopRead n d b => Sys2Proof.Machine.execMaskopRead n d b s
  | .maskopWrite a b => Sys2Proof.Machine.execMaskopWrite a b s
  | .maskopClear b => Sys2Proof.Machine.execMaskopClear b s
  | .ppt => Sys2Proof.Machine.execPpt s
  | .rvinit a k => Sys2Proof.Machine.execRvinit a k s
  | .rvarrive k => Sys2Proof.Machine.execRvarrive k s
  | .rvwait sx k => Sys2Proof.Machine.execRvwait sx k s
  | .rvstat d l => Sys2Proof.Machine.execRvstat d l s
  | .qpush a k => Sys2Proof.Machine.execQpush a k s
  | .sigset k => Sys2Proof.Machine.execSigset k s
  | .sigwait w k => Sys2Proof.Machine.execSigwait w k s
  | .growReq p n => Sys2Proof.Machine.execGrowReq p n s
  | .growRel p n => Sys2Proof.Machine.execGrowRel p n s
  | .launch a => Sys2Proof.Machine.execLaunch a s
  | .taskdec k => Sys2Proof.Machine.execTaskdec k s
  | .yield => Sys2Proof.Machine.execYield s
  | .srr d n => Sys2Proof.Machine.execSrr d n s
  | .srw a n => Sys2Proof.Machine.execSrw a n s
  | .trap ix => Sys2Proof.Machine.execTrap ix s
  | .brk ix => Sys2Proof.Machine.execBrk ix s
  | .tret x => Sys2Proof.Machine.execTret x s
  | .waitev d a m => Sys2Proof.Machine.execWaitev d a m s
  | .fetch x y l b w => Sys2Proof.Machine.execFetch x y l b w s
  | .put x y l b w => Sys2Proof.Machine.execPut x y l b w s
  | .copyl x y l b => Sys2Proof.Machine.execCopyl x y l b s
  | .fetchr x y l b w => Sys2Proof.Machine.execFetchr x y l b w s
  | .engmGcreate x y => Sys2Proof.Machine.execEngmGcreate x y s
  | .engmGready x y => Sys2Proof.Machine.execEngmGready x y s
  | .engmGdestroy y => Sys2Proof.Machine.execEngmGdestroy y s
  | .engmFill x y l => Sys2Proof.Machine.execEngmFill x y l s
  | .engmCopyf x y l => Sys2Proof.Machine.execEngmCopyf x y l s
  | .wincfg x k w => Sys2Proof.Machine.execWincfg x k w s
  | .abinit x y b => Sys2Proof.Machine.execAbinit x y b s
  | .waita p b => Sys2Proof.Machine.execWaita p b s
  | .waitt x y t => Sys2Proof.Machine.execWaitt x y t s
  | .specCheckpoint t g => Sys2Proof.Machine.execSpecCheckpoint t g s
  | .specRollback t g => Sys2Proof.Machine.execSpecRollback t g s
  | .localAccessComplete t q ix row => Sys2Proof.Machine.execLocalAccessComplete t q ix row s
  | .storePublish t q ix sx => Sys2Proof.Machine.execStorePublish t q ix sx s
  | .viewAdvance t q a pos => Sys2Proof.Machine.execViewAdvance t q a pos s
  | .farAtomicRequest m ix w => Sys2Proof.Machine.execFarAtomicRequest m ix w s
  | .farAtomicReply p ix => Sys2Proof.Machine.execFarAtomicReply p ix s
  | .reservationRelease ix => Sys2Proof.Machine.execReservationRelease ix s
  | .matrixEntryExecute c => Sys2Proof.Machine.execMatrixEntryExecute c s
  | .growGrant c => Sys2Proof.Machine.execGrowGrant c s
  | .growUrgent c => Sys2Proof.Machine.execGrowUrgent c s
  | .notifyTailWrite p f j v => Sys2Proof.Machine.execNotifyTailWrite p f j v s
  | .notifyLevelWrite p f j v => Sys2Proof.Machine.execNotifyLevelWrite p f j v s
  | .completionHeadWrite p f j v => Sys2Proof.Machine.execCompletionHeadWrite p f j v s
  | .qiPacketFetch p q => Sys2Proof.Machine.execQiPacketFetch p q s
  | .gridDispatch p n => Sys2Proof.Machine.execGridDispatch p n s
  | .teamPlacement p n => Sys2Proof.Machine.execTeamPlacement p n s
  | .teamRestore p n => Sys2Proof.Machine.execTeamRestore p n s
  | .teamRetire t => Sys2Proof.Machine.execTeamRetire t s
  | .gridRetire k => Sys2Proof.Machine.execGridRetire k s
  | .mailboxReplicate m => Sys2Proof.Machine.execMailboxReplicate m s
  | .spanCopyReceive p => Sys2Proof.Machine.execSpanCopyReceive p s
  | .spanAck m => Sys2Proof.Machine.execSpanAck m s
  | .spanRefuse m => Sys2Proof.Machine.execSpanRefuse m s
  | .spanGo p => Sys2Proof.Machine.execSpanGo p s
  | .mailboxTimeout m g => Sys2Proof.Machine.execMailboxTimeout m g s
  | .spanAbort p => Sys2Proof.Machine.execSpanAbort p s
  | .spanRetired atModule ix => Sys2Proof.Machine.execSpanRetired atModule ix s
  | .urgentPreempt t => Sys2Proof.Machine.execUrgentPreempt t s
  | .teamSave t => Sys2Proof.Machine.execTeamSave t s
  | .cooperativePreempt t => Sys2Proof.Machine.execCooperativePreempt t s
  | .pptTimeout t => Sys2Proof.Machine.execPptTimeout t s
  | .sliceExpiry p n => Sys2Proof.Machine.execSliceExpiry p n s
  | .faultSave t => Sys2Proof.Machine.execFaultSave t s
  | .moduleReadRequest m ix w => Sys2Proof.Machine.execModuleReadRequest m ix w s
  | .chunkSend l c => Sys2Proof.Machine.execChunkSend l c s
  | .chunkReceive l ix w => Sys2Proof.Machine.execChunkReceive l ix w s
  | .rtsArrival e ix => Sys2Proof.Machine.execRtsArrival e ix s
  | .rtsRetry x => Sys2Proof.Machine.execRtsRetry x s
  | .tokenIssue e => Sys2Proof.Machine.execTokenIssue e s
  | .tokenExpiry e x k => Sys2Proof.Machine.execTokenExpiry e x k s
  | .expiryNoticeReceive e ix => Sys2Proof.Machine.execExpiryNoticeReceive e ix s
  | .frozenTimeout e x => Sys2Proof.Machine.execFrozenTimeout e x s
  | .deferredReceive e ix => Sys2Proof.Machine.execDeferredReceive e ix s
  | .purgeComplete e x => Sys2Proof.Machine.execPurgeComplete e x s
  | .contextRevokeMessage m ix => Sys2Proof.Machine.execContextRevokeMessage m ix s
  | .contextEnableMessage m ix => Sys2Proof.Machine.execContextEnableMessage m ix s
  | .ackFlitReceive l ix => Sys2Proof.Machine.execAckFlitReceive l ix s
  | .ackFlitSend l => Sys2Proof.Machine.execAckFlitSend l s
  | .nakSend l => Sys2Proof.Machine.execNakSend l s
  | .replayTimeout l => Sys2Proof.Machine.execReplayTimeout l s
  | .wavelengthFail p m up planes => Sys2Proof.Machine.execWavelengthFail p m up planes s
  | .laneSubst p m up plane => Sys2Proof.Machine.execLaneSubst p m up plane s
  | .spareLockTimeout p m up plane => Sys2Proof.Machine.execSpareLockTimeout p m up plane s
  | .spareLockFail p m up plane => Sys2Proof.Machine.execSpareLockFail p m up plane s
  | .resumeComplete l => Sys2Proof.Machine.execResumeComplete l s
  | .retrain l sw => Sys2Proof.Machine.execRetrain l sw s
  | .retrainEnd l dead => Sys2Proof.Machine.execRetrainEnd l dead s
  | .laserAgeTick atModule ix plane laser drift => Sys2Proof.Machine.execLaserAgeTick atModule ix plane laser drift s
  | .bucketRefill m => Sys2Proof.Machine.execBucketRefill m s
  | .groupTimeout m g => Sys2Proof.Machine.execGroupTimeout m g s
  | .fenceComplete ix => Sys2Proof.Machine.execFenceComplete ix s
  | .tfencectlModule p n lm => Sys2Proof.Machine.execTfencectlModule p n lm s
  | .tfencectlDomain p n => Sys2Proof.Machine.execTfencectlDomain p n s
  | .replayControlReplay p n ix w => Sys2Proof.Machine.execReplayControlReplay p n ix w s
  | .replayControlFail p n ix => Sys2Proof.Machine.execReplayControlFail p n ix s
  | .faultRecordWrite p n => Sys2Proof.Machine.execFaultRecordWrite p n s
  | .faultQueueHeadWrite p n v => Sys2Proof.Machine.execFaultQueueHeadWrite p n v s
  | .eventRingHeadWrite p n v => Sys2Proof.Machine.execEventRingHeadWrite p n v s
  | .qicfgWrite p q v => Sys2Proof.Machine.execQicfgWrite p q v s
  | .pasidRevoke p ix => Sys2Proof.Machine.execPasidRevoke p ix s
  | .pasidEnable p ix v => Sys2Proof.Machine.execPasidEnable p ix v s
  | .pasidBusyClear p ix => Sys2Proof.Machine.execPasidBusyClear p ix s
  | .vfRun p v => Sys2Proof.Machine.execVfRun p v s
  | .vfPause p v => Sys2Proof.Machine.execVfPause p v s
  | .vfDeschedule p v => Sys2Proof.Machine.execVfDeschedule p v s
  | .vfDrain p v => Sys2Proof.Machine.execVfDrain p v s
  | .flr p v => Sys2Proof.Machine.execFlr p v s
  | .vfTeardownComplete p v => Sys2Proof.Machine.execVfTeardownComplete p v s
  | .counterLoad p n c v => Sys2Proof.Machine.execCounterLoad p n c v s
  | .nearMapWrite p n save ix v fw => Sys2Proof.Machine.execNearMapWrite p n save ix v fw s
  | .remapWrite p k v fw => Sys2Proof.Machine.execRemapWrite p k v fw s
  | .channelAllocWrite p m plane v => Sys2Proof.Machine.execChannelAllocWrite p m plane v s
  | .preemptUrgent p n core slot => Sys2Proof.Machine.execPreemptUrgent p n core slot s
  | .preemptCooperative p n core slot => Sys2Proof.Machine.execPreemptCooperative p n core slot s
  | .chanctlRecommission p n m => Sys2Proof.Machine.execChanctlRecommission p n m s
  | .recommissionComplete p dead => Sys2Proof.Machine.execRecommissionComplete p dead s
  | .hostNearAccess p a x => Sys2Proof.Machine.execHostNearAccess p a x s
  | .hostFarAccess p k o x w => Sys2Proof.Machine.execHostFarAccess p k o x w s
  | .mgmtApertureAccess p m o x fw => Sys2Proof.Machine.execMgmtApertureAccess p m o x fw s
  | .garnetSnapshot p n => Sys2Proof.Machine.execGarnetSnapshot p n s
  | .garnetReset p n mask fw => Sys2Proof.Machine.execGarnetReset p n mask fw s
  | .getVersion p => Sys2Proof.Machine.execGetVersion p s
  | .getCapabilities p => Sys2Proof.Machine.execGetCapabilities p s
  | .negotiateAlgorithms p => Sys2Proof.Machine.execNegotiateAlgorithms p s
  | .getDigests p => Sys2Proof.Machine.execGetDigests p s
  | .getCertificate p => Sys2Proof.Machine.execGetCertificate p s
  | .challenge p => Sys2Proof.Machine.execChallenge p s
  | .getMeasurements p ix => Sys2Proof.Machine.execGetMeasurements p ix s
  | .powerArbiterTick p clocks => Sys2Proof.Machine.execPowerArbiterTick p clocks s
  | .powerGood p => Sys2Proof.Machine.execPowerGood p s
  | .registerWrite p o v fw => Sys2Proof.Machine.execRegisterWrite p o v fw s
  | .waitevTimeout t => Sys2Proof.Machine.execWaitevTimeout t s
  | .localPiecePerformed x => Sys2Proof.Machine.execLocalPiecePerformed x s
  | .moduleEngineCommand m ix w => Sys2Proof.Machine.execModuleEngineCommand m ix w s
  | .moduleEngineCompletion p ix => Sys2Proof.Machine.execModuleEngineCompletion p ix s
  | .codeFetch k c line w => Sys2Proof.Machine.execCodeFetch k c line w s
  | .softError x => Sys2Proof.Machine.execSoftError x s

end Sys2Proof.Machine
end

