-- ==== Sys2Proof/Machine/Issue.lean ====
section
/-! DEFINITION. Issuing a packet: decode of the slot, the check of the whole packet before anything commits (R73), and the
slots of a chain in one step (R65). -/
namespace Sys2Proof.Machine

/-- Runs the word at the current slot: the meaning of its instruction, or the trap that R83 gives the word. -/
def State.runSlot (s : State) : Out :=
  let w := s.codeWord s.curTeam (s.onCur (fun _ st => st.pc))
  if !streamWord s.inLane w then .next (s.trap .illegalOpcode)
  else match decodeWord w with
    | .ok i => exec i s
    | .illegalOpcode => .next (s.trap .illegalOpcode)
    | .illegalOperand => .next (s.trap .illegalOperand)

/-- Whether the current slot is chained to the slot before it in the packet being issued (R65). -/
def State.chained (s : State) : Bool :=
  let pc := s.onCur (fun _ st => st.pc)
  let entry := s.onCur (fun _ st => match st.pkt with | some k => k.entry | none => 0)
  let cw := s.onCur (fun _ st => match st.pkt with | some k => k.cw | none => 0)
  pc / 4 % 4 > 1 && pc != entry && !(pc / 4 % 4 == 3 && flag1 cw 0) && chainBit (s.codeWord s.curTeam (pc - 4))

/-- Whether the current slot has C = 1 (R64). -/
def State.chains (s : State) : Bool := chainBit (s.codeWord s.curTeam (s.onCur (fun _ st => st.pc)))

/-! ## A chain (R65) -/

/-- What of a team a member of a chain reads that another member may write: sr.lrbase, the tile shapes, and ALLOW and CLASS of
the windows. -/
def Team.sourcesFrom (x y : Team) : Team :=
  { x with
    lrbase := y.lrbase
    tsh := y.tsh
    wins := (List.range x.wins.length).map (fun i =>
      let a := x.wins.getD i Window.blank
      let b := y.wins.getD i Window.blank
      { a with allow := b.allow, cls := b.cls }) }

/-- A group with the blocks that it held before its chain, which a GROW.rel of the chain may have given up. -/
def Stream.regrown {w : Nat} (st pre : Stream w) : Stream w :=
  if pre.blocks ≤ st.blocks then st
  else { st with blocks := pre.blocks, regs := (pre.regs.filter (fun e => st.blocks ≤ e.1 / 8)).foldl (fun m e => Map.set m e.1 e.2) st.regs }

/-- A team as a member of the current chain sees it, from the team before the chain: what earlier members have written is not there
yet (R65). -/
def Team.asMember (x pre : Team) (q : Sel) : Team :=
  match q with
  | .ctl => x.sourcesFrom pre
  | .grp g =>
    let y := x.sourcesFrom pre
    if (pre.grp g).blocks ≤ (x.grp g).blocks then y else y.setGrp g ((x.grp g).regrown (pre.grp g))

/-- Runs a slot of a chain that began with the team `pre`: it reads what stood before the chain, and what an earlier member has
written of it stays (R65). -/
def State.runMember (pre : Team) (s : State) : Out :=
  let now := s.curT
  let seen := now.asMember pre s.curSel
  if seen = now then s.runSlot
  else match (s.setTeam s.curTeam seen).runSlot with
    | .next s1 =>
      let s2 := if s1.curT.sourcesFrom pre = s1.curT then s1.setTeam s1.curTeam (s1.curT.sourcesFrom now) else s1
      let given := s.onCur (fun _ st => st.blocks)
      .next (s2.modCur (fun _ st => if given < st.blocks then st.shrink (st.blocks - given) else st))
    | o => o

/-- The lanes of a mask that wait. -/
def Stream.waiting {w : Nat} (st : Stream w) (m : Word) : Word :=
  maskOf st.n (fun l => m.getLsbD l && st.laneState l != .ready && st.laneState l != .exited)

/-- The packet goes on at `nx`, after the slot `k`, for the lanes of the slot that stand there or wait; those that have branched away or
exited have left it (R65, R66). -/
def Stream.stay {w : Nat} (k : Pkt) (nx : Nat) (st : Stream w) : Stream w :=
  let m := st.waiting k.ex ||| maskOf st.n (fun l => k.ex.getLsbD l && st.laneState l == .ready && st.pcOf l == nx)
  { st with pkt := if m = 0 || nx / 16 != k.pc / 16 then none else some { k with ex := m, pc := nx, lit := 0 } }

/-- After a later member of the chain: the lanes that an earlier one made wait stand where they stood, and go on behind this member; a
hold is not theirs. `vpc` are the PCs before the member. -/
def Stream.keepWaits {w : Nat} (m : Word) (vpc : List Nat) (st : Stream w) : Stream w :=
  let stand (l : Nat) : Bool := m.getLsbD l && (st.laneState l == .maskWait || st.laneState l == .rvWait)
  { st with
    vpc := (List.range st.n).map (fun l => if stand l then vpc.getD l 0 else st.pcOf l)
    goesOn := (List.range st.n).map (fun l => if stand l then st.pcOf l else st.goesOn.getD l 0)
    hold := (st.hold.map (fun h => { h with ex := h.ex &&& ~~~m })).filter (fun h => h.ex != 0) }

/-- The end of a chain in which lanes came to wait: they leave the packet, and it ends where other lanes stand ready at its next slot
too, which issue with it (R31). -/
def Stream.endChain {w : Nat} (st : Stream w) : Stream w :=
  match st.pkt with
  | none => st
  | some k =>
    let ex := k.ex &&& ~~~st.waiting k.ex
    let more := (List.range st.n).any (fun l => !ex.getLsbD l && st.laneState l == .ready && st.pcOf l == k.pc)
    { st with pkt := if ex = 0 || more || st.halted then none else some { k with ex := ex } }

/-- A stream after the member of a chain at whose begin it was `s`: what the lanes that wait do next, and whether some of this chain
wait, as some did before where `parked` (R65). -/
def State.afterMember (s s1 : State) (parked : Bool) : State × Bool :=
  let more := s.chains
  let wait := s.onCur (fun _ st => st.waiting st.ex)
  let s2 := if wait = 0 then s1 else s1.modCur (fun _ st => st.keepWaits wait (s.onCur (fun _ st0 => st0.vpc)))
  let parks := parked || s2.onCur (fun _ st => st.pkt.isNone || st.waiting (s.onCur (fun _ st0 => st0.ex)) != 0)
  let s3 :=
    if s2.slotEnd != .none then s2
    else if parks && more then s2.modCur (fun _ st => match s.onCur (fun _ st0 => st0.pkt) with
      | some k => st.stay k (nextSlot (s.onCur (fun _ st0 => st0.pc)) false)
      | none => st)
    else if parked then s2.modCur (fun _ st => st.endChain)
    else s2
  (s3, parks)

/-- Runs the current slot and the slots chained to it; `parked` says whether lanes of the chain have come to wait, which run its later
members all the same (R65). -/
def runMembers (pre : Team) : Nat → Bool → State → Out
  | 0, _, s => .next s
  | n + 1, parked, s =>
    match s.runMember pre with
    | .next s1 =>
      let a := s.afterMember s1 parked
      if a.1.slotEnd == .none && s.chains && a.1.onCur (fun _ st => st.pkt.isSome) then runMembers pre n a.2 (a.1.beginSlot true)
      else if a.1.slotEnd == .none then .next (a.1.modCur (fun _ st => { st with hold := none }))
      else .next a.1
    | o => o

/-- Runs the current slot and the slots chained to it (R65); a slot that is not the packet's first is an entry of its own
if it still faults (log entry 3). -/
def runChain (n : Nat) (s : State) : Out := runMembers s.curT n false s

/-! ## What a slot word reads and writes (R74, R81, R82) -/

/-- The latch that a slot word gives a result, by its major and function (R80). -/
def latchMade (lane : Bool) (w : Nat) : Option Nat :=
  let m := fld w 24 7
  let fn := fld w 0 5
  if m = 0x26 then (if fn = 6 ∨ fn = 8 then some 0 else none)
  else if m = 0x00 ∨ m = 0x24 ∨ m = 0x25 ∨ m = 0x38 ∨ m = 0x39 then none
  else if m ≤ 0x27 then some 0
  else if m ≤ 0x36 then some 1
  else if m ≤ 0x3C then some 3
  else if m = 0x40 ∨ m = 0x42 then some 2
  else if 0x44 ≤ m ∧ m ≤ 0x48 then (if fld w 14 6 = (if lane then 55 else 38) then none else some 2)
  else none

/-- The code of a latch as a source (R77). -/
def latchCode (lane : Bool) (k : Nat) : Nat := (if lane then 48 else 32) + k

/-- Registers from a code on. -/
def codesFrom (c n : Nat) : List Nat := (List.range n).map (fun i => c + i)

/-- The number of registers that an M-format word moves (R292). -/
def movedRegs (lane : Bool) (w : Nat) : Nat := max 1 (2 ^ fld w 8 3 / (if lane then 4 else 8))

/-- Whether a word computes on w-pairs (R269, R284). -/
def pairMajor (m : Nat) : Bool := (0x14 ≤ m && m ≤ 0x19) || m == 0x25 || (0x2E ≤ m && m ≤ 0x30) || m == 0x39

/-- The registers and latches, predicates (100 and more) and masks (200 and more) that a slot word may write. -/
def wordDests (lane : Bool) (w : Nat) : List Nat :=
  let m := fld w 24 7
  let fn := fld w 0 5
  let d := fld w 17 6
  let e := fld w 18 6
  let kept : List Nat := if flag1 w 23 then [] else if pairMajor m then [d, d + 1] else [d]
  let regs : List Nat :=
    if m = 0x24 ∨ m = 0x25 ∨ m = 0x38 ∨ m = 0x39 then [100 + fld w 19 5]
    else if m = 0x26 then (if fn = 6 ∨ fn = 8 then kept else if fn = 7 then codesFrom 101 31 else [100 + d])
    else if m = 0x3A then [d, d + 1]
    else if 0x01 ≤ m ∧ m ≤ 0x3C then kept
    else if m = 0x40 ∨ m = 0x42 then codesFrom d (movedRegs lane w)
    else if 0x44 ≤ m ∧ m ≤ 0x48 then [fld w 14 6]
    else if m = 0x59 then [if lane then 47 else 31]
    else if m = 0x60 then (if fn = 0 then kept else [200 + fld w 5 6])
    else if m = 0x67 ∨ m = 0x75 then [e]
    else if m = 0x70 then (if lane then [e, e + 1] else [e])
    else if m = 0x6C ∨ m = 0x7D then [100 + e]
    else if m = 0x7E ∨ (m = 0x7A ∧ fld w 8 4 = 0) then [fld w 12 6]
    else []
  regs.filter (fun c => decide (c ≤ (if lane then 47 else 31) ∨ 100 < c)) ++ ((latchMade lane w).map (latchCode lane)).toList

/-- The predicates and masks that a slot word reads. -/
def wordTests (w : Nat) : List Nat :=
  let m := fld w 24 7
  let fn := fld w 0 5
  if (0x01 ≤ m ∧ m ≤ 0x19) ∨ (0x28 ≤ m ∧ m ≤ 0x36) ∨ (0x5A ≤ m ∧ m ≤ 0x5C) then [100 + fn]
  else if m = 0x58 ∨ m = 0x59 then [100 + fld w 19 5]
  else if m = 0x26 then
    (if fn ≤ 3 then [100 + fld w 11 6, 100 + fld w 5 6] else if fn = 6 then codesFrom 101 31 else if fn = 7 then [] else [100 + fld w 11 6])
  else if m = 0x5F then [200 + fld w 0 4]
  else if m = 0x60 ∧ fn = 0 then [200 + fld w 5 6]
  else []

/-- What the faults of a slot word depend on: of a memory access its address alone, else all that it reads. -/
def wordFaults (w : Nat) : List Nat :=
  let m := fld w 24 7
  if 0x40 ≤ m ∧ m ≤ 0x43 then [fld w 11 6]
  else if m = 0x44 ∨ m = 0x45 then [fld w 8 6]
  else if 0x46 ≤ m ∧ m ≤ 0x48 then [fld w 8 6, fld w 8 6 + 1]
  else (sourceCodes w).flatMap (fun c => if pairMajor m then [c, c + 1] else [c]) ++ wordTests w

/-- All that a slot word reads. -/
def wordReads (lane : Bool) (w : Nat) : List Nat :=
  let m := fld w 24 7
  let wide := m = 0x3A ∧ [2, 3, 5].contains (fld w 3 4)
  wordFaults w ++ (sourceCodes w).flatMap (fun c => codesFrom c (if m = 0x41 ∨ m = 0x43 then movedRegs lane w else if wide then 2 else 1))

/-- Whether a slot word may take lanes out of its packet by a guard: BRA, CALL, BRX, RET, EXIT. -/
def leaves (w : Nat) : Bool := 0x58 ≤ fld w 24 7 && fld w 24 7 ≤ 0x5C

/-- Whether the lanes of a slot word may come to wait: WAITM, RVWAIT, a far atomic with a result (R29). -/
def waitsHere (w : Nat) : Bool :=
  let m := fld w 24 7
  m == 0x5F || m == 0x66 || (0x46 ≤ m && m ≤ 0x48 && fld w 14 6 != 55)

/-! ## The faults of a packet (R73) -/

/-- What the check of a packet comes to: no fault; its first fault, with trap, IMM, ADDR and slot; or it needs a line of the
code first. -/
inductive Checked | pass | trap (t : Trap) (imm : Nat) (addrs : List Nat) (pc : Nat) | line (o : Nat)
  deriving DecidableEq, Repr

/-- A copy of the state in which the current stream's own accesses are served and nothing holds its later ones: what a check of
its packet takes as their result. -/
def State.foresee (s : State) : State :=
  let as := s.onCur (fun _ st => st.acc)
  let s1 := as.foldl (fun s a =>
    let r := a.rows.foldl (fun (r : Access × State) k =>
      if a.near then r.2.serveNear s.curTeam s.curSel r.1 k
      else let y := r.2.curT.serveScratch s.curSel r.1 k; (y.1, r.2.setTeam s.curTeam y.2)) (a, s)
    r.2.finish s.curTeam s.curSel r.1) s
  s1.modCur (fun _ st => { st with acqHeld := false, pkt := st.pkt.map (fun k => { k with acq := false }) })

/-- A copy of the state in the cycle in which the slots that come next would issue (R66). -/
def State.later (s : State) : State :=
  match s.onCur (fun _ st => st.pkt.map (fun k => (k.cw, k.pc))) with
  | none => s
  | some (cw, pc) =>
    let qs := chainFrom cw (s.slotWords s.curTeam pc) 3 (pc / 4 % 4)
    let clk := s.onCur (fun _ st => qs.foldl (fun c q => max c (st.lastIssue - 1 + max 1 (fld cw (8 - 2 * q) 2))) (s.clkOf s.curTeam))
    let c := s.curT.core
    s.setCore c { s.core c with clk := clk }

/-- What the check of a packet does not know: the registers, latches, predicates and masks that an earlier slot is still to write, and
those of the current chain; whether a slot before is held, and whether lanes wait at one. -/
structure Doubt where
  regs : List Nat := []
  chain : List Nat := []
  held : Bool := false
  parked : Bool := false

/-- What is still to become visible of the current stream: an earlier or a later read gives another value. The predicate p0, for which
a result without a destination stands, is never among it (R88). -/
def State.unsettled (s : State) : List Nat :=
  let lane := s.inLane
  let cs : List Nat := s.onCur (fun w st =>
    st.pend.map (fun p => match p.dest with | .reg r => r | .pred k => 100 + k) ++
    st.acc.flatMap (fun a => (a.dest.toList.flatMap (fun d => destRegs w a.size d)) ++ (if a.latch then [latchCode lane 2] else [])))
  cs.filter (fun c => c != 100)

/-- The record that an instruction reads at issue: where, its length, the alignment it asks for (R319, R337, R345). -/
def State.recordPlace (s : State) (i : Instr) : Option (Nat × Nat × Nat) :=
  match i with
  | .launch a => some (s.ctlValue a, 64, 64)
  | .engmGcreate x _ => some (s.ctlValue x, 576, 64)
  | .fetch _ _ l _ _ => some (s.pairAddr l.toNat, 128, 1)
  | .put _ _ l _ _ => some (s.pairAddr l.toNat, 128, 1)
  | .copyl _ _ l _ => some (s.pairAddr l.toNat, 128, 1)
  | .fetchr _ _ l _ _ => some (s.pairAddr l.toNat, 128, 1)
  | .engmCopyf _ _ l => some (s.pairAddr l.toNat, 128, 1)
  | .engmFill _ _ l => some (s.pairAddr l.toNat + 64, 64, 1)
  | _ => none

/-- Whether the operand fields are legal of an instruction whose ILLEGAL_OPERAND may come from a value too (R313, R319, R323, R337,
R345, R347 to R350). -/
def fieldsOk (i : Instr) : Bool :=
  let src (r : Reg) : Bool := (srcOf false 4 r.toNat).isSome
  let reg (r : Reg) : Bool := decide (r.toNat ≤ 31)
  match i with
  | .rvinit a k => src a && decide (k.toNat < 24)
  | .waitev d a _ => (dstOf false 0 d.toNat).isSome && src a
  | .launch a => src a
  | .fetch x y _ _ _ => reg x && reg y
  | .put x y _ _ _ => reg x && reg y
  | .copyl x y _ _ => reg x && reg y
  | .fetchr x y _ _ _ => reg x && reg y
  | .engmGcreate x y => reg x && reg y
  | .engmFill x y _ => reg x && reg y
  | .engmCopyf x y _ => reg x && reg y
  | .wincfg x _ _ => src x
  | .abinit x y _ => src x && src y
  | .waita p _ => decide (1 ≤ p.toNat ∧ p.toNat ≤ 31)
  | .waitt x y k => src x && (reg y || y == 38) && k != 3
  | _ => false

/-- Whether a fault that the check finds at the current slot is one when the packet issues, whatever the doubt (R73): one of the word
and of the packet order is; one of a value, unless the value is in doubt; and behind a held slot not one of the record that the slot is
to read (R198, R337: log entry 3), but DEPTH_EXCEEDED is, whatever the descriptor holds. -/
def State.sure (s : State) (d : Doubt) (w : Nat) (t : Trap) : Bool :=
  let i : Option Instr := match decodeWord w with | .ok i => some i | _ => none
  let fixed : Bool := match t with
    | .illegalOpcode => true
    | .latchStale => true
    | .software => true
    | .brk => true
    | .illegalConvergence => !d.parked
    | .illegalOperand => !(i.any fieldsOk)
    | _ => false
  let others : Bool := d.parked && [Trap.illegalConvergence, .maskDeadlock].contains t
  let deep : Bool := (match i with | some (.launch _) => true | _ => false) && decide (10 ≤ (s.gridOf s.curTeam).depth)
  let record : Bool := match i.bind s.recordPlace with
    | some (a, n, k) => !deep && a % k == 0 && (s.localBad s.curTeam a n).isNone
    | none => false
  fixed || !((wordFaults w).any (fun c => d.regs.contains c) || others || (d.held && record))

/-- The check of a packet passes over a slot whose effect it does not know: of a branch, the lanes that take it leave. -/
def Stream.passOver {w : Nat} (st : Stream w) (lane : Bool) (word : Nat) : Stream w :=
  let st1 := match latchMade lane word with | some k => st.latch k (copies st.n none) | none => st
  (if leaves word then st1.leavePkt (st1.active ((wordTests word).headD 100 - 100)) else st1).advance

/-- Of two checks of the slots that follow a slot, for the lanes that go on at once and for all of them, the fault that comes first. -/
def Checked.first (a b : Checked) : Checked :=
  match a, b with
  | .line o, _ => .line o
  | _, .line o => .line o
  | .trap _ _ _ p, .trap _ _ _ q => if q < p then b else a
  | .trap _ _ _ _, .pass => a
  | .pass, _ => b

/-- The first fault of a packet, found on a copy of the state (R73), over every slot: behind a held slot as if it went on; behind one at
which lanes come to wait for the lanes that go on at once (R32, R34), and for all as if the waiting ones went on. `pre` is the team as
the current chain began. A fault that is in doubt is found when the remainder issues (log entry 3). -/
def probe : Nat → Team → Doubt → State → Checked
  | 0, _, _, _ => .pass
  | n + 1, pre, d, s =>
    let lane := s.inLane
    let pc := s.onCur (fun _ st => st.pc)
    let w := s.codeWord s.curTeam pc
    let tainted : List Nat := if (wordReads lane w).any (fun c => d.regs.contains c) then wordDests lane w else []
    let lost := leaves w && (wordTests w).any (fun c => d.regs.contains c)
    let go (e : Doubt) (s1 : State) : Checked :=
      if s1.onCur (fun _ st => st.pkt.isSome) then
        let ch := s1.chained
        let s2 := (if ch then s1 else s1.later).beginSlot ch
        probe n (if ch then pre else s2.curT) (if ch then e else { e with regs := e.regs ++ e.chain, chain := [] }) s2
      else .pass
    let pass (more : Nat) : State := s.modCur (fun _ st => let st1 := st.passOver lane w; { st1 with blocks := st1.blocks + more })
    match s.runMember pre with
    | .next s1 =>
      match s1.slotEnd with
      | .trapped t imm addrs =>
        if s.sure d w t then .trap t imm addrs pc
        else if lost then .pass
        else go { d with chain := d.chain ++ wordDests lane w } (pass 0)
      | .noLine o => if lost then .pass else if (wordFaults w).any (fun c => d.regs.contains c) then go d (pass 0) else .line o
      | .waits => probe n pre d s.foresee
      | .held =>
        let more := s1.onCur (fun _ st => st.hold.map (fun h => growWanted h)) |>.getD 0
        go { d with chain := d.chain ++ wordDests lane w ++ s.unsettled, held := true } (pass more)
      | .none =>
        if lost then .pass
        else
          let a := s.afterMember s1 (s.onCur (fun _ st => st.waiting st.ex != 0))
          let on := go { d with chain := d.chain ++ tainted } a.1
          if waitsHere w && a.2 then
            on.first (go { d with chain := d.chain ++ wordDests lane w ++ s.unsettled, held := true, parked := true }
              (s1.modCur (fun _ st => match s.onCur (fun _ st0 => st0.pkt) with
                | some k => let st1 := st.stay k (nextSlot pc (s.onCur (fun _ st0 => st0.litNext))); st1.setState st1.ex .ready
                | none => st)))
          else on
    | _ => .pass

/-- The check of a packet whose first slot stands begun. -/
def State.check (s : State) : Checked := probe 8 s.curT {} s

/-- Traps a packet as a whole, at its entry (R72, R71). -/
def State.trapPacket (s : State) (t : Trap) (pc cw : Nat) (ex : Word) : State :=
  (s.modCur (fun _ st => { st with pkt := some (Pkt.enter pc cw ex) })).takeTrap t 0 0 []

/-- The vector of the current stream. -/
def State.vector (s : State) : Nat := (if s.inLane then s.curT.ltrapvec else s.curT.ctrapvec).toNat

/-- Whether the line of the stream's vector can be looked at, or need not be. -/
def State.vectorHere (s : State) : Bool := s.vector == noVector || s.codeHere s.curTeam s.vector

/-- A chain that cannot issue yet leaves everything as it is (R66). -/
def issued : Out → Option Out
  | .next s => match s.slotEnd with
    | .waits => none
    | .noLine _ => none
    | _ => some (.next s)
  | o => some o

/-- Issues the packet at `pc` for lanes `ex`: WAIT, DIST, malformation, entry check, faults of every slot, then its first slot
with its chain (R63, R66, R68, R71 to R73). Answers nothing when the packet does not qualify, or while the core lacks the
line of code that it or its trap needs (R122). -/
def State.issuePacket (s : State) (pc : Nat) (ex : Word) : Option Out :=
  let t := s.curTeam
  let len := (s.gridOf t).segLen
  let trapped (x : State) : Option Out := if s.vectorHere then some (.next x) else none
  if !s.codeHere t pc then none
  else if len ≤ pc then trapped (s.trapPacket .badTarget pc 0 ex)
  else
    let cw := s.codeWord t (pc / 16 * 16)
    let ws := s.slotWords t pc
    let first := s.onCur (fun _ st => !st.started)
    let settled := s.modCur (fun _ st => st.settle (s.clkOf t) false)
    if !settled.onCur (fun _ st => st.packetReady (s.clkOf t) cw pc ws) then none
    else if malformed cw (ws.getD 0 0) (ws.getD 1 0) (ws.getD 2 0) then trapped (settled.trapPacket .illegalPacket pc cw ex)
    else if first && !s.targetOk t pc then trapped (settled.trapPacket .badTarget pc cw ex)
    else
      let begun := (settled.modCur (fun _ st => st.beginPacket pc cw ex)).beginSlot false
      match begun.check with
      | .trap trap imm addrs at_ =>
        trapped ((settled.modCur (fun _ st => { st with pkt := some { Pkt.enter pc cw ex with pc := at_ } })).takeTrap
          trap (at_ / 4 % 4) imm addrs)
      | .line _ => none
      | .pass => issued (runChain 3 begun)

/-- Whether a stream waits with its speculation: for its checkpoint, its rollback, or the rendezvous (R199, R200, R202). -/
def Stream.stalled {w : Nat} (st : Stream w) : Bool :=
  match st.spec with
  | some x => x.stage != .running || x.paused
  | none => false

/-- Whether the next slots of the packet in flight may issue in this cycle (R66). -/
def State.slotDue (s : State) : Bool :=
  match s.onCur (fun _ st => st.pkt.map (fun k => (k.cw, k.pc))) with
  | none => false
  | some (cw, pc) =>
    s.onCur (fun _ st => st.distOver (s.clkOf s.curTeam) cw (chainFrom cw (s.slotWords s.curTeam pc) 3 (pc / 4 % 4)))

/-- What a stream would do if it issued now: the next slots of its packet in flight, or its next packet. Answers nothing when it
does not qualify (R43). -/
def State.tryIssue (s : State) (t : Nat) (q : Sel) : Option Out :=
  let s := { s with curTeam := t, curSel := q, slotEnd := .none }
  let x := s.team t
  if x.place != .resident || s.onCur (fun _ st => st.halted || st.stalled) then none
  else if s.onCur (fun _ st => st.pkt.isSome) then
    if !s.slotDue then none else issued (runChain 3 ((s.modCur (fun _ st => st.restart)).beginSlot false))
  else match s.onCur (fun _ st => st.issuePoint) with
    | some (pc, ex) => s.issuePacket pc ex
    | none => none

/-- Notes a stream whose next slots hold a consuming SIGWAIT and which could issue in this cycle: it waits from now on, if it did
not before (R317). One that speculates, or is paused, does not: it qualifies once the point has completed (R200). -/
def State.noteWaiter (s : State) (t : Nat) (q : Sel) : State :=
  let off : State := if s.onStream t q (fun _ st => st.ready.isSome) then s.modStream t q (fun _ st => { st with ready := none }) else s
  if s.onStream t q (fun _ st => st.hold.any (fun h => h.own)) then s
  else match s.consumesNext t q with
    | some k =>
      if s.onStream t q (fun _ st => st.spec.isSome) || (s.tryIssue t q).isNone then off
      else
        let s1 := s.modStream t q (fun _ st => { st with ready := some (st.ready.getD (s.clkOf t)) })
        let x := s1.team t
        let f := x.sigs.getD k SigFlag.blank
        if f.waiters.contains q then s1 else s1.setTeam t { x with sigs := setAt x.sigs k { f with waiters := f.waiters ++ [q] } }
    | none => off

/-- Notes the streams that come to wait in a consuming SIGWAIT in this cycle: all of them, before a port tries one of them (R94). -/
def State.noteWaiters (s : State) : State :=
  s.teams.foldl (fun s e =>
    if e.2.place == .resident then e.2.grps.foldl (fun s g => s.noteWaiter e.1 (.grp g.1)) (s.noteWaiter e.1 .ctl) else s) s

/-! ## Results that come while a packet is in flight (R73, R191) -/

/-- The rest of a stream's packet in flight, as it would issue next. -/
def State.restOf (s : State) (t : Nat) (q : Sel) : Option State :=
  let s := { s with curTeam := t, curSel := q, slotEnd := .none }
  if s.onCur (fun _ st => st.pkt.isSome && st.hold.isNone && !st.halted) then some ((s.later.modCur (fun _ st => st.restart)).beginSlot false)
  else none

/-- Whether the rest of a stream's packet in flight, which has passed its check and does not wait, would fault in `u` and not in `s`. -/
def State.spoils (s u : State) (t : Nat) (q : Sel) : Bool :=
  match s.restOf t q, u.restOf t q with
  | some a, some b =>
    let traps (x : Checked) : Bool := match x with | .trap _ _ _ _ => true | _ => false
    let waits : Bool := match runChain 3 a with | .next y => y.slotEnd == .waits | _ => false
    traps b.check && !traps a.check && !waits
  | _, _ => false

/-- Whether a change of state brings a stream results of its own that would make the rest of its packet in flight fault: such a packet
has passed its check, and commits as a whole (R73, R191). Until the packet is over its slots read the values of before, as R67 allows
(DEDUCED, log entry 3). -/
def State.untimely (s u : State) : Bool :=
  let brought (t : Nat) (q : Sel) : Bool :=
    let seen (x : State) : List (List Nat) × List Nat × List (List Nat) := x.onStream t q (fun _ st =>
      (st.regs.map (fun e => e.1 :: e.2.map (fun v => v.toNat)), st.preds.map (fun v => v.toNat), st.latches.map (fun l => l.vals.map (fun v => v.toNat))))
    s.onStream t q (fun _ st => st.pkt.isSome) && seen s != seen u && s.spoils u t q
  s.teams.any (fun e => e.2.place == .resident && (brought e.1 .ctl || e.2.grps.any (fun g => brought e.1 (.grp g.1))))

/-- An event, which comes later where it would be untimely. -/
def State.happen (s : State) (i : Instr) : Out :=
  match exec i s with
  | .next u => if s.untimely u then .next s else .next u
  | o => o

/-- The line of code that a stream lacks for its next packet, its trap or its branch, if any. -/
def State.lineWanted (s : State) (t : Nat) (q : Sel) : Option Nat :=
  let s := { s with curTeam := t, curSel := q, slotEnd := .none }
  if s.onCur (fun _ st => st.pkt.isSome) then
    match runChain 3 ((s.modCur (fun _ st => st.restart)).beginSlot false) with
    | .next s1 => match s1.slotEnd with | .noLine o => some o | _ => none
    | _ => none
  else match s.onCur (fun _ st => st.issuePoint) with
    | none => none
    | some (pc, ex) =>
      if !s.codeHere t pc then some pc
      else if !s.vectorHere then some s.vector
      else
        match (((s.modCur (fun _ st => st.settle (s.clkOf t) false)).modCur
          (fun _ st => st.beginPacket pc (s.codeWord t (pc / 16 * 16)) ex)).beginSlot false).check with
        | .line o => some o
        | _ => none

/-! ## The issue ports of a core (R12, R43 to R45) -/

/-- The resident streams of an issue port of a core: a quad's groups, or, for port 4, the control threads. -/
def State.onPort (s : State) (c k : Nat) : List (Nat × Sel) :=
  (s.teams.filter (fun e => e.2.core == c && e.2.place == .resident)).flatMap (fun e =>
    if k = 4 then [(e.1, .ctl)] else (e.2.grps.filter (fun g => g.2.slot % 4 == k)).map (fun g => (e.1, .grp g.1)))

/-- Whether a control thread is running (R35): it has not exited, does not wait for a reply or in a rendezvous, and no slot of it is
held. -/
def State.running (s : State) (t : Nat) : Bool :=
  let st := (s.team t).ctl
  st.laneState 0 == .ready && st.hold.isNone && !st.halted

/-- A stream that may issue, with its slot, when it last issued, its hold of R44 (of a control thread, the cycle after its YIELD), whether
another control thread of the core is running, and what it would do. -/
structure Candidate where
  t : Nat
  q : Sel
  slot : Nat
  last : Nat
  bypass : Bool
  others : Bool
  out : Out

/-- The streams of a port that qualify (R43): a slot that is held and would be held again is passed over (R73, R133); one from which
its chain goes on to a later slot that is held is not. -/
def State.candidatesOf (s : State) (c k : Nat) : List Candidate :=
  (s.onPort c k).filterMap (fun e =>
    let at_ (x : State) : Option Nat := x.onStream e.1 e.2 (fun _ st => st.hold.map (fun h => h.pc))
    let still (o : Out) : Bool := match o with
      | .next s1 => s1.slotEnd == .held && (at_ s).isSome && at_ s1 == at_ s
      | _ => false
    match s.tryIssue e.1 e.2 with
    | none => none
    | some o =>
      if still o then none
      else some
        { t := e.1, q := e.2, out := o
          slot := match e.2 with | .ctl => (s.team e.1).slot | .grp g => ((s.team e.1).grp g).slot
          last := s.onStream e.1 e.2 (fun _ st => st.lastIssue)
          bypass := s.onStream e.1 e.2 (fun _ st => st.bypass.any (fun n => decide ((s.core c).clk ≤ n)))
          others := (s.teams.any (fun x => x.1 != e.1 && x.2.core == c && x.2.place == .resident && s.running x.1)) })

/-- The candidate that comes first by a test. -/
def firstBy (f : Candidate → Candidate → Bool) (l : List Candidate) : Option Candidate :=
  l.foldl (fun o x => match o with | none => some x | some y => if f x y then some x else some y) none

/-- The stream that a port picks (R43 to R45): a quad one for which it holds a priority, unless another has gone 48 cycles without
issuing, else the one that has gone the most cycles, ties to the lower slot; the control port by team slot after the last, and not one that
yielded in the cycle before while another control thread is running (R321). A group that
has not issued on its core, or was restored there, counts from cycle 0 of the core: it goes before every group that has issued, and
breaks the hold of R44 once the core has run 48 cycles (DESIGN CHOICE, log entry 13: R43 and R44 do not say since when such a group has
not issued). -/
def State.pickOn (s : State) (c k : Nat) : Option Candidate :=
  let l := s.candidatesOf c k
  let older (x y : Candidate) : Bool := decide (x.last < y.last ∨ (x.last = y.last ∧ x.slot < y.slot))
  let turn (x : Candidate) : Nat := (x.slot + 7 - (s.core c).lastCtl) % 8
  if k = 4 then firstBy (fun x y => decide (turn x < turn y)) (l.filter (fun x => !(x.bypass && x.others)))
  else
    match firstBy older (l.filter (fun x => x.bypass)) with
    | some x => if l.any (fun y => (y.t, y.q) != (x.t, x.q) && decide (y.last + 48 ≤ (s.core c).clk + 1)) then firstBy older l else some x
    | none => firstBy older l

/-- The pick of the first port that has not issued in this cycle and has one: the quads come in ascending order, so that their
pops and their entries into the matrix queue do (R132, R331), and the control port last. -/
def State.due (s : State) (c : Nat) : Option (Nat × Candidate) :=
  (List.range 5).findSome? (fun k =>
    if k < (s.core c).port then none else (s.pickOn c k).map (fun x => (k, x)))

/-- Whether a slot word that gives a latch its result is of a format with a guard: those of W-bit computations, but for SEL, whose
predicate is a source (R75). -/
def hasGuard (w : Nat) : Bool :=
  let m := fld w 24 7
  ((0x01 ≤ m && m ≤ 0x19) || (0x28 ≤ m && m ≤ 0x36)) && m != 0x12

/-- Whether the next packet of a group reads a latch whose producer is a slot of the packet that it has just issued (R44): of the
reads of the next packet, those without a producer of their own in it, an earlier slot of another chain that gives every lane a
result. -/
def State.readsOwn (s : State) (t g : Nat) : Bool :=
  let st := (s.team t).grp g
  match st.issuePoint with
  | none => false
  | some (pc, _) =>
    let cw := s.codeWord t (pc / 16 * 16)
    let ws := s.slotWords t pc
    let live (i : Nat) : Bool := decide (pc / 4 % 4 ≤ i + 1) && !(i == 1 && flag1 cw 0) && !(i == 2 && flag1 cw 1)
    let w (i : Nat) : Nat := ws.getD i 0
    let guarded (i : Nat) : Bool := hasGuard (w i) && fld (w i) 0 5 != 0
    let apart (j i : Nat) : Bool := (List.range i).any (fun k => decide (j ≤ k) && live k && !chainBit (w k))
    let own (i k : Nat) : Bool := (List.range i).any (fun j => live j && apart j i && latchMade true (w j) == some k && !guarded j)
    let made (k : Nat) : Bool := (st.latches.getD k (Latch.blank 32 32)).cur != 0 || st.latchNew.any (fun l => l.pipe == k)
    s.codeHere t pc && (List.range 3).any (fun i => live i &&
      (sourceCodes (w i)).any (fun c => decide (48 ≤ c ∧ c ≤ 51) && made (c - 48) && !own i (c - 48)))

/-- The state after a port has issued its pick: a chain whose first slot came to be held has not issued (R73); one with a YIELD gets no
hold of R44, and of the control thread is passed over in the next cycle (R321). -/
def State.portDone (s : State) (c k : Nat) (x : Candidate) : Out :=
  match x.out with
  | .next s1 =>
    let at_ := (s.onStream x.t x.q (fun _ st => st.standsAt)).getD 0
    let yields := (s.chainWords x.t at_).any isYield
    if s1.slotEnd == .held && s1.onStream x.t x.q (fun _ st => st.hold.any (fun h => h.pc == at_)) then .next s1
    else
      let s2 := s1.setCore c { s1.core c with port := k + 1, lastCtl := if k = 4 then x.slot else (s.core c).lastCtl }
      match x.q with
      | .ctl =>
        .next (if yields && s2.slotEnd == .none then s2.modStream x.t .ctl (fun _ st => { st with bypass := some ((s.core c).clk + 1) }) else s2)
      | .grp g =>
        let st := (s2.team x.t).grp g
        .next (if st.pkt.isNone && s2.slotEnd == .none && !yields && s2.readsOwn x.t g then
          s2.setTeam x.t ((s2.team x.t).setGrp g { st with bypass := some ((s.core c).clk + 3) }) else s2)
  | o => o

/-- A team as a cycle of its core begins at clock `clk`: conflicts of the cycle before roll back (R203), its errors are past
(R104), a hold of R44 that has run out or whose packet waits for more than DIST is over, and the cycles in a row are counted in which
it waits on a held fault while no group of it qualifies (R58); a group that has issued in the cycle did qualify. A queue entry whose
release has taken effect is visible (R195). -/
def State.newCycle (s : State) (clk t : Nat) (x : Team) : Team :=
  let group (st : Stream 32) : Stream 32 :=
    let st1 : Stream 32 := { st with spec := st.spec.map (fun (p : Spec 32) =>
      if p.stage = .conflicted then { p with stage := .rolling, writers := [] } else p) }
    match st1.bypass with
    | none => st1
    | some n =>
      let y := st1.settle clk false
      let stays : Bool := match y.issuePoint with
        | some (pc, _) =>
          let cw := s.codeWord t (pc / 16 * 16)
          y.hold.isNone && y.waitClear cw && y.holdersOk cw (pc / 4 % 4) (s.slotWords t pc)
        | none => false
      if clk ≤ n ∧ stays = true then st1 else { st1 with bypass := none }
  let entry (e : QEntry) : QEntry := if e.after.any (s.ctlDone t) then { e with after := none, from_ := clk } else e
  let stuck : Bool := s.stuckOnFault t && !x.grps.any (fun e => e.2.lastIssue == clk)
  { x with mxErrs := [], queues := x.queues.map (fun q => q.map entry), grps := x.grps.map (fun e => (e.1, group e.2)), stuck := if stuck then x.stuck + 1 else 0 }

/-- A cycle of a core passes. -/
def State.tick (s : State) (c : Nat) : State :=
  let clk := (s.core c).clk + 1
  let s1 := s.setClk c clk
  let s2 := s1.setCore c { s1.core c with port := 0 }
  { s2 with teams := s2.teams.map (fun e => if e.2.core = c ∧ e.2.place = .resident then (e.1, s.newCycle clk e.1 e.2) else e) }

/-- A cycle of a core: what a port still has to issue in it issues, else it passes. -/
def State.cycle (s : State) (c : Nat) : Out :=
  match s.due c with
  | some (k, x) => s.portDone c k x
  | none => .next (s.tick c)

end Sys2Proof.Machine
end

