-- ==== Sys2Proof/Machine/Reads.lean ====
section
/-! DEFINITION. What the host reads (R5, R6, R142, R352, R353): BAR0 of the PF, the VFCTL mirror of a VF, the notify pages. Reserved
bits, write-only fields and unlisted offsets read 0; the places that R353 leaves open are the model's own (log entry 26). -/
namespace Sys2Proof.Machine

/-- One half of a register of 8 bytes. -/
def half (hi : Bool) (v : Nat) : Nat := if hi then v / 2 ^ 32 % 2 ^ 32 else v % 2 ^ 32

/-- A flag at a bit. -/
def flagAt (b : Bool) (i : Nat) : Nat := if b then 2 ^ i else 0

/-- The dword at a multiple of 4 of the global page. The field maps of PREEMPT (R364) and of CHANCTL
(R366) have no Access column, and GSNAP (R367) has no field map: that GO, CLASS, PART, CORE, SLOT and PMOD of the two and the whole of
GSNAP read 0, as if they were write-only, is the model's choice (DESIGN CHOICE, log entry 26). -/
def Pkg.globalRead (x : Pkg) (o : Nat) : Nat :=
  if o < 8 then half (o == 4) Config.idRegister.toNat
  else if o = 0x010 then x.cap + x.floor * 2 ^ 16
  else if o = 0x100 then flagAt x.tfBusy.isSome 30
  else if o = 0x110 then flagAt x.preemptBusy.isSome 30
  else if o = 0x120 then flagAt x.chanBusy.isSome 30
  else if 0x200 ≤ o ∧ o < 0x280 then half (o % 8 == 4) (Map.get x.farwin ((o - 0x200) / 8) 0).toNat
  else 0

/-- The control word of a queue interface (R355). -/
def Qi.control (x : Qi) : Nat := x.log2 + x.fn * 2 ^ 11 + x.part * 2 ^ 22 + flagAt x.en 31

/-- The dword at an offset of a QICFG entry (R355). -/
def Qi.read (x : Qi) (o : Nat) : Nat :=
  if o < 8 then half (o == 4) x.sub.toNat
  else if o < 16 then half (o == 12) x.comp.toNat
  else if o = 16 then x.control
  else if o = 20 then x.head.toNat
  else if o = 24 then x.tail.toNat
  else x.chead.toNat

/-- STATE as VFCTL gives it (R359). -/
def VfState.code : VfState → Nat
  | .off => 0 | .running => 1 | .paused => 2 | .descheduled => 3 | .draining => 4

/-- VFCTL (R359). -/
def Vf.control (x : Vf) : Nat := x.state.code + x.gen.toNat * 2 ^ 32

/-- The dword at an offset of a partition block (R362). -/
def Part.blockRead (x : Part) (o : Nat) : Nat :=
  if o < 8 then half (o == 4) x.pctl.toNat
  else if o = 0x0008 then x.weight
  else if o = 0x0010 ∨ o = 0x0014 then half (o == 0x14) x.quantum
  else if 0x0100 ≤ o ∧ o < 0x0180 then half (o % 8 == 4) (Map.get x.nearMap ((o - 0x0100) / 8) 0).toNat
  else if 0x0180 ≤ o ∧ o < 0x01A0 then half (o % 8 == 4) (Map.get x.saveMap ((o - 0x0180) / 8) 0).toNat
  else if o = 0x0200 ∨ o = 0x0204 then half (o == 0x204) x.fqBase.toNat
  else if o = 0x0208 then x.fqHead.toNat
  else if o = 0x020C then x.fqTail.toNat
  else if o = 0x0230 ∨ o = 0x0234 then half (o == 0x234) x.erBase.toNat
  else if o = 0x0238 then x.erHead.toNat
  else if o = 0x023C then x.erTail.toNat
  else if 0x1000 ≤ o ∧ o < 0x1400 then (Map.get x.depc ((o - 0x1000) / 4) 0).toNat
  else if 0x2000 ≤ o ∧ o < 0xA000 then
    match x.frames[(o - 0x2000) / 8]? with
    | some f => half (o % 8 == 4) (f.1 + 2 ^ 63)
    | none => 0
  else 0

/-- The remap table and the package world map (R151, R155). -/
def Pkg.secureRead (x : Pkg) (o : Nat) : Nat :=
  if o < 0x200 then ofBytes (((Map.get x.remap (o / 16) (copies 16 0xFF)).drop (o % 16)).take 4)
  else if o = 0x200 then x.secSlices.toNat
  else (List.range 32).foldl (fun n i => n + flagAt (x.secQis.contains (8 * (o - 0x204) + i)) i) 0

/-- A count (R183), at the place at which it is cleared. -/
def State.countAt (s : State) (p i : Nat) : Nat :=
  if i < 4096 then (s.qi p i).ignored
  else if i = 4096 then (s.pkg p).pfDropped
  else if i < 8192 then (s.vf p (i - 4096)).dropped
  else if i < 16384 then
    let x := s.part p ((i - 8192) / 64)
    if (i - 8192) % 64 = 63 then x.erLost else Map.get x.counts ((i - 8192) % 64) 0
  else if i < 0x8000 then Map.get (s.pkg p).counts (i - 16384) 0
  else if i < 0x10000 then Map.get (s.mod ((i - 0x8000) / 64)).counts ((i - 0x8000) % 64) 0
  else Map.get (s.mod ((i - 0x10000) / 256)).counts (cntHotDropped + 256 * ((i - 0x10000) % 256)) 0

/-- The dword at a multiple of 4 of BAR0 of the PF (R353). -/
def State.bar0 (s : State) (p o : Nat) : Nat :=
  let x := s.pkg p
  if o < 0x10000 then x.globalRead o
  else if o < 0x30000 then (s.qi p ((o - 0x10000) / 32)).read (o % 32)
  else if 0x40000 ≤ o ∧ o < 0x44000 then
    let v := s.vf p ((o - 0x40000) / 16 + 1)
    half (o % 8 == 4) (if o % 16 < 8 then v.control else v.pending.toNat)
  else if 0x80000 ≤ o ∧ o < 0x80000 + 8 * 8256 then half (o % 8 == 4) (Map.get x.irt ((o - 0x80000) / 8) 0).toNat
  else if 0x100000 ≤ o ∧ o < 0x300000 then (s.part p ((o - 0x100000) / 0x10000)).blockRead (o % 0x10000)
  else if 0x300000 ≤ o ∧ o < 0x300800 then
    let i := (o - 0x300000) / 2
    (Map.get x.alloc i 0).toNat + (Map.get x.alloc (i + 1) 0).toNat * 2 ^ 16
  else if 0x301000 ≤ o ∧ o < 0x303000 then
    let i := (o - 0x301000) / 4
    (Map.get (s.part p (i / 64)).modMap (i % 64) 0).toNat
  else if 0x310000 ≤ o ∧ o < 0x318000 then half (o % 8 == 4) (x.pasidEntry ((o - 0x310000) / 8)).toNat
  else if 0x400000 ≤ o ∧ o < 0x400404 then x.secureRead (o - 0x400000)
  else if 0x501000 ≤ o ∧ o < 0x501000 + 1192 then ofBytes ((x.gbuf.drop (o - 0x501000)).take 4)
  else if 0x600000 ≤ o ∧ o < 0x800000 then (if o % 8 = 0 then s.countAt p ((o - 0x600000) / 8) else 0)
  else 0

/-- The bytes of registers that are read a dword at a time. -/
def readDwords (f : Nat → Nat) (o n : Nat) : List Byte :=
  (List.range n).map (fun i => (bytesOf 4 (f ((o + i) / 4 * 4))).getD ((o + i) % 4) 0)

/-- The host reads n bytes of a BAR of a function of a package that is up (R352): the registers of the PF, its module management
apertures over the fabric, the VFCTL mirror of a VF, and notify pages, which read 0 (R142). -/
def State.hostReads (s : State) (p bar fn o n : Nat) : State :=
  if !(s.pkg p).up then s
  else if bar = 0 ∧ fn = 0 then
    if 0x800000 ≤ o ∧ o < 0xC00000 then s.aperture p ((o - 0x800000) / 0x10000) (o % 0x10000) (.read n) false
    else { s with hostRead := readDwords (s.bar0 p) o n }
  else if bar = 0 then { s with hostRead := readDwords (fun a => if a < 8 then half (a == 4) (s.vf p fn).control else 0) o n }
  else { s with hostRead := copies n 0 }

end Sys2Proof.Machine
end

