-- ==== Sys2Proof/Machine/Run.lean ====
section
/-! DEFINITION. What each act of the agenda does, what the machine does when the agenda is empty, and how a word is placed
where it is fetched next (log entries 1 and 2). -/
namespace Sys2Proof.Machine

/-- What comes to pass of itself at a package as soon as it can: a round of tokens without an eligible request ends (R229), and a
write of the channel allocation table that waits takes effect (R153); the timer of a generation whose copies have been sent starts, and the
entry of one whose go or abort has been sent is free (R141); an engine command that waited for what happens before its issue starts (R218); and who has come to wait in a consuming
SIGWAIT is noted (R317). -/
def State.between (s : State) : State :=
  let s := s.cores.foldl (fun s e => if e.2.eq_.isEmpty then s else s.kick e.1) s
  let s := s.pkgs.foldl (fun s e => (s.endRound e.1).allocRetry e.1) s
  (s.mods.foldl (fun s e => if e.2.mail.isEmpty then s else (s.mailStart e.1).mailClear e.1) s).noteWaiters

/-- An outcome, with what comes to pass of itself after it. -/
def settled (o : Out) : Out := match o with | .next t => .next t.between | x => x

/-- Performs one act. An event comes unless it is untimely (R191). An issue for a stream that is not the pick of its port, or not yet, changes nothing. -/
def perform (a : Act) (s : State) : Out :=
  match a with
  | .issue t q =>
    let c := (s.team t).core
    match s.due c with
    | some (k, x) => if x.t = t ∧ x.q = q then s.portDone c k x else .next s
    | none => .next s
  | .event i => { s with slotEnd := .none }.happen i
  | .cycle c => s.cycle c
  | .time n => .next { s with now := s.now + n }
  | .retire p die pos => .next (s.retireCore p die pos)
  | .capabilities p n head => .next (s.publishCaps p n head)
  | .attach port on => .next (s.attach port on)
  | .badFlit l q flit => .next (s.badFlit l q flit)
  | .recommission p => .next (s.recommissionPackage p)
  | .read p bar fn o n => .next (s.hostReads p bar fn o n)

/-- One act of the agenda. -/
def runAct (a : Act) (s : State) : Out := settled (perform a s)

/-- A local access of a core that may be served: team, stream, access and row. -/
def State.servable (s : State) (c : Nat) : Option (Nat × Sel × Nat × Nat) :=
  let ofStream (t : Nat) (q : Sel) : Option (Nat × Sel × Nat × Nat) := s.onStream t q (fun _ st =>
    st.acc.findSome? (fun a => (a.rows.find? (fun r => st.mayServe a r && (a.near || s.bankFree t q a r))).map (fun r => (t, q, a.id, r))))
  (s.teams.filter (fun e => e.2.core == c && e.2.place == .resident)).findSome? (fun e =>
    (ofStream e.1 .ctl).or (e.2.grps.findSome? (fun g => ofStream e.1 (.grp g.1))))

/-- What the machine does of itself when no stream of the current core is due: a line of near code that the current stream lacks
comes; else the oldest local access of the core is served; else its matrix queue executes; else a cycle passes (log entry 1). -/
def State.idle (s : State) : Out :=
  let c := s.curT.core
  match s.lineWanted s.curTeam s.curSel with
  | some o => execCodeFetch s.curT.grid c (o / 64) Walk.cached { s.tick c with slotEnd := .none }
  | none =>
    match s.servable c with
    | some (t, q, i, r) => { s.tick c with slotEnd := .none }.happen (.localAccessComplete t q i r)
    | none =>
      if (s.core c).mq.isEmpty then .next (s.tick c)
      else { s.tick c with slotEnd := .none }.happen (.matrixEntryExecute c)

/-- With an empty agenda: what is due on the core of the current stream issues. -/
def runIdle (s : State) : Out :=
  let c := s.curT.core
  match s.due c with
  | some (k, x) => settled (s.portDone c k x)
  | none => settled s.idle

/-- The control word of a packet that runs one instruction: no WAIT, no SET, no DIST, and S2 marked as the literal when
the instruction names one. -/
def wordCw (w : Nat) : Nat := 0x000FFF00 + (if namesLit w then 1 else 0)

/-- A state in which the next step fetches and runs the word: a resident team of one group, in the lane or the control
stream by the word's major, the other stream exited, alone on a core that holds the first line of its code: a 4 KiB near segment
whose first packet holds the word (log entry 2). -/
def State.placeWord (s : State) (w : Nat) : State :=
  let t := s.nextTeam
  let g := s.nextGrid
  let sel : Sel := if laneMajor (fld w 24 7) then .grp 0 else .ctl
  let pkg := s.pkg 0
  let part := s.part 0 0
  let line := bytesOf 4 (wordCw w) ++ bytesOf 4 w ++ copies 56 0
  let near := pkg.near.writeN 0 line
  let c := if s.teams.isEmpty then 0 else s.teams.foldl (fun m e => max m e.2.core) 0 + 1
  let part := { part with nearMap := Map.set part.nearMap 0 (BitVec.ofNat 64 (2 ^ 63 + 8 * 2 ^ 16)) }
  let packet := bytesOf 8 0 ++ bytesOf 4 4 ++ bytesOf 4 4 ++ bytesOf 4 1 ++ bytesOf 4 (1 * 2 ^ 27 + 48 * 2 ^ 21 + 16 * 2 ^ 16 + 1 * 2 ^ 10 + 1 * 2 ^ 4)
    ++ copies 40 0
  let grid := { Grid.blank with num := 1, depth := 1, packet := packet, placed := 1 }
  let team := { Team.blank with
    grid := g
    core := c
    place := .resident
    accDecl := 32
    ctl := if sel = .ctl then Stream.blank 64 1 0 4 else Team.blank.ctl
    grps := [(0, if sel = .ctl then { Stream.blank 32 32 6 4 with lst := copies 32 .exited } else Stream.blank 32 32 6 4)] }
  { s with
    agenda := []
    curTeam := t
    curSel := sel
    slotEnd := .none
    teams := Map.set s.teams t team
    grids := Map.set s.grids g grid
    nextTeam := t + 1
    nextGrid := g + 1
    cores := Map.set s.cores c { s.core c with port := 0, icache := [(g, 0, line)] }
    pkgs := Map.set s.pkgs 0 { pkg with near := near, hist := [], parts := Map.set pkg.parts 0 part } }

end Sys2Proof.Machine
end

