-- ==== Sys2Proof/Machine/Step.lean ====
section
/-! DEFINITION. The step: the next act of the agenda, or what the machine does of itself; and the state in which a given
instruction is fetched next. -/
namespace Sys2Proof.Machine

/-- One step of the domain. -/
def step (s : State) : Host.Outcome State Fault Refusal :=
  match s.agenda with
  | a :: rest => runAct a { s with agenda := rest }
  | [] => runIdle s

/-- The state in which step fetches and runs exactly the instruction of the table word. -/
def State.withFetchWord (s : State) (nbits w : Nat) : State := s.placeWord (w % 2 ^ nbits)

end Sys2Proof.Machine
end

