-- ==== Sys2Proof/WellFormed.lean ====
section
/-! DEFINITION. Well-formed instructions: the operand rules that a word alone must obey in the stream that issues it (R69,
R75 to R83), for a group that holds all six register blocks (R86), and the ranges of the numbers that an event names. -/
namespace Sys2Proof.WellFormed

/-- A source code of the lane or the control context (R77). -/
def src (lane : Bool) (r : Reg) : Bool :=
  if lane then r.toNat ≤ 60 || r.toNat == 62 else r.toNat ≤ 39 || r.toNat == 62

/-- A destination code (R77): a register or `zero`. -/
def dst (lane : Bool) (r : Reg) : Bool :=
  if lane then r.toNat ≤ 47 || r.toNat == 55 else r.toNat ≤ 31 || r.toNat == 38

/-- A destination with NW (R264): D is 0 where NW is set. -/
def dstN (lane n : Bool) (d : Reg) : Bool := if n then d == 0 else dst lane d

/-- A w-pair (R77). -/
def pair (r : Reg) : Bool := r.toNat % 2 == 0 && decide (r.toNat ≤ 46)
/-- A w-pair source: a pair or the literal (R269). -/
def pairSrc (r : Reg) : Bool := r == 62 || pair r
/-- A w-pair destination with NW. -/
def pairN (n : Bool) (d : Reg) : Bool := if n then d == 0 else pair d
/-- A predicate number (R274). -/
def pred (r : Reg) : Bool := decide (r.toNat ≤ 31)
/-- A predicate destination: p0 is never written (R78). -/
def predDst (r : Reg) : Bool := pred r && r != 0
/-- A register of a control-stream operand that names no special source (R336). -/
def engReg (r : Reg) : Bool := decide (r.toNat ≤ 31)

/-- The register D of a load or store (R292). -/
def mem (lane load sx : Bool) (d : Reg) (z : Sz) : Bool :=
  let none_ : Reg := if lane then 55 else 38
  match lane, z with
  | true, .b64 => !sx && (pair d || (!load && (d == 62 || d == none_)))
  | true, .b128 => !sx && ((d.toNat % 4 == 0 && decide (d.toNat ≤ 44)) || (!load && d == none_))
  | false, .b128 => !sx && ((d.toNat % 2 == 0 && decide (d.toNat ≤ 30)) || (!load && d == none_))
  | true, _ => (!sx || (load && z != .b32)) && (if load then dst lane d else src lane d)
  | false, _ => (!sx || (load && z != .b64)) && (if load then dst lane d else src lane d)

/-- The operand fields of an atomic (R297). -/
def atomic (lane : Bool) (o : Aop) (d a b : Reg) : Bool :=
  let none_ : Reg := if lane then 55 else 38
  src lane a && dst lane d && (match o with
  | .load => b == 0 && d != none_
  | .store => d == none_ && src lane b
  | .cas => d != none_ && src lane b
  | _ => src lane b)

/-- A format that CVT may name (R252), and the register it takes. -/
def cvtFmt : Fmt → Bool
  | .te8 => false
  | .te4 => false
  | _ => true
/-- A format of 64 bits. -/
def wide : Fmt → Bool
  | .i64 => true
  | .n64 => true
  | .f64 => true
  | _ => false

/-- The number of a package port or a module (R8), of a partition, of a plane. -/
def port (p : Nat) : Bool := decide (p < 64)
/-- The number of a partition (R362). -/
def part (n : Nat) : Bool := decide (n < 32)
/-- The number of a plane (R18). -/
def planeNo (k : Nat) : Bool := decide (k < 16)
/-- The number of a core of the domain (R9). -/
def coreNo (c : Nat) : Bool := decide (c < 65536)
/-- A group of a team (R25). -/
def strm : Sel → Bool
  | .ctl => true
  | .grp g => decide (g < 16)
/-- A channel direction; partition 32 names the management channel (R389). -/
def link (l : LinkId) : Bool := port l.port && port l.pmod && decide (l.part ≤ 32)
/-- An end of the fabric. -/
def fabricEnd : End → Bool
  | .pkg p => port p
  | .mod m => port m
/-- The place of a soft error; the spec numbers no bits of a codeword. -/
def site : ErrSite → Bool
  | .scratch _ row _ => decide (row < 196608)
  | .acc _ w _ => decide (w < 1048576)
  | .near p unit _ => port p && decide (unit < 16777216)
  | .tile _ k row col _ => decide (k < 16 ∧ row < 32 ∧ col < 256)

end Sys2Proof.WellFormed

namespace Sys2Proof
open WellFormed

/-- Whether an instruction is well formed in the lane or the control stream. -/
def Instr.wf (lane : Bool) : Instr → Bool
  | .nop => true
  | .add n d a b _ => dstN lane n d && src lane a && src lane b
  | .sub n d a b _ => dstN lane n d && src lane a && src lane b
  | .mul n d a b _ => dstN lane n d && src lane a && src lane b
  | .mulh n d a b _ => dstN lane n d && src lane a && src lane b
  | .mulhu n d a b _ => dstN lane n d && src lane a && src lane b
  | .mad n d a b _ => dstN lane n d && src lane a && src lane b
  | .and n d a b _ => dstN lane n d && src lane a && src lane b
  | .or n d a b _ => dstN lane n d && src lane a && src lane b
  | .xor n d a b _ => dstN lane n d && src lane a && src lane b
  | .andn n d a b _ => dstN lane n d && src lane a && src lane b
  | .shl n d a b _ => dstN lane n d && src lane a && src lane b
  | .shr n d a b _ => dstN lane n d && src lane a && src lane b
  | .sar n d a b _ => dstN lane n d && src lane a && src lane b
  | .min n d a b _ => dstN lane n d && src lane a && src lane b
  | .max n d a b _ => dstN lane n d && src lane a && src lane b
  | .minu n d a b _ => dstN lane n d && src lane a && src lane b
  | .maxu n d a b _ => dstN lane n d && src lane a && src lane b
  | .sel n d a b _ => dstN lane n d && src lane a && src lane b
  | .mov n d a _ => dstN lane n d && src lane a
  | .add64 n d a b _ => lane && pairN n d && pairSrc a && pairSrc b
  | .sub64 n d a b _ => lane && pairN n d && pairSrc a && pairSrc b
  | .mul64 n d a b _ => lane && pairN n d && pairSrc a && pairSrc b
  | .shl64 n d a b _ => lane && pairN n d && pairSrc a && pairSrc b
  | .shr64 n d a b _ => lane && pairN n d && pairSrc a && pairSrc b
  | .sar64 n d a b _ => lane && pairN n d && pairSrc a && pairSrc b
  | .addi n d a _ => dstN lane n d && src lane a
  | .andi n d a _ => dstN lane n d && src lane a
  | .ori n d a _ => dstN lane n d && src lane a
  | .xori n d a _ => dstN lane n d && src lane a
  | .shli n d a i => dstN lane n d && src lane a && decide (i.toNat ≤ (if lane then 31 else 63))
  | .shri n d a i => dstN lane n d && src lane a && decide (i.toNat ≤ (if lane then 31 else 63))
  | .sari n d a i => dstN lane n d && src lane a && decide (i.toNat ≤ (if lane then 31 else 63))
  | .movi n d _ => dstN lane n d
  | .popc n d a => dstN lane n d && src lane a
  | .clz n d a => dstN lane n d && src lane a
  | .ctz n d a => dstN lane n d && src lane a
  | .brev n d a => dstN lane n d && src lane a
  | .not n d a => dstN lane n d && src lane a
  | .neg n d a => dstN lane n d && src lane a
  | .abs n d a => dstN lane n d && src lane a
  | .sext8 n d a => dstN lane n d && src lane a
  | .sext16 n d a => dstN lane n d && src lane a
  | .zext8 n d a => dstN lane n d && src lane a
  | .zext16 n d a => dstN lane n d && src lane a
  | .bfx n d a b => dstN lane n d && src lane a && src lane b
  | .bfxn n d a b => dstN lane n d && src lane a && src lane b
  | .bfi n d a b => dstN lane n d && src lane a && src lane b
  | .bmix n d a b => dstN lane n d && src lane a && src lane b
  | .icmp p _ _ a b => p != 0 && src lane a && src lane b
  | .icmp64 p _ _ a b => lane && p != 0 && pairSrc a && pairSrc b
  | .pand d a b => predDst d && pred a && pred b
  | .por d a b => predDst d && pred a && pred b
  | .pxor d a b => predDst d && pred a && pred b
  | .pandn d a b => predDst d && pred a && pred b
  | .pnot d a => predDst d && pred a
  | .pmov d a => predDst d && pred a
  | .ptov n d => lane && dstN true n d
  | .vtop a => lane && src true a
  | .ballot n d a => lane && dstN true n d && pred a
  | .pany d a => lane && predDst d && pred a
  | .pall d a => lane && predDst d && pred a
  | .shflIdx n d a b => lane && dstN true n d && src true a && src true b
  | .shflUp n d a b => lane && dstN true n d && src true a && src true b
  | .shflDn n d a b => lane && dstN true n d && src true a && src true b
  | .shflXor n d a b => lane && dstN true n d && src true a && src true b
  | .bcast n d a => lane && dstN true n d && src true a
  | .lredAdd n d a => lane && dstN true n d && src true a
  | .lredMin n d a => lane && dstN true n d && src true a
  | .lredMax n d a => lane && dstN true n d && src true a
  | .lredFadd n d a => lane && dstN true n d && src true a
  | .lscanAdd n d a => lane && dstN true n d && src true a
  | .fadd n d a b _ => lane && dstN true n d && src true a && src true b
  | .fsub n d a b _ => lane && dstN true n d && src true a && src true b
  | .fmul n d a b _ => lane && dstN true n d && src true a && src true b
  | .ffma n d a b _ => lane && dstN true n d && src true a && src true b
  | .fmin n d a b _ => lane && dstN true n d && src true a && src true b
  | .fmax n d a b _ => lane && dstN true n d && src true a && src true b
  | .fadd64 n d a b _ => lane && pairN n d && pairSrc a && pairSrc b
  | .fmul64 n d a b _ => lane && pairN n d && pairSrc a && pairSrc b
  | .ffma64 n d a b _ => lane && pairN n d && pairSrc a && pairSrc b
  | .hxadd n d a b _ => lane && dstN true n d && src true a && src true b
  | .hxmul n d a b _ => lane && dstN true n d && src true a && src true b
  | .hxfma n d a b _ => lane && dstN true n d && src true a && src true b
  | .bxadd n d a b _ => lane && dstN true n d && src true a && src true b
  | .bxmul n d a b _ => lane && dstN true n d && src true a && src true b
  | .bxfma n d a b _ => lane && dstN true n d && src true a && src true b
  | .fabs n d a => lane && dstN true n d && src true a
  | .fneg n d a => lane && dstN true n d && src true a
  | .frcp n d a => lane && dstN true n d && src true a
  | .frsq n d a => lane && dstN true n d && src true a
  | .fsqrt n d a => lane && dstN true n d && src true a
  | .fexp2 n d a => lane && dstN true n d && src true a
  | .flog2 n d a => lane && dstN true n d && src true a
  | .fsinpi n d a => lane && dstN true n d && src true a
  | .fcospi n d a => lane && dstN true n d && src true a
  | .ffloor n d a => lane && dstN true n d && src true a
  | .fceil n d a => lane && dstN true n d && src true a
  | .ftrunc n d a => lane && dstN true n d && src true a
  | .frint n d a => lane && dstN true n d && src true a
  | .fclass n d a => lane && dstN true n d && src true a
  | .fcmp p _ _ a b => lane && p != 0 && src true a && src true b
  | .fcmp64 p _ _ a b => lane && p != 0 && pairSrc a && pairSrc b
  | .cvt _ d a f g _ => lane && cvtFmt f && cvtFmt g && (if wide f then pair d else dst true d) && (if wide g then pairSrc a else src true a)
  | .txcvPack n d a b _ _ => lane && dstN true n d && src true a && src true b
  | .txcvUnpack n d a b _ _ => lane && dstN true n d && src true a && src true b
  | .txexp n d a _ _ => lane && dstN true n d && src true a
  | .lds x d a z _ => src lane a && mem lane true x d z
  | .sts d a z _ => src lane a && mem lane false false d z
  | .ldn x d a z _ => src lane a && mem lane true x d z
  | .stn d a z _ => src lane a && mem lane false false d z
  | .ats o d a b _ => atomic lane o d a b
  | .atn o d a b _ => atomic lane o d a b
  | .atfp o d a b _ => lane && pairSrc a && atomic true o d 0 b
  | .atfd o d a b _ => lane && pairSrc a && atomic true o d 0 b
  | .atfs o d a b _ => lane && pairSrc a && atomic true o d 0 b
  | .mmaBf16 _ _ _ _ => lane
  | .mmaF16 _ _ _ _ => lane
  | .mmaTe8 _ _ _ v _ => lane && decide (v.toNat ≤ 23)
  | .mmaTe4 _ _ _ v _ => lane && decide (v.toNat ≤ 23)
  | .mmaF32 _ _ _ _ => lane
  | .tld _ a b _ => lane && src true a && src true b
  | .tst _ a b _ => lane && src true a && src true b
  | .phase _ _ => true
  | .tfence s m => !lane && (!s || m == 0)
  | .drain _ => true
  | .accz _ _ => lane
  | .accrd _ _ _ _ => lane
  | .accwr _ _ => lane
  | .accadd _ _ => lane
  | .tzero _ => lane
  | .bra _ _ => true
  | .call _ _ => true
  | .brx a _ => src lane a
  | .ret a _ => src lane a
  | .exit _ => true
  | .join k => lane && decide (k.toNat < 12)
  | .leave k => lane && decide (k.toNat < 12)
  | .waitm k => lane && decide (k.toNat < 12)
  | .maskopRead n d b => lane && dstN true n d && decide (b.toNat < 12)
  | .maskopWrite a b => lane && src true a && decide (b.toNat < 12)
  | .maskopClear b => lane && decide (b.toNat < 12)
  | .ppt => lane
  | .rvinit a k => !lane && src false a && decide (k.toNat < 24)
  | .rvarrive k => decide (k.toNat < 24)
  | .rvwait _ k => decide (k.toNat < 24)
  | .rvstat d _ => !lane && dst false d
  | .qpush a _ => !lane && src false a
  | .sigset _ => true
  | .sigwait _ _ => true
  | .growReq p n => lane && decide (1 ≤ p.toNat ∧ p.toNat ≤ 31 ∧ 1 ≤ n.toNat)
  | .growRel p n => lane && decide (1 ≤ p.toNat ∧ p.toNat ≤ 31 ∧ 1 ≤ n.toNat)
  | .launch a => !lane && src false a
  | .taskdec _ => !lane
  | .yield => true
  | .srr d _ => if lane then pair d else dst false d
  | .srw a _ => src lane a
  | .trap _ => true
  | .brk _ => true
  | .tret _ => true
  | .waitev d a _ => !lane && dst false d && src false a
  | .fetch x y _ _ _ => !lane && engReg x && engReg y
  | .put x y _ _ _ => !lane && engReg x && engReg y
  | .copyl x y _ _ => !lane && engReg x && engReg y
  | .fetchr x y _ _ _ => !lane && engReg x && engReg y
  | .engmGcreate x y => !lane && engReg x && engReg y
  | .engmGready x y => !lane && engReg x && engReg y
  | .engmGdestroy y => !lane && engReg y
  | .engmFill x y _ => !lane && engReg x && engReg y
  | .engmCopyf x y _ => !lane && engReg x && engReg y
  | .wincfg x _ _ => !lane && src false x
  | .abinit x y _ => !lane && src false x && src false y
  | .waita p _ => !lane && decide (1 ≤ p.toNat ∧ p.toNat ≤ 31)
  | .waitt x y t => !lane && src false x && (engReg y || y == 38) && t != 3
  | .specCheckpoint _ g => strm (.grp g)
  | .specRollback _ g => strm (.grp g)
  | .localAccessComplete _ q _ _ => strm q
  | .storePublish _ q _ _ => strm q
  | .viewAdvance _ q _ _ => strm q
  | .farAtomicRequest m _ _ => port m
  | .farAtomicReply p _ => port p
  | .reservationRelease _ => true
  | .matrixEntryExecute c => coreNo c
  | .growGrant c => coreNo c
  | .growUrgent c => coreNo c
  | .notifyTailWrite p f _ _ => port p && decide (f ≤ 1024)
  | .notifyLevelWrite p f _ _ => port p && decide (f ≤ 1024)
  | .completionHeadWrite p f _ _ => port p && decide (f ≤ 1024)
  | .qiPacketFetch p q => port p && decide (q < 4096)
  | .gridDispatch p n => port p && part n
  | .teamPlacement p n => port p && part n
  | .teamRestore p n => port p && part n
  | .teamRetire _ => true
  | .gridRetire _ => true
  | .mailboxReplicate m => port m
  | .spanCopyReceive p => port p
  | .spanAck m => port m
  | .spanRefuse m => port m
  | .spanGo p => port p
  | .mailboxTimeout m _ => port m
  | .spanAbort p => port p
  | .spanRetired _ i => port i
  | .urgentPreempt _ => true
  | .teamSave _ => true
  | .cooperativePreempt _ => true
  | .pptTimeout _ => true
  | .sliceExpiry p n => port p && part n
  | .faultSave _ => true
  | .moduleReadRequest m _ _ => port m
  | .chunkSend l _ => link l
  | .chunkReceive l _ _ => link l
  | .rtsArrival e _ => fabricEnd e
  | .rtsRetry _ => true
  | .tokenIssue e => fabricEnd e
  | .tokenExpiry e _ _ => fabricEnd e
  | .expiryNoticeReceive e _ => fabricEnd e
  | .frozenTimeout e _ => fabricEnd e
  | .deferredReceive e _ => fabricEnd e
  | .purgeComplete e _ => fabricEnd e
  | .contextRevokeMessage m i => port m && port i
  | .contextEnableMessage m i => port m && port i
  | .ackFlitReceive l _ => link l
  | .ackFlitSend l => link l
  | .nakSend l => link l
  | .replayTimeout l => link l
  | .wavelengthFail p m _ _ => port p && port m
  | .laneSubst p m _ plane => port p && port m && planeNo plane
  | .spareLockTimeout p m _ plane => port p && port m && planeNo plane
  | .spareLockFail p m _ plane => port p && port m && planeNo plane
  | .resumeComplete l => link l
  | .retrain l _ => link l
  | .retrainEnd l _ => link l
  | .laserAgeTick _ i plane laser _ => port i && planeNo plane && decide (laser < 68)
  | .bucketRefill m => port m
  | .groupTimeout m _ => port m
  | .fenceComplete _ => true
  | .tfencectlModule p n lm => port p && part n && port lm
  | .tfencectlDomain p n => port p && part n
  | .replayControlReplay p n i _ => port p && part n && decide (i < 256)
  | .replayControlFail p n i => port p && part n && decide (i < 256)
  | .faultRecordWrite p n => port p && part n
  | .faultQueueHeadWrite p n _ => port p && part n
  | .eventRingHeadWrite p n _ => port p && part n
  | .qicfgWrite p q _ => port p && decide (q < 4096)
  | .pasidRevoke p i => port p && decide (i < 4096)
  | .pasidEnable p i _ => port p && decide (i < 4096)
  | .pasidBusyClear p i => port p && decide (i < 4096)
  | .vfRun p v => port p && decide (1 ≤ v ∧ v ≤ 1024)
  | .vfPause p v => port p && decide (1 ≤ v ∧ v ≤ 1024)
  | .vfDeschedule p v => port p && decide (1 ≤ v ∧ v ≤ 1024)
  | .vfDrain p v => port p && decide (1 ≤ v ∧ v ≤ 1024)
  | .flr p v => port p && decide (1 ≤ v ∧ v ≤ 1024)
  | .vfTeardownComplete p v => port p && decide (1 ≤ v ∧ v ≤ 1024)
  | .counterLoad p n c _ => port p && part n && decide (c < 256)
  | .nearMapWrite p n save i _ _ => port p && part n && decide (i < (if save then 4 else 16))
  | .remapWrite p k _ _ => port p && decide (k < 32)
  | .channelAllocWrite p m plane _ => port p && port m && planeNo plane
  | .preemptUrgent p n core slot => port p && part n && coreNo core && decide (slot < 8)
  | .preemptCooperative p n core slot => port p && part n && coreNo core && decide (slot < 8)
  | .chanctlRecommission p n m => port p && part n && port m
  | .recommissionComplete p _ => port p
  | .hostNearAccess p _ _ => port p
  | .hostFarAccess p k _ _ _ => port p && decide (k < 16)
  | .mgmtApertureAccess p m _ _ _ => port p && port m
  | .garnetSnapshot p n => port p && part n
  | .garnetReset p n _ _ => port p && part n
  | .getVersion p => port p
  | .getCapabilities p => port p
  | .negotiateAlgorithms p => port p
  | .getDigests p => port p
  | .getCertificate p => port p
  | .challenge p => port p
  | .getMeasurements p _ => port p
  | .powerArbiterTick p _ => port p
  | .powerGood p => port p
  | .registerWrite p _ _ _ => port p
  | .waitevTimeout _ => true
  | .localPiecePerformed _ => true
  | .moduleEngineCommand m _ _ => port m
  | .moduleEngineCompletion p _ => port p
  | .codeFetch _ c _ _ => coreNo c
  | .softError x => site x

end Sys2Proof
end

