-- ==== Sys2Proof/Safety.lean ====
section
/-! DEFINITION. The terms that claims use: the invariant of the machine, the bytes of the machine as one reader sees them, when
an instruction executes, and what it means that a step changes nothing but what a rule names. -/
namespace Sys2Proof.Machine

/-! ## The invariant -/

/-- A stream has its lanes (R25), and its lists that stand for registers have their lengths (R84, R90 to R92), a checkpoint and a shadow too. -/
def Stream.shaped {w : Nat} (st : Stream w) : Bool :=
  st.n == (if w = 64 then 1 else 32) && st.masks.length == 12 && st.flags.length == 12 && st.latches.length == 4 &&
  (match st.handler with | some h => h.shadow.length == 4 && h.masks.length == 12 | none => true) &&
  (match st.spec with
   | some x => x.stage == .wanted || (x.ckpt.masks.length == 12 && x.ckpt.latches.length == 4)
   | none => true)

/-- A stream in shape, whose results in flight stand in the order of their cycles (R67). -/
def Stream.sound {w : Nat} (st : Stream w) : Bool := st.shaped && decide (st.pend.Pairwise (fun p q => p.at_ ≤ q.at_))

/-- A team whose memories are canonical, whose streams are sound and whose lists have their lengths (R84, R94, R97, R131, R171,
R173, R175). -/
def Team.sound (x : Team) : Bool :=
  x.tiles.wf && x.acc.wf && x.scratch.wf && x.ctl.sound && x.grps.all (fun e => e.2.sound) &&
  x.queues.length == 4 && x.sigs.length == 16 && x.rvs.length == 24 && x.tsh.length == 16 && x.tls.length == 3 &&
  x.wins.length == 8 && x.abs.length == 16 && x.specCounts.length == 4

/-- A module whose memories are canonical. -/
def Module.sound (x : Module) : Bool := x.mem.wf && x.wmMem.wf

/-- The invariant: every byte memory is canonical, every team and stream is in shape. -/
def State.sound (s : State) : Bool :=
  s.host.wf && s.teams.all (fun e => e.2.sound) && s.pkgs.all (fun e => e.2.near.wf) && s.mods.all (fun e => e.2.sound)

/-! ## Bytes -/

/-- A byte of the machine: of host memory, a package's near memory, a module, a team's scratchpad, tiles or accumulators. -/
inductive Place
  | host (a : Nat)
  | near (p a : Nat)
  | far (m a : Nat)
  | scratch (t a : Nat)
  | tile (t a : Nat)
  | acc (t a : Nat)
  deriving DecidableEq, Repr

/-- The byte at a place, the newest of its modification order. -/
def State.byte (s : State) : Place → Byte
  | .host a => s.host.read a
  | .near p a => (s.pkg p).near.read a
  | .far m a => (s.mod m).mem.read a
  | .scratch t a => (s.team t).scratch.read a
  | .tile t a => (s.team t).tiles.read a
  | .acc t a => (s.team t).acc.read a

/-- The place of a byte at a team-local address: scratchpad, or near memory through the partition's map (R108, R118). -/
def State.localPlace (s : State) (k a : Nat) : Place :=
  if a < 0x40000000 then .scratch k a else .near (s.team k).port (s.nearAt k a).1

/-- What a byte is after others are written one after the other: the last that goes to its place, else what it was. -/
def overwritten (ws : List (Place × Byte)) (old : Place → Byte) (z : Place) : Byte :=
  ((ws.reverse.find? (fun e => e.1 == z)).map (fun e => e.2)).getD (old z)

/-- Bytes with the places that they go to. -/
def bytesAt (f : Nat → Place) (b : List Byte) : List (Place × Byte) := b.mapIdx (fun c v => (f c, v))

/-! ## When the instruction of the current slot executes -/

/-- The queues that an instruction pops (R79): those its sources name, when some lane of `act` is active. -/
def State.popped (s : State) (u : Use) (act : Word) : List Nat :=
  if act = 0 then [] else queueSrcs s.inLane (s.onCur fun _ st => st.blocks) u.srcs

/-- The values at the fronts of the queues that an instruction pops. -/
def State.fronts (s : State) (u : Use) (act : Word) : Map Word :=
  (s.popped u act).map (fun k => (k, ((s.curT.front k (s.clkOf s.curTeam)).map (fun e => e.val)).getD 0))

/-- The instruction is valid in the stream, its operands are legal, its latch sources are valid and delivered, all lanes execute
where it is collective, nothing pauses or holds it, no earlier store holds an access
behind its own pop, and every queue it pops has an entry (R34, R73, R79, R80, R190, R200, R207). -/
def State.ready (s : State) (u : Use) (act : Word) : Bool :=
  let blocks := s.onCur fun _ st => st.blocks
  let ls := latchSrcs s.inLane blocks u.srcs
  let qs := queueSrcs s.inLane blocks u.srcs
  (if s.inLane then u.lane else u.ctl) && (u.ok && u.srcs.all (fun r => (srcOf s.inLane blocks r.toNat).isSome)) &&
  ls.all (fun k => s.onCur (fun _ st => st.latchOk k)) && !(u.conv && !s.onCur (fun _ st => st.converged)) &&
  !((u.pauses || !qs.isEmpty) && s.onCur (fun _ st => st.speculating)) &&
  ls.all (fun k => !s.onCur (fun _ st => st.latchBusy k)) && !(u.mem && s.onCur (fun _ st => st.acqBlocked)) &&
  !(u.mem && !(s.popped u act).isEmpty && s.onCur (fun _ st => st.storesBefore)) &&
  (s.popped u act).all (fun k => (s.curT.front k (s.clkOf s.curTeam)).isSome)

/-- A relation between the current stream of a state and the same stream of another state. -/
def State.rel (s t : State) (f : (w : Nat) → Stream w → Stream w → Prop) : Prop :=
  match s.curSel with
  | .ctl => f 64 s.curT.ctl (t.team s.curTeam).ctl
  | .grp g => f 32 (s.curT.grp g) ((t.team s.curTeam).grp g)

/-- The register blocks of the current stream. -/
def State.blocks (s : State) : Nat := s.onCur fun _ st => st.blocks
/-- The lanes that execute the current packet. -/
def State.executing (s : State) : Word := s.onCur fun _ st => st.ex
/-- The lanes of the current packet in which a guard is true. -/
def State.guarded (s : State) (g : BitVec 5) : Word := s.onCur fun _ st => st.active g.toNat

/-! ## What a step leaves alone -/

/-- The packages differ at most in the VFLOP meter of the current team's partition, which `fl` operations raise (R182). -/
def State.onlyFlops (s t : State) (fl : Nat) : Prop :=
  (fl = 0 → t.pkgs = s.pkgs) ∧
  ∀ p, { t.pkg p with parts := (s.pkg p).parts } = s.pkg p ∧
    ∀ n, { t.part p n with meters := (s.part p n).meters } = s.part p n ∧
      ∀ k, Map.get (t.part p n).meters k 0 =
        if fl ≠ 0 ∧ p = s.curT.port ∧ n = s.curT.part ∧ k = 5 then min (Map.get (s.part p n).meters k 0 + fl) (2 ^ 64 - 1)
        else Map.get (s.part p n).meters k 0

/-- Nothing but the current stream, the queues that the step pops with the event of R323, the VFLOP meter and the end of the
slot differs: no memory, no other stream, no register of the team, no other team, nothing else of any package or module. -/
def State.onlyStream (s t : State) (popped : List Nat) (fl : Nat) : Prop :=
  t.slotEnd = .none ∧
  { t with teams := s.teams, slotEnd := s.slotEnd, pkgs := s.pkgs } = s ∧
  s.onlyFlops t fl ∧
  (∀ k, k ≠ s.curTeam → t.team k = s.team k) ∧
  (let x := s.curT
   let y := t.team s.curTeam
   { y with ctl := x.ctl, grps := x.grps, queues := x.queues, evs := x.evs, evCycle := x.evCycle } = x ∧
   (∀ k, y.queues.getD k [] = if popped.contains k then (x.queues.getD k []).drop 1 else x.queues.getD k []) ∧
   (popped = [] → y.evs = x.evs ∧ y.evCycle = x.evCycle) ∧
   (s.curSel ≠ .ctl → y.ctl = x.ctl) ∧
   (∀ g, s.curSel ≠ .grp g → y.grp g = x.grp g))

/-- A stream after a slot that starts results and goes on: the lanes in it stand at the next slot, the flag that SET names has
one holder more, and but for what is under way, and a hold that a pop puts on its later accesses (R190), nothing else differs. -/
def Stream.stepped {w : Nat} (st st' : Stream w) : Prop :=
  { st' with vpc := st.vpc, pend := st.pend, pkt := st.pkt, flags := st.flags, latchNew := st.latchNew, killed := st.killed,
             view := st.view, acqHeld := st.acqHeld } = st ∧
  (st'.acqHeld = st.acqHeld ∨ st'.acqHeld = st.bound.acqHeld) ∧
  st'.flags = (st.raise st.setFlag).flags ∧
  ∀ l, l < st.n → st'.pcOf l = if st.ex.getLsbD l then nextSlot st.pc st.litNext else st.pcOf l

/-- A stream after a slot that does nothing else: the lanes in it stand at the next slot. -/
def Stream.moved {w : Nat} (st st' : Stream w) : Prop :=
  { st' with vpc := st.vpc, pkt := st.pkt } = st ∧
  ∀ l, l < st.n → st'.pcOf l = if st.ex.getLsbD l then nextSlot st.pc st.litNext else st.pcOf l

/-- What a stream shows of its registers and predicates at each cycle (R67): each listed register holds its value from the
cycle `at_` on in the lanes of `act`; what every other register and lane and every predicate shows is unchanged. -/
def Stream.wrote {w : Nat} (st st' : Stream w) (at_ : Nat) (rs : List (Nat × (Nat → BitVec w))) (act : Word) : Prop :=
  (∀ e ∈ rs, ∀ l, l < st.n → act.getLsbD l → (st'.settle at_ false).reg e.1 l = e.2 l) ∧
  (∀ c k l, l < st.n → ((∀ e ∈ rs, e.1 ≠ k) ∨ act.getLsbD l = false) → (st'.settle c false).reg k l = (st.settle c false).reg k l) ∧
  (∀ c k l, l < st.n → (st'.settle c false).pred k l = (st.settle c false).pred k l)

/-- The same for predicates: each listed predicate holds its value from the cycle `at_` on in the lanes of `act`. -/
def Stream.decided {w : Nat} (st st' : Stream w) (at_ : Nat) (ps : List (Nat × (Nat → Bool))) (act : Word) : Prop :=
  (∀ e ∈ ps, ∀ l, l < st.n → act.getLsbD l → (st'.settle at_ false).pred e.1 l = e.2 l) ∧
  (∀ c k l, l < st.n → ((∀ e ∈ ps, e.1 ≠ k) ∨ act.getLsbD l = false) → (st'.settle c false).pred k l = (st.settle c false).pred k l) ∧
  (∀ c k l, l < st.n → (st'.settle c false).reg k l = (st.settle c false).reg k l)

/-- The latch result that an instruction of a pipe leaves for the end of its chain (R65, R80). -/
def Stream.latched {w : Nat} (st st' : Stream w) (p : Pipe) (vals : List (Option (BitVec w))) : Prop :=
  st'.latchNew = st.latchNew ++ (match latchOf p with | some k => [{ pipe := k, vals := vals, lanes := st.ex }] | none => [])

/-- What a destination writes of a W-bit result. -/
def writesOf {w : Nat} (d : Option Dst) (v : Nat → BitVec w) : List (Nat × (Nat → BitVec w)) :=
  match d with
  | some (.reg r) => [(r, v)]
  | _ => []

/-- What a pair destination writes of a 64-bit result: the low half to the lower register (R269). -/
def pairWrites {w : Nat} (d : Option Nat) (v : Nat → DWord) : List (Nat × (Nat → BitVec w)) :=
  match d with
  | some r => [(r, fun l => (v l).setWidth w), (r + 1, fun l => (v l >>> 32).setWidth w)]
  | none => []

/-- An instruction completes with a W-bit result `v` for the lanes `act`: to its destination and its latch, visible after the
latency of its pipe; it pops what its sources name, counts `fl` operations a lane, and changes nothing else. -/
def State.computes (s : State) (i : Instr) (u : Use) (p : Pipe) (d : Option Dst) (act : Word) (fl : Nat)
    (v : Ctx → (w : Nat) → Stream w → Nat → BitVec w) : Prop :=
  ∃ t, exec i s = .next t ∧ s.onlyStream t (s.popped u act) (fl * countLanes act 32) ∧
    s.rel t (fun w st st' =>
      let f := v (s.ctx (s.fronts u act)) w st
      st.stepped st' ∧ st.latched st' p (valsOf st.n act f) ∧ st.wrote st' (s.clkOf s.curTeam + latency p) (writesOf d f) act)

/-- The same for a 64-bit result on a pair of registers (R269). -/
def State.computesPair (s : State) (i : Instr) (u : Use) (p : Pipe) (d : Option Nat) (act : Word)
    (v : Ctx → (w : Nat) → Stream w → Nat → DWord) : Prop :=
  ∃ t, exec i s = .next t ∧ s.onlyStream t (s.popped u act) 0 ∧
    s.rel t (fun w st st' =>
      let f := v (s.ctx (s.fronts u act)) w st
      st.stepped st' ∧ st.latched st' p (valsOf st.n act (fun l => (f l).setWidth w)) ∧
      st.wrote st' (s.clkOf s.curTeam + latency p) (pairWrites d f) act)

/-- The same for a result in predicate `k`. -/
def State.decides (s : State) (i : Instr) (u : Use) (p : Pipe) (k : Nat) (act : Word) (fl : Nat)
    (v : Ctx → (w : Nat) → Stream w → Nat → Bool) : Prop :=
  ∃ t, exec i s = .next t ∧ s.onlyStream t (s.popped u act) (fl * countLanes act 32) ∧
    s.rel t (fun w st st' =>
      st.stepped st' ∧ st'.latchNew = st.latchNew ∧
      st.decided st' (s.clkOf s.curTeam + latency p) [(k, v (s.ctx (s.fronts u act)) w st)] act)

/-- The shapes of instructions: A-format, a shift by an immediate, a unary form, a bit-field form. -/
abbrev Form3 := Bool → Reg → Reg → Reg → BitVec 5 → Instr
/-- D, A and an immediate. -/
abbrev FormI := Bool → Reg → Reg → BitVec 11 → Instr
/-- D and A. -/
abbrev Form1 := Bool → Reg → Reg → Instr
/-- D, A and B. -/
abbrev Form2 := Bool → Reg → Reg → Reg → Instr

/-- An A-format computation completes with `f` of its sources, its old D and its guard in the lanes where the guard is true. -/
def Form3.computes (i : Form3) (u : Use) (p : Pipe) (fl : Nat) (f : (w : Nat) → Args w → BitVec w) : Prop :=
  ∀ (s : State) (n : Bool) (d a b : Reg) (g : BitVec 5) (dst : Option Dst), s.sound → resultDst s.inLane s.blocks n d = some dst →
    s.ready { u with srcs := [a, b] } (s.guarded g) →
    s.computes (i n d a b g) { u with srcs := [a, b] } p dst (s.guarded g) fl
      (fun c w st l => f w { a := st.value c a l, b := st.value c b l,
                             d := if dst = some .zero then 0 else st.reg d.toNat l, g := st.pred g.toNat l })

/-- An A-format computation on pairs completes with `f` of its pairs in the lanes where the guard is true. -/
def Form3.computesPair (i : Form3) (p : Pipe) (f : DWord → DWord → DWord → DWord) : Prop :=
  ∀ (s : State) (n : Bool) (d a b : Reg) (g : BitVec 5), s.sound → s.inLane →
    (if n then d = 0 else pairOk s.blocks d.toNat) → pairSrcOk s.blocks a.toNat → pairSrcOk s.blocks b.toNat →
    s.ready laneUse (s.guarded g) →
    s.computesPair (i n d a b g) laneUse p (if n then none else some d.toNat) (s.guarded g)
      (fun _ _ st l => f (st.pair a l) (st.pair b l) (st.pair d l))

/-- A computation in every executing lane on one source completes with `f` of it. -/
def Form1.computes (i : Form1) (u : Use) (p : Pipe) (f : (w : Nat) → BitVec w → BitVec w) : Prop :=
  ∀ (s : State) (n : Bool) (d a : Reg) (dst : Option Dst), s.sound → resultDst s.inLane s.blocks n d = some dst →
    s.ready { u with srcs := [a] } s.executing →
    s.computes (i n d a) { u with srcs := [a] } p dst s.executing 0 (fun c w st l => f w (st.value c a l))

/-- A computation in every executing lane on two sources and the old D completes with `f` of them. -/
def Form2.computes (i : Form2) (u : Use) (p : Pipe) (f : (w : Nat) → Args w → BitVec w) : Prop :=
  ∀ (s : State) (n : Bool) (d a b : Reg) (dst : Option Dst), s.sound → resultDst s.inLane s.blocks n d = some dst →
    s.ready { u with srcs := [a, b] } s.executing →
    s.computes (i n d a b) { u with srcs := [a, b] } p dst s.executing 0
      (fun c w st l => f w { a := st.value c a l, b := st.value c b l,
                             d := if dst = some .zero then 0 else st.reg d.toNat l, g := true })

/-- An instruction completes with a change `f` of the current stream alone; it pops what its sources name. -/
def State.changes (s : State) (i : Instr) (popped : List Nat) (f : (w : Nat) → Stream w → Stream w → Prop) : Prop :=
  ∃ t, exec i s = .next t ∧ s.onlyStream t popped 0 ∧ s.rel t f

/-- No byte of the machine differs. -/
def State.sameBytes (s t : State) : Prop := ∀ x, t.byte x = s.byte x

/-- Nothing but one team and the end of the slot differs, and of the team no memory. -/
def State.onlyOf (s t : State) (k : Nat) : Prop :=
  { t with teams := s.teams, slotEnd := s.slotEnd } = s ∧ (∀ j, j ≠ k → t.team j = s.team j) ∧ s.sameBytes t

/-- Nothing but the current team and the end of the slot differs, and of the team no memory. -/
def State.onlyTeam (s t : State) : Prop := s.onlyOf t s.curTeam

/-- Nothing but one package differs. -/
def State.onlyPkg (s t : State) (p : Nat) : Prop := { t with pkgs := s.pkgs } = s ∧ ∀ q, q ≠ p → t.pkg q = s.pkg q

/-- Nothing but one partition differs. -/
def State.onlyPart (s t : State) (p n : Nat) : Prop :=
  s.onlyPkg t p ∧ { t.pkg p with parts := (s.pkg p).parts } = s.pkg p ∧ ∀ k, k ≠ n → t.part p k = s.part p k

/-- Nothing but one module differs. -/
def State.onlyMod (s t : State) (m : Nat) : Prop := { t with mods := s.mods } = s ∧ ∀ q, q ≠ m → t.mod q = s.mod q

/-- Nothing but one channel direction differs. -/
def State.onlyLink (s t : State) (l : LinkId) : Prop := { t with links := s.links } = s ∧ ∀ k, k ≠ l → t.link k = s.link k

/-- Whether a pending store writes a byte. -/
def PendStore.covers (y : PendStore) (a : Nat) : Bool := decide (y.addr ≤ a ∧ a < y.addr + y.bytes.length)

/-- What a release boundary over some dies does to the pending near stores of the current stream (R189, R195, R207): they pend no
more; each byte has the value of the last of them that writes it; no other byte of the machine differs. -/
def State.publishes (s t : State) (dies : List Nat) : Prop :=
  s.rel t (fun _ st st' =>
    let out := st.stores.filter (fun y => dies.contains (dieOf y.addr))
    st'.stores = st.stores.filter (fun y => !dies.contains (dieOf y.addr)) ∧
    (∀ z, (∀ a, z = .near s.curT.port a → ∀ y ∈ out, y.covers a = false) → t.byte z = s.byte z) ∧
    ∀ before y after a, out = before ++ y :: after → y.covers a = true → (∀ z ∈ after, z.covers a = false) →
      t.byte (.near s.curT.port a) = y.bytes.getD (a - y.addr) 0)

/-- A message is new at the end of those that wait for a channel direction. -/
def State.sends (s t : State) (l : LinkId) (m : Msg) : Prop := (t.link l).outq = (s.link l).outq ++ [m]

/-- A message is new among those that wait for a channel direction, behind what waited before. -/
def State.sendsAmong (s t : State) (l : LinkId) (m : Msg) : Prop := ∃ a b, (t.link l).outq = (s.link l).outq ++ a ++ m :: b

end Sys2Proof.Machine
end

