-- ==== Sys2Proof/Certificates/Slice0/Obligations.lean ====
section
/-! DEFINITION. The statements for the provers. Each docstring names the rules of spec/ it formalises. -/

open Sys2Proof Sys2Proof.Machine

/-! ## Integer and predicate instructions -/

/-- R268: the guarded three-register integer forms, in lanes on 32 bits and in the control stream on 64. -/
def Obligations.IntegerThreeRegister : Prop :=
  ∀ e ∈ ([(Instr.add, fun _ x => x.a + x.b),
          (Instr.sub, fun _ x => x.a - x.b),
          (Instr.mul, fun _ x => x.a * x.b),
          (Instr.mulh, fun w x => BitVec.ofInt w (x.a.toInt * x.b.toInt / 2 ^ w)),
          (Instr.mulhu, fun w x => BitVec.ofNat w (x.a.toNat * x.b.toNat / 2 ^ w)),
          (Instr.mad, fun _ x => x.d + x.a * x.b),
          (Instr.and, fun _ x => x.a &&& x.b),
          (Instr.or, fun _ x => x.a ||| x.b),
          (Instr.xor, fun _ x => x.a ^^^ x.b),
          (Instr.andn, fun _ x => x.a &&& ~~~x.b),
          (Instr.shl, fun w x => if w ≤ x.b.toNat then 0 else x.a <<< x.b.toNat),
          (Instr.shr, fun w x => if w ≤ x.b.toNat then 0 else x.a >>> x.b.toNat),
          (Instr.sar, fun w x => if w ≤ x.b.toNat then (if x.a.toInt < 0 then BitVec.allOnes w else 0) else x.a.sshiftRight x.b.toNat),
          (Instr.min, fun _ x => if x.a.toInt ≤ x.b.toInt then x.a else x.b),
          (Instr.max, fun _ x => if x.b.toInt ≤ x.a.toInt then x.a else x.b),
          (Instr.minu, fun _ x => if x.a.toNat ≤ x.b.toNat then x.a else x.b),
          (Instr.maxu, fun _ x => if x.b.toNat ≤ x.a.toNat then x.a else x.b)] :
        List (Form3 × ((w : Nat) → Args w → BitVec w))),
    e.1.computes both .I 0 e.2

/-- R268: MOV copies A where its guard is true; SEL takes A where its guard is true and B elsewhere, in every executing lane. -/
def Sys2Proof.Claims.MoveAndSelect : Prop :=
  (∀ (s : State) (n : Bool) (d a : Reg) (g : BitVec 5) (dst : Option Dst), s.sound → resultDst s.inLane s.blocks n d = some dst →
    s.ready { both with srcs := [a] } (s.guarded g) →
    s.computes (.mov n d a g) { both with srcs := [a] } .I dst (s.guarded g) 0 (fun c _ st l => st.value c a l)) ∧
  (∀ (s : State) (n : Bool) (d a b : Reg) (g : BitVec 5) (dst : Option Dst), s.sound → resultDst s.inLane s.blocks n d = some dst →
    s.ready { both with srcs := [a, b] } s.executing →
    s.computes (.sel n d a b g) { both with srcs := [a, b] } .I dst s.executing 0
      (fun c _ st l => if st.pred g.toNat l then st.value c a l else st.value c b l))

/-- R270: the immediate forms; the immediate is sign-extended, and a shift amount is unsigned. -/
def Sys2Proof.Claims.IntegerImmediate : Prop :=
  (∀ e ∈ ([(Instr.addi, fun w x i => x + i.signExtend w),
           (Instr.andi, fun w x i => x &&& i.signExtend w),
           (Instr.ori, fun w x i => x ||| i.signExtend w),
           (Instr.xori, fun w x i => x ^^^ i.signExtend w)] :
         List (FormI × ((w : Nat) → BitVec w → BitVec 11 → BitVec w))),
    ∀ (s : State) (n : Bool) (d a : Reg) (i : BitVec 11) (dst : Option Dst), s.sound → resultDst s.inLane s.blocks n d = some dst →
      s.ready { both with srcs := [a] } s.executing →
      s.computes (e.1 n d a i) { both with srcs := [a] } .I dst s.executing 0 (fun c w st l => e.2 w (st.value c a l) i)) ∧
  (∀ e ∈ ([(Instr.shli, fun _ x i => x <<< i.toNat),
           (Instr.shri, fun _ x i => x >>> i.toNat),
           (Instr.sari, fun _ x i => x.sshiftRight i.toNat)] :
         List (FormI × ((w : Nat) → BitVec w → BitVec 11 → BitVec w))),
    ∀ (s : State) (n : Bool) (d a : Reg) (i : BitVec 11) (dst : Option Dst), s.sound → resultDst s.inLane s.blocks n d = some dst →
      i.toNat ≤ (if s.inLane then 31 else 63) →
      s.ready { both with srcs := [a] } s.executing →
      s.computes (e.1 n d a i) { both with srcs := [a] } .I dst s.executing 0 (fun c w st l => e.2 w (st.value c a l) i)) ∧
  (∀ (s : State) (n : Bool) (d : Reg) (i : BitVec 11) (dst : Option Dst), s.sound → resultDst s.inLane s.blocks n d = some dst →
    s.ready both s.executing → s.computes (.movi n d i) both .I dst s.executing 0 (fun _ w _ _ => i.signExtend w))

/-- R268, R270: MOV, SEL and the immediate forms. -/
def Obligations.MovesAndImmediates : Prop := Claims.MoveAndSelect ∧ Claims.IntegerImmediate

/-- R271: the unary forms. -/
def Sys2Proof.Claims.IntegerUnary : Prop :=
  ∀ e ∈ ([(Instr.popc, fun w x => BitVec.ofNat w ((List.range w).countP (fun k => x.getLsbD k))),
          (Instr.clz, fun w x => BitVec.ofNat w ((List.range w).takeWhile (fun k => !x.getLsbD (w - 1 - k))).length),
          (Instr.ctz, fun w x => BitVec.ofNat w ((List.range w).takeWhile (fun k => !x.getLsbD k)).length),
          (Instr.brev, fun _ x => x.reverse),
          (Instr.not, fun _ x => ~~~x),
          (Instr.neg, fun _ x => -x),
          (Instr.abs, fun _ x => if x.toInt < 0 then -x else x),
          (Instr.sext8, fun w x => (x.setWidth 8).signExtend w),
          (Instr.sext16, fun w x => (x.setWidth 16).signExtend w),
          (Instr.zext8, fun w x => (x.setWidth 8).setWidth w),
          (Instr.zext16, fun w x => (x.setWidth 16).setWidth w)] :
        List (Form1 × ((w : Nat) → BitVec w → BitVec w))),
    e.1.computes both .I e.2

/-- R272: the bit-field forms; the position is bits 5:0 of B and the width bits 13:8, at most W. -/
def Sys2Proof.Claims.BitFields : Prop :=
  ∀ e ∈ ([(Instr.bfx, fun w x => bfSigned w x.a.toNat x.b.toNat),
          (Instr.bfxn, fun w x => BitVec.ofNat w (bfField w x.a.toNat x.b.toNat)),
          (Instr.bfi, fun w x => bfInsert w x.d x.a x.b.toNat),
          (Instr.bmix, fun w x => byteMix w (if w = 32 then x.a.toNat + x.d.toNat * 2 ^ 32 else x.a.toNat) x.b.toNat)] :
        List (Form2 × ((w : Nat) → Args w → BitVec w))),
    e.1.computes both .I e.2

/-- R271, R272: the unary forms and the bit-field forms. -/
def Obligations.UnaryAndBitFields : Prop := Claims.IntegerUnary ∧ Claims.BitFields

/-- R269: the 64-bit forms on pairs of lane registers. -/
def Sys2Proof.Claims.IntegerPairs : Prop :=
  ∀ e ∈ ([(Instr.add64, fun x y _ => x + y),
          (Instr.sub64, fun x y _ => x - y),
          (Instr.mul64, fun x y _ => x * y),
          (Instr.shl64, fun x y _ => if 64 ≤ y.toNat then 0 else x <<< y.toNat),
          (Instr.shr64, fun x y _ => if 64 ≤ y.toNat then 0 else x >>> y.toNat),
          (Instr.sar64, fun x y _ => if 64 ≤ y.toNat then (if x.toInt < 0 then BitVec.allOnes 64 else 0) else x.sshiftRight y.toNat)] :
        List (Form3 × (DWord → DWord → DWord → DWord))),
    e.1.computesPair .I e.2

/-- R273: a comparison combines into its predicate, in every executing lane; a group compares pairs with ICMP64. -/
def Sys2Proof.Claims.IntegerCompare : Prop :=
  (∀ (s : State) (p : BitVec 5) (k : Cnd) (m : Cmb) (a b : Reg), s.sound → p ≠ 0 →
    s.ready { both with srcs := [a, b] } s.executing →
    s.decides (.icmp p k m a b) { both with srcs := [a, b] } .I p.toNat s.executing 0
      (fun c _ st l => combine m (st.pred p.toNat l) (cndHolds k (st.value c a l) (st.value c b l)))) ∧
  (∀ (s : State) (p : BitVec 5) (k : Cnd) (m : Cmb) (a b : Reg), s.sound → s.inLane → p ≠ 0 →
    pairSrcOk s.blocks a.toNat → pairSrcOk s.blocks b.toNat → s.ready laneUse s.executing →
    s.decides (.icmp64 p k m a b) laneUse .I p.toNat s.executing 0
      (fun _ _ st l => combine m (st.pred p.toNat l) (cndHolds k (st.pair a l) (st.pair b l))))

/-- R274: the logic of predicates, lane by lane, and PANY and PALL over the executing lanes. -/
def Obligations.PredicateLogic : Prop :=
  (∀ e ∈ ([(Instr.pand, fun x y => x && y), (Instr.por, fun x y => x || y), (Instr.pxor, fun x y => x != y),
           (Instr.pandn, fun x y => x && !y)] : List ((Reg → Reg → Reg → Instr) × (Bool → Bool → Bool))),
    ∀ (s : State) (d a b : Reg), s.sound → isPredDst d → isPred a → isPred b → s.ready both s.executing →
      s.decides (e.1 d a b) both .I d.toNat s.executing 0 (fun _ _ st l => e.2 (st.pred a.toNat l) (st.pred b.toNat l))) ∧
  (∀ e ∈ ([(Instr.pnot, fun x => !x), (Instr.pmov, fun x => x)] : List ((Reg → Reg → Instr) × (Bool → Bool))),
    ∀ (s : State) (d a : Reg), s.sound → isPredDst d → isPred a → s.ready both s.executing →
      s.decides (e.1 d a) both .I d.toNat s.executing 0 (fun _ _ st l => e.2 (st.pred a.toNat l))) ∧
  (∀ (s : State) (d a : Reg), s.sound → s.inLane → isPredDst d → isPred a → s.ready laneUse s.executing →
    s.decides (.pany d a) laneUse .I d.toNat s.executing 0
      (fun _ _ st _ => decide (∃ l, l < st.n ∧ st.ex.getLsbD l = true ∧ st.pred a.toNat l = true)) ∧
    s.decides (.pall d a) laneUse .I d.toNat s.executing 0
      (fun _ _ st _ => decide (∀ l, l < st.n → st.ex.getLsbD l = true → st.pred a.toNat l = true)))

/-- R274: predicates as bits of a register, a register as predicates, and the mask of the lanes where a predicate is true. -/
def Obligations.PredicateTransfers : Prop :=
  (∀ (s : State) (n : Bool) (d : Reg) (dst : Option Dst), s.sound → s.inLane → resultDst true s.blocks n d = some dst →
    s.ready laneUse s.executing →
    s.computes (.ptov n d) laneUse .I dst s.executing 0 (fun _ w st l => ((st.preds.getD l 1) ||| 1#32).setWidth w)) ∧
  (∀ (s : State) (n : Bool) (d a : Reg) (dst : Option Dst), s.sound → s.inLane → resultDst true s.blocks n d = some dst → isPred a →
    s.ready laneUse s.executing →
    s.computes (.ballot n d a) laneUse .I dst s.executing 0
      (fun _ w st _ => (maskOf st.n (fun j => st.ex.getLsbD j && st.pred a.toNat j)).setWidth w)) ∧
  (∀ (s : State) (a : Reg), s.sound → s.inLane → s.ready { laneUse with srcs := [a] } s.executing →
    ∃ t, exec (.vtop a) s = .next t ∧ s.onlyStream t (s.popped { laneUse with srcs := [a] } s.executing) 0 ∧
      s.rel t (fun _ st st' =>
        st.stepped st' ∧ st'.latchNew = st.latchNew ∧
        st.decided st' (s.clkOf s.curTeam + latency .I)
          ((List.range 31).map (fun k => (k + 1, fun l =>
            (st.value (s.ctx (s.fronts { laneUse with srcs := [a] } s.executing)) a l).getLsbD (k + 1)))) s.executing))

/-- R275, R276, R261: shuffles, the broadcast, reductions over the executing lanes in ascending order, the inclusive sum, and
the fixed tree of LRED.FADD. -/
def Obligations.LaneExchange : Prop :=
  (∀ e ∈ ([(Instr.shflIdx, fun _ x => x), (Instr.shflUp, fun l x => l - x), (Instr.shflDn, fun l x => l + x),
           (Instr.shflXor, fun l x => ((l.toNat ^^^ x.toNat : Nat) : Int))] : List (Form2 × (Int → Int → Int))),
    ∀ (s : State) (n : Bool) (d a b : Reg) (dst : Option Dst), s.sound → s.inLane → resultDst true s.blocks n d = some dst →
      s.ready { laneUse with srcs := [a, b] } s.executing →
      s.computes (e.1 n d a b) { laneUse with srcs := [a, b] } .I dst s.executing 0
        (fun c _ st l =>
          let q := e.2 l (st.value c b l).toNat
          if 0 ≤ q ∧ q ≤ 31 ∧ st.ex.getLsbD q.toNat then st.value c a q.toNat else st.value c a l)) ∧
  (∀ e ∈ ([(Instr.bcast, fun _ _ x => x.headD 0),
           (Instr.lredAdd, fun _ _ x => x.foldl (· + ·) 0),
           (Instr.lredMin, fun _ _ x => x.foldl minS (x.headD 0)),
           (Instr.lredMax, fun _ _ x => x.foldl maxS (x.headD 0)),
           (Instr.lscanAdd, fun k _ x => (x.take k).foldl (· + ·) 0)] :
         List (Form1 × (Nat → (w : Nat) → List (BitVec w) → BitVec w))),
    ∀ (s : State) (n : Bool) (d a : Reg) (dst : Option Dst), s.sound → s.inLane → resultDst true s.blocks n d = some dst →
      s.ready { laneUse with srcs := [a] } s.executing →
      s.computes (e.1 n d a) { laneUse with srcs := [a] } .I dst s.executing 0
        (fun c w st l => e.2 ((lanesOf st.ex st.n).countP (fun j => j ≤ l)) w ((lanesOf st.ex st.n).map (st.value c a)))) ∧
  (∀ (s : State) (n : Bool) (d a : Reg) (dst : Option Dst), s.sound → s.inLane → resultDst true s.blocks n d = some dst →
    s.ready { laneUse with srcs := [a] } s.executing →
    s.computes (.lredFadd n d a) { laneUse with srcs := [a] } .I dst s.executing 0
      (fun c w st _ => BitVec.ofNat w ((treeSum 6 0 32 (valsOf st.n st.ex (fun l => leaf (st.value c a l).toNat))).getD 0)))

/-! ## Floating-point instructions -/

/-- R278, R279, R281: the binary32 forms and the packed forms of two elements, with the operations they count. -/
def Obligations.FloatThreeRegister : Prop :=
  ∀ e ∈ ([(Instr.fadd, 1, fun x y _ => fF32.fadd x y), (Instr.fsub, 1, fun x y _ => fF32.fsub x y),
          (Instr.fmul, 1, fun x y _ => fF32.fmul x y), (Instr.ffma, 2, fun x y z => fF32.ffma x y z),
          (Instr.fmin, 1, fun x y _ => fF32.minNum x y), (Instr.fmax, 1, fun x y _ => fF32.maxNum x y),
          (Instr.hxadd, 2, packed fun x y _ => fF16.fadd x y), (Instr.hxmul, 2, packed fun x y _ => fF16.fmul x y),
          (Instr.hxfma, 4, packed fF16.ffma), (Instr.bxadd, 2, packed fun x y _ => fBf16.fadd x y),
          (Instr.bxmul, 2, packed fun x y _ => fBf16.fmul x y), (Instr.bxfma, 4, packed fBf16.ffma)] :
        List (Form3 × Nat × (Nat → Nat → Nat → Nat))),
    e.1.computes laneUse .F e.2.1 (fun w x => BitVec.ofNat w (e.2.2 x.a.toNat x.b.toNat x.d.toNat))

/-- R280: the binary64 forms on pairs. -/
def Sys2Proof.Claims.FloatPairs : Prop :=
  ∀ e ∈ ([(Instr.fadd64, fun x y _ => BitVec.ofNat 64 (fF64.fadd x.toNat y.toNat)),
          (Instr.fmul64, fun x y _ => BitVec.ofNat 64 (fF64.fmul x.toNat y.toNat)),
          (Instr.ffma64, fun x y z => BitVec.ofNat 64 (fF64.ffma x.toNat y.toNat z.toNat))] :
        List (Form3 × (DWord → DWord → DWord → DWord))),
    e.1.computesPair .F e.2

/-- R269, R280: the 64-bit integer and binary64 forms on pairs of lane registers. -/
def Obligations.PairForms : Prop := Claims.IntegerPairs ∧ Claims.FloatPairs

/-- R282, R283: the unary float forms; all but FABS, FNEG and FCLASS give a value rounded once to nearest even: FRCP, FRSQ, FSQRT and the four
integral forms the exact value of R248; FEXP2, FLOG2, FSINPI and FCOSPI that of the model's fixed point of 320 bits, taken for the value of R248
(log entry 9). -/
def Obligations.FloatUnary : Prop :=
  ∀ e ∈ ([(Instr.fabs, fun x => x % 2 ^ 31), (Instr.fneg, fun x => (x + 2 ^ 31) % 2 ^ 32),
          (Instr.frcp, fun x => fF32.near (frcpV (fF32.val x))), (Instr.frsq, fun x => fF32.near (frsqV (fF32.val x))),
          (Instr.fsqrt, fun x => fF32.near (fsqrtV (fF32.val x))), (Instr.fexp2, fun x => fF32.near (fexp2V (fF32.val x))),
          (Instr.flog2, fun x => fF32.near (flog2V (fF32.val x))), (Instr.fsinpi, fun x => fF32.near (fsinpiV (fF32.val x))),
          (Instr.fcospi, fun x => fF32.near (fcospiV (fF32.val x))),
          (Instr.ffloor, fun x => fF32.near (integralV .rdn (fF32.val x))),
          (Instr.fceil, fun x => fF32.near (integralV .rup (fF32.val x))),
          (Instr.ftrunc, fun x => fF32.near (integralV .rtz (fF32.val x))),
          (Instr.frint, fun x => fF32.near (integralV .rne (fF32.val x))),
          (Instr.fclass, fclassBits)] : List (Form1 × (Nat → Nat))),
    e.1.computes laneUse .T (fun w x => BitVec.ofNat w (e.2 x.toNat))

/-- R284: float comparisons combine into their predicate. -/
def Sys2Proof.Claims.FloatCompare : Prop :=
  (∀ (s : State) (p : BitVec 5) (k : FCnd) (m : Cmb) (a b : Reg), s.sound → p ≠ 0 →
    s.ready { laneUse with srcs := [a, b] } s.executing →
    s.decides (.fcmp p k m a b) { laneUse with srcs := [a, b] } .F p.toNat s.executing 1
      (fun c _ st l => combine m (st.pred p.toNat l)
        (fcndHolds k (fF32.val (st.value c a l).toNat) (fF32.val (st.value c b l).toNat)))) ∧
  (∀ (s : State) (p : BitVec 5) (k : FCnd) (m : Cmb) (a b : Reg), s.sound → s.inLane → p ≠ 0 →
    pairSrcOk s.blocks a.toNat → pairSrcOk s.blocks b.toNat → s.ready laneUse s.executing →
    s.decides (.fcmp64 p k m a b) laneUse .F p.toNat s.executing 0
      (fun _ _ st l => combine m (st.pred p.toNat l)
        (fcndHolds k (fF64.val (st.pair a l).toNat) (fF64.val (st.pair b l).toNat))))

/-- R273, R284: integer and float comparisons combine into their predicate. -/
def Obligations.Comparisons : Prop := Claims.IntegerCompare ∧ Claims.FloatCompare

/-- R285 to R289: CVT with a 32-bit or a 64-bit destination, the block conversions of a lane, and the collective TXEXP, whose
result is one scale pair for all lanes. -/
def Obligations.Conversions : Prop :=
  (∀ (s : State) (x : Bool) (d a : Reg) (f g : Fmt) (r : Rnd) (dst : Dst), s.sound → s.inLane → cvtFmt f → cvtFmt g →
    (fmtWide g → pairSrcOk s.blocks a.toNat) → s.ready { laneUse with srcs := if fmtWide g then [] else [a] } s.executing →
    let bits_ (c : Ctx) {w : Nat} (st : Stream w) (l : Nat) : Nat :=
      cvtBits f g r x (if fmtWide g then (st.pair a l).toNat else (st.value c a l).toNat)
    (fmtWide f = false → dstOf true s.blocks d.toNat = some dst →
      s.computes (.cvt x d a f g r) { laneUse with srcs := if fmtWide g then [] else [a] } .T (some dst) s.executing 0
        (fun c w st l => (BitVec.ofNat 64 (bits_ c st l)).setWidth w)) ∧
    (fmtWide f = true → pairOk s.blocks d.toNat →
      s.computesPair (.cvt x d a f g r) { laneUse with srcs := if fmtWide g then [] else [a] } .T (some d.toNat) s.executing
        (fun c _ st l => BitVec.ofNat 64 (bits_ c st l)))) ∧
  (∀ (r : Rnd) (e : Bool),
    Form2.computes (fun n d a b => .txcvPack n d a b r e) laneUse .T
      (fun w x => BitVec.ofNat w (tePack e r (x.b.toNat % 65536) (fF32.val x.a.toNat))) ∧
    Form2.computes (fun n d a b => .txcvUnpack n d a b r e) laneUse .T
      (fun w x => BitVec.ofNat w (fF32.near (teVal e (x.b.toNat % 65536) (x.a.toNat % (if e then 16 else 256)))))) ∧
  (∀ (s : State) (n : Bool) (d a : Reg) (r : Rnd) (e : Bool) (dst : Option Dst), s.sound → s.inLane →
    resultDst true s.blocks n d = some dst → s.executing = BitVec.allOnes 32 → s.ready { laneUse with srcs := [a] } s.executing →
    s.computes (.txexp n d a r e) { laneUse with srcs := [a] } .T dst s.executing 0
      (fun c w st _ => BitVec.ofNat w (tePair e r ((List.range 32).map (fun l => fF32.val (st.value c a l).toNat)))))

/-! ## Control flow -/

/-- R267, R321: NOP and YIELD only advance the lanes. -/
def Obligations.NopAndYield : Prop :=
  ∀ s : State, (s.ready both 0 → s.changes .nop [] (fun _ st st' => st.moved st')) ∧
    (s.ready { both with pauses := true } 0 → s.changes .yield [] (fun _ st st' => st.moved st'))

/-- R66, R71, R307: the lanes of a branch whose guard is true go to its target, where it may be entered; the others go on. -/
def Sys2Proof.Claims.RelativeBranch : Prop :=
  ∀ (s : State) (g : BitVec 5) (o : BitVec 18), s.ready both 0 →
    let target := relTarget (s.onCur fun _ st => st.pc) o
    (s.guarded g ≠ 0 → s.codeHere s.curTeam target ∧ s.targetOk s.curTeam target) →
    s.changes (.bra g o) [] (fun _ st st' =>
      { st' with vpc := st.vpc, pkt := st.pkt } = st ∧
      ∀ l, l < st.n → st'.pcOf l =
        if st.ex.getLsbD l && st.pred g.toNat l then target
        else if st.ex.getLsbD l then nextSlot st.pc st.litNext else st.pcOf l)

/-- R307: CALL branches as BRA does and writes the offset of the next slot to v47 or s31 of each lane that branches. -/
def Sys2Proof.Claims.Call : Prop :=
  ∀ (s : State) (g : BitVec 5) (o : BitVec 18), s.sound → s.ready both 0 → (s.inLane → 6 ≤ s.blocks) →
    let target := relTarget (s.onCur fun _ st => st.pc) o
    (s.guarded g ≠ 0 → s.codeHere s.curTeam target ∧ s.targetOk s.curTeam target) →
    s.changes (.call g o) [] (fun w st st' =>
      { st' with vpc := st.vpc, pkt := st.pkt, pend := st.pend, flags := st.flags, killed := st.killed } = st ∧
      st.wrote st' (s.clkOf s.curTeam + 1) [(if s.inLane then 47 else 31, fun _ => BitVec.ofNat w (nextSlot st.pc false))]
        (s.guarded g) ∧
      ∀ l, l < st.n → st'.pcOf l =
        if st.ex.getLsbD l && st.pred g.toNat l then target
        else if st.ex.getLsbD l then nextSlot st.pc st.litNext else st.pcOf l)

/-- R308: BRX and RET send each lane whose guard is true to its own value of A, where every such value may be entered. -/
def Sys2Proof.Claims.RegisterBranch : Prop :=
  ∀ i ∈ [Instr.brx, Instr.ret], ∀ (s : State) (a : Reg) (g : BitVec 5),
    let u : Use := { both with srcs := [a] }
    let c := s.ctx (s.fronts u (s.guarded g))
    s.ready u (s.guarded g) →
    s.onCur (fun _ st => ∀ l, l < st.n → st.ex.getLsbD l = true → st.pred g.toNat l = true →
      s.codeHere s.curTeam (st.value c a l).toNat = true ∧ s.targetOk s.curTeam (st.value c a l).toNat = true) →
    s.changes (i a g) (s.popped u (s.guarded g)) (fun _ st st' =>
      { st' with vpc := st.vpc, pkt := st.pkt, view := st.view, acqHeld := st.acqHeld } = st ∧
      st'.acqHeld = (if s.popped u (s.guarded g) = [] then st else st.bound).acqHeld ∧
      ∀ l, l < st.n → st'.pcOf l =
        if st.ex.getLsbD l && st.pred g.toNat l then (st.value c a l).toNat
        else if st.ex.getLsbD l then nextSlot st.pc st.litNext else st.pcOf l)

/-- R66, R71, R307, R308: BRA, CALL, BRX and RET. -/
def Obligations.Branches : Prop := Claims.RelativeBranch ∧ Claims.Call ∧ Claims.RegisterBranch

/-- R309: the lanes of EXIT whose guard is true have exited and leave every mask; registers and predicates stay. -/
def Obligations.ExitLanes : Prop :=
  ∀ (s : State) (g : BitVec 5), s.sound → s.ready { both with pauses := true } 0 →
    s.changes (.exit g) [] (fun _ st st' =>
      st'.regs = st.regs ∧ st'.preds = st.preds ∧ st'.flags = st.flags ∧ st'.pend = st.pend ∧ st'.acc = st.acc ∧
      (∀ k, k < 12 → st'.mask k = st.mask k &&& ~~~(st.active g.toNat)) ∧
      ∀ l, l < st.n → (st.active g.toNat).getLsbD l = true →
        st'.laneState l = .exited ∧ st'.pcOf l = 0xFFFFFFFF)

/-- R90, R310: JOIN puts the executing lanes into a mask, MASKOP.clear empties it, MASKOP.write gives it the value of the
lowest executing lane without the lanes that have exited, LEAVE takes the executing lanes out; no other mask changes. -/
def Sys2Proof.Claims.Masks : Prop :=
  ∀ s : State, s.sound →
    (∀ k : BitVec 4, k.toNat < 12 → s.ready laneUse 0 →
      s.changes (.join k) [] (fun _ st st' =>
        st.moved { st' with masks := st.masks } ∧
        ∀ j, st'.mask j = if j = k.toNat then st.mask j ||| st.ex else st.mask j) ∧
      s.changes (.leave k) [] (fun _ st st' =>
        { st' with masks := st.masks, lst := st.lst, vpc := st.vpc, pkt := st.pkt } = st ∧
        ∀ j, st'.mask j = if j = k.toNat then st.mask j &&& ~~~st.ex else st.mask j)) ∧
    (∀ b : Reg, b.toNat < 12 → s.ready laneUse 0 →
      s.changes (.maskopClear b) [] (fun _ st st' =>
        { st' with masks := st.masks, lst := st.lst, vpc := st.vpc, pkt := st.pkt } = st ∧
        ∀ j, st'.mask j = if j = b.toNat then 0 else st.mask j)) ∧
    (∀ a b : Reg, b.toNat < 12 → s.ready { laneUse with srcs := [a] } s.executing →
      s.changes (.maskopWrite a b) (s.popped { laneUse with srcs := [a] } s.executing) (fun _ st st' =>
        { st' with masks := st.masks, lst := st.lst, vpc := st.vpc, pkt := st.pkt, view := st.view, acqHeld := st.acqHeld } = st ∧
        st'.acqHeld = (if s.popped { laneUse with srcs := [a] } s.executing = [] then st else st.bound).acqHeld ∧
        ∀ j, st'.mask j = if j = b.toNat then
          (st.value (s.ctx (s.fronts { laneUse with srcs := [a] } s.executing)) a ((lanesOf st.ex st.n).headD 0)).setWidth 32 &&& st.live
          else st.mask j)) ∧
    (∀ (n : Bool) (d b : Reg) (dst : Option Dst), b.toNat < 12 → s.inLane → resultDst true s.blocks n d = some dst →
      s.ready laneUse 0 →
      s.computes (.maskopRead n d b) laneUse .S dst s.executing 0 (fun _ w st _ => (st.mask b.toNat).setWidth w))

/-- R31, R90, R310: a mask that LEAVE or MASKOP changes, to `m`: a lane that waits on it and no longer belongs to it is ready at the
instruction after its WAITM; where every member that is left and has not exited waits at one WAITM, the park completes, and they are
ready there too; else they wait on. No other lane changes but that the executing ones stand at the next slot. -/
def Sys2Proof.Claims.settled {w : Nat} (st st' : Stream w) (k : Nat) (m : Word) : Prop :=
  ∀ l, l < st.n →
    let ends : Prop := m.getLsbD l = false ∨ ∀ j, j < st.n → m.getLsbD j = true → st.laneState j ≠ .exited →
      st.parkedOn k j = true ∧ st.pcOf j = st.pcOf l
    (st.ex.getLsbD l = false → st.parkedOn k l = true → ends → st'.laneState l = .ready ∧ st'.pcOf l = st.goesOn.getD l 0) ∧
    (st.ex.getLsbD l = false → st.parkedOn k l = true → ¬ ends → st'.laneState l = .maskWait ∧ st'.pcOf l = st.pcOf l) ∧
    (st.parkedOn k l = false → st'.laneState l = st.laneState l ∧
      st'.pcOf l = if st.ex.getLsbD l then nextSlot st.pc st.litNext else st.pcOf l)

/-- R31, R90, R309, R310: what LEAVE, MASKOP.clear, MASKOP.write and EXIT do to the lanes that wait on the masks that they change; the
lanes that exit leave every mask. -/
def Sys2Proof.Claims.ParksComplete : Prop :=
  ∀ s : State, s.sound →
    (∀ k : BitVec 4, k.toNat < 12 → s.ready laneUse 0 →
      s.changes (.leave k) [] (fun _ st st' => Claims.settled st st' k.toNat (st.mask k.toNat &&& ~~~st.ex))) ∧
    (∀ b : Reg, b.toNat < 12 → s.ready laneUse 0 →
      s.changes (.maskopClear b) [] (fun _ st st' => Claims.settled st st' b.toNat 0)) ∧
    (∀ a b : Reg, b.toNat < 12 → s.ready { laneUse with srcs := [a] } s.executing →
      s.changes (.maskopWrite a b) (s.popped { laneUse with srcs := [a] } s.executing) (fun _ st st' => Claims.settled st st' b.toNat
        ((st.value (s.ctx (s.fronts { laneUse with srcs := [a] } s.executing)) a ((lanesOf st.ex st.n).headD 0)).setWidth 32 &&& st.live))) ∧
    (∀ g : BitVec 5, s.ready { both with pauses := true } 0 →
      s.changes (.exit g) [] (fun _ st st' =>
        let gone := st.active g.toNat
        ∀ k l, k < 12 → l < st.n → st.ex.getLsbD l = false → st.parkedOn k l = true →
          let ends : Prop := st.mask k &&& gone ≠ 0 ∧ ((st.mask k).getLsbD l = false ∨ ∀ j, j < st.n → (st.mask k).getLsbD j = true →
            gone.getLsbD j = false → st.laneState j ≠ .exited → st.parkedOn k j = true ∧ st.pcOf j = st.pcOf l)
          (ends → st'.laneState l = .ready ∧ st'.pcOf l = st.goesOn.getD l 0) ∧
          (¬ ends → st'.laneState l = .maskWait ∧ st'.pcOf l = st.pcOf l)))

/-- R31, R32, R311: WAITM of lanes outside the mask goes on; with every member that has not exited in it, it completes and no
lane waits; with the others waiting at it, it completes for all; otherwise, while some lane of the group can still arrive, its
members wait at it and the other lanes go on, and where none can, it traps MASK_DEADLOCK. -/
def Sys2Proof.Claims.WaitAtMask : Prop :=
  ∀ (s : State) (k : BitVec 4), s.sound → k.toNat < 12 → s.ready laneUse 0 → s.handling = false →
    (s.onCur (fun _ st => st.ex &&& st.mask k.toNat = 0 ∨
        ∀ l, l < st.n → (st.mask k.toNat).getLsbD l = true → st.laneState l ≠ .exited → st.ex.getLsbD l = true) →
      s.changes (.waitm k) [] (fun _ st st' => st.moved st')) ∧
    (s.onCur (fun _ st => st.ex &&& st.mask k.toNat ≠ 0 ∧
        (∃ l, l < st.n ∧ (st.mask k.toNat).getLsbD l = true ∧ st.laneState l ≠ .exited ∧ st.ex.getLsbD l = false ∧
          st.laneState l ≠ .maskWait) ∧
        (∃ l, l < st.n ∧ st.laneState l ≠ .exited ∧ st.laneState l ≠ .maskWait ∧
          (st.ex &&& st.mask k.toNat).getLsbD l = false)) →
      s.changes (.waitm k) [] (fun _ st st' =>
        { st' with vpc := st.vpc, pkt := st.pkt, lst := st.lst, waits := st.waits, goesOn := st.goesOn } = st ∧
        ∀ l, l < st.n →
          ((st.ex &&& st.mask k.toNat).getLsbD l = true → st'.parkedOn k.toNat l = true ∧ st'.pcOf l = st.pc ∧
            st'.goesOn.getD l 0 = nextSlot st.pc false) ∧
          ((st.ex &&& st.mask k.toNat).getLsbD l = false → st'.laneState l = st.laneState l ∧
            st'.pcOf l = if st.ex.getLsbD l then nextSlot st.pc st.litNext else st.pcOf l))) ∧
    (s.onCur (fun _ st => st.ex &&& st.mask k.toNat ≠ 0 ∧
        (∃ l, l < st.n ∧ (st.mask k.toNat).getLsbD l = true ∧ st.laneState l ≠ .exited ∧ st.ex.getLsbD l = false) ∧
        ∀ l, l < st.n → (st.mask k.toNat).getLsbD l = true → st.laneState l ≠ .exited →
          st.ex.getLsbD l = true ∨ (st.parkedOn k.toNat l = true ∧ st.pcOf l = st.pc)) →
      s.changes (.waitm k) [] (fun _ st st' =>
        { st' with vpc := st.vpc, pkt := none, lst := st.lst } = { st with pkt := none } ∧
        ∀ l, l < st.n →
          (st.ex.getLsbD l = true → st'.laneState l = st.laneState l ∧ st'.pcOf l = nextSlot st.pc false) ∧
          (st.ex.getLsbD l = false → (st.mask k.toNat).getLsbD l = true → st.laneState l ≠ .exited →
            st'.laneState l = .ready ∧ st'.pcOf l = st.goesOn.getD l 0) ∧
          (st.ex.getLsbD l = false → (st.mask k.toNat).getLsbD l = false ∨ st.laneState l = .exited →
            st'.laneState l = st.laneState l ∧ st'.pcOf l = st.pcOf l))) ∧
    (s.onCur (fun _ st => st.ex &&& st.mask k.toNat ≠ 0 ∧
        (∃ l, l < st.n ∧ (st.mask k.toNat).getLsbD l = true ∧ st.laneState l ≠ .exited ∧ st.ex.getLsbD l = false ∧
          (st.parkedOn k.toNat l = false ∨ st.pcOf l ≠ st.pc)) ∧
        ∀ l, l < st.n → st.laneState l = .exited ∨ st.laneState l = .maskWait ∨ (st.ex &&& st.mask k.toNat).getLsbD l = true) →
      exec (.waitm k) s = .next (s.trap .maskDeadlock))

/-- R31, R32, R90, R309 to R311: JOIN, LEAVE, MASKOP and WAITM, and the parks that LEAVE, MASKOP and EXIT complete. -/
def Obligations.ReconvergenceMasks : Prop := Claims.Masks ∧ Claims.ParksComplete ∧ Claims.WaitAtMask

/-- R92, R312: PPT goes on without a cooperative preemption; with one, a group that executes with all its lanes halts at the next
slot and keeps what the literal says is live; a rest of its packet is entered there as that packet's rest. -/
def Obligations.PreemptionPoint : Prop :=
  ∀ s : State, s.ready { laneUse with pauses := true } 0 → s.handling = false →
    let v := s.onCur fun _ st => st.lit.toNat
    bits v 15 0 < 2 ^ (s.gridOf s.curTeam).tilesDecl → bits v 25 16 + bits v 31 26 ≤ s.curT.accDecl / 32 →
    ((s.curT.preempt.any (fun p => p.coop) = false ∨ s.wholeGroup = false) → s.changes .ppt [] (fun _ st st' => st.moved st')) ∧
    (s.curT.preempt.any (fun p => p.coop) = true → s.wholeGroup = true →
      s.changes .ppt [] (fun _ st st' =>
        st.moved { st' with halted := st.halted, light := st.light, pptLive := st.pptLive, mid := st.mid } ∧
        (let next := nextSlot st.pc st.litNext
         st'.mid = (if st.pkt.isSome ∧ next / 16 = st.pc / 16 then some next else none)) ∧
        st'.halted = true ∧ st'.light = true ∧ st'.pptLive = some st.lit ∧ st'.pkt = none))

/-! ## Rendezvous, queues, flags -/

/-- R97, R313: RVINIT of at most 17 gives a point without a waiter or a speculating group its E and A = 0, and the other points and
everything else stay; more than 17 traps ILLEGAL_OPERAND, a busy point RV_BUSY. -/
def Sys2Proof.Claims.RendezvousInit : Prop :=
  ∀ (s : State) (a : Reg) (k : BitVec 5), s.sound → k.toNat < 24 → s.ready { ctlUse with srcs := [a] } 0 →
    let busy : Prop := (s.curT.rv k.toNat).waiters ≠ [] ∨ s.curT.speculatesOn k.toNat = true
    (s.ctlValue a ≤ 17 → ¬ busy →
      ∃ t, exec (.rvinit a k) s = .next t ∧ s.onlyTeam t ∧
        (∀ j, j < 24 → (t.curT.rv j) = if j = k.toNat then { Rv.blank with expect := s.ctlValue a } else s.curT.rv j) ∧
        { t.curT with rvs := s.curT.rvs, ctl := s.curT.ctl } = s.curT ∧
        s.rel t (fun _ st st' => st.moved st')) ∧
    (17 < s.ctlValue a → exec (.rvinit a k) s = .next (s.trap .illegalOperand)) ∧
    (s.ctlValue a ≤ 17 → busy → exec (.rvinit a k) s = .next (s.trap .rvBusy))

/-- R97, R195, R314: a stream arrives once at a point. An arrival before the last raises A by one; a stream that has arrived does
not count again; either way RVARRIVE goes on and RVWAIT puts the executing lanes into rv-wait at the point. The pending near stores
of a stream that arrives are published. -/
def Sys2Proof.Claims.RendezvousArrive : Prop :=
  ∀ (s : State) (k : BitVec 5), s.sound → k.toNat < 24 → s.ready { both with pauses := true } 0 → s.handling = false →
    let r := s.curT.rv k.toNat
    let again := r.who.contains s.curSel
    again = true ∨ (r.arrived + 1 < r.expect ∧ s.releasable .team = true) →
    let arrived (t : State) : Prop :=
      (again = false → s.publishes t allDies) ∧
      (again = true ∨ s.onCur (fun _ st => st.stores = []) → s.onlyTeam t) ∧
      (t.curT.rv k.toNat).expect = r.expect ∧ (t.curT.rv k.toNat).rolled = r.rolled ∧
      (t.curT.rv k.toNat).arrived = (if again then r.arrived else r.arrived + 1) ∧
      (t.curT.rv k.toNat).who = (if again then r.who else r.who ++ [s.curSel]) ∧
      ∀ j, j < 24 → j ≠ k.toNat → t.curT.rv j = s.curT.rv j
    (∃ t, exec (.rvarrive k) s = .next t ∧ arrived t ∧ (t.curT.rv k.toNat).waiters = r.waiters ∧
      s.rel t (fun _ st st' => st.moved { st' with view := st.view, stores := st.stores })) ∧
    (∃ t, exec (.rvwait false k) s = .next t ∧ arrived t ∧
      (∀ q, q ∈ (t.curT.rv k.toNat).waiters ↔ q ∈ r.waiters ∨ q = s.curSel) ∧
      s.rel t (fun _ st st' => ∀ l, l < st.n → st.ex.getLsbD l = true → st'.laneState l = .rvWait ∧
        st'.waits.getD l 0 = k.toNat ∧ st'.pcOf l = st.pc ∧ st'.goesOn.getD l 0 = nextSlot st.pc false))

/-- R97, R193, R314: an arrival that is the last completes its point: A is 0, E stands, nobody waits there; the stream goes on, as
do the waiters, after the chain of their RVWAIT. -/
def Sys2Proof.Claims.RendezvousComplete : Prop :=
  ∀ (s : State) (k : BitVec 5), s.sound → k.toNat < 24 → s.ready { both with pauses := true } 0 → s.handling = false →
    let r := s.curT.rv k.toNat
    r.who.contains s.curSel = false → r.arrived + 1 = r.expect → s.releasable .team = true →
    ∀ i ∈ [Instr.rvarrive k, Instr.rvwait false k, Instr.rvwait true k],
      ∃ t, exec i s = .next t ∧
        t.curT.rv k.toNat = { Rv.blank with expect := r.expect } ∧ (∀ j, j < 24 → j ≠ k.toNat → t.curT.rv j = s.curT.rv j) ∧
        s.rel t (fun _ st st' => ∀ l, l < st.n → st.ex.getLsbD l = true → st.laneState l = .ready →
          st'.laneState l = .ready ∧ st'.pcOf l = nextSlot st.pc st.litNext) ∧
        ∀ q ∈ r.waiters, q ≠ s.curSel → ∀ l, s.onStream s.curTeam q (fun _ st => l < st.n ∧ st.laneState l = .rvWait ∧ st.waits.getD l 0 = k.toNat) →
          t.onStream s.curTeam q (fun _ st => st.laneState l = .ready ∧
            st.pcOf l = s.onStream s.curTeam q (fun _ st => st.goesOn.getD l 0))

/-- R97, R195, R314: an arrival at a point that has all its arrivals traps RV_OVERFLOW, any arrival in a handler
ILLEGAL_CONVERGENCE; one whose release must wait is held. -/
def Sys2Proof.Claims.RendezvousStops : Prop :=
  ∀ (s : State) (k : BitVec 5), k.toNat < 24 → s.ready { both with pauses := true } 0 →
    let r := s.curT.rv k.toNat
    ∀ i ∈ [Instr.rvarrive k, Instr.rvwait false k, Instr.rvwait true k],
      (s.handling = true → exec i s = .next (s.trap .illegalConvergence)) ∧
      (s.handling = false → r.who.contains s.curSel = false → r.arrived = r.expect → exec i s = .next (s.trap .rvOverflow)) ∧
      (s.handling = false → r.who.contains s.curSel = false → r.arrived ≠ r.expect → s.releasable .team = false →
        exec i s = .next (s.holdSlot []))

/-- R59, R180, R199, R314: RVWAIT.spec of a control thread is RVWAIT; a group that RVWAIT would leave waiting asks for its checkpoint
where it may speculate and has not rolled back from this rendezvous, and else waits and NOSPEC rises. -/
def Sys2Proof.Claims.RendezvousSpeculate : Prop :=
  ∀ (s : State) (k : BitVec 5), k.toNat < 24 → s.ready { both with pauses := true } 0 →
    let r := s.curT.rv k.toNat
    (s.curSel = .ctl → exec (.rvwait true k) s = exec (.rvwait false k) s) ∧
    ∀ g t, s.curSel = .grp g → s.handling = false →
      r.who.contains s.curSel = true ∨ (r.arrived + 1 < r.expect ∧ s.releasable .team = true) →
      exec (.rvwait false k) s = .next t →
      let x := t.team s.curTeam
      exec (.rvwait true k) s = .next (t.setTeam s.curTeam
        (if t.maySpeculate s.curTeam g k.toNat = true ∧ (x.grp g).spec = none ∧ (x.rv k.toNat).rolled.contains (.grp g) = false then
          let st := x.grp g
          x.setGrp g { st with spec := some (wantedSpec k.toNat) }
         else { x with specCounts := setAt x.specCounts 3 (min (x.specCounts.getD 3 0 + 1) 0xFFFF) }))

/-- R180, R315: RVSTAT reads the four counts into a control register and, in its clearing form, clears them. -/
def Sys2Proof.Claims.SpeculationCounts : Prop :=
  ∀ (s : State) (d : Reg) (dst : Dst) (x : Bool), s.sound → dstOf false 0 d.toNat = some dst → s.ready ctlUse 0 →
    ∃ t, exec (.rvstat d x) s = .next t ∧ s.onlyTeam t ∧
      t.curT.specCounts = (if x then copies 4 0 else s.curT.specCounts) ∧
      s.rel t (fun w st st' => st.stepped st' ∧
        st.wrote st' (s.clkOf s.curTeam + 1) (writesOf (some dst) (fun _ => BitVec.ofNat w
          (s.curT.specCounts.getD 3 0 * 2 ^ 48 + s.curT.specCounts.getD 2 0 * 2 ^ 32 + s.curT.specCounts.getD 1 0 * 2 ^ 16 +
            s.curT.specCounts.getD 0 0))) st.ex)

/-- R97, R180, R199, R313 to R315: RVINIT, RVARRIVE, RVWAIT and RVSTAT. -/
def Obligations.RendezvousPoints : Prop :=
  Claims.RendezvousInit ∧ Claims.RendezvousArrive ∧ Claims.RendezvousComplete ∧ Claims.RendezvousStops ∧ Claims.RendezvousSpeculate ∧
  Claims.SpeculationCounts

/-- R131, R132, R195, R316: QPUSH puts the low 32 bits of A at the end of a queue that is not full, visible from the next cycle;
the other queues stay, and the pending near stores of the thread are published. At a full queue, or while something from before its
chain holds its release, it is held; what its own chain has started holds the entry instead, which is not visible before it is
complete (R65; the model's reading: log entry 4). -/
def Sys2Proof.Claims.QueuePush : Prop :=
  ∀ (s : State) (a : Reg) (k : BitVec 2), s.sound → s.ready { ctlUse with srcs := [a] } 0 →
    (8 ≤ (s.curT.queues.getD k.toNat []).length ∨ s.releasableTo .team = false → exec (.qpush a k) s = .next (s.holdSlot [])) ∧
    ((s.curT.queues.getD k.toNat []).length < 8 → s.releasableTo .team = true →
    ∃ t, exec (.qpush a k) s = .next t ∧ s.publishes t allDies ∧ (s.onCur (fun _ st => st.stores = []) → s.onlyTeam t) ∧
      s.rel t (fun _ st st' => st.moved { st' with view := st.view, stores := st.stores }) ∧
      (∃ e : QEntry, e.val = BitVec.ofNat 32 (s.ctlValue a) ∧ e.from_ = s.clkOf s.curTeam + 1 ∧
        e.after = (if s.releasable .team then none else some (s.onCur (fun _ st => st.accNext))) ∧
        ∀ j, j < 4 → t.curT.queues.getD j [] =
          if j = k.toNat then s.curT.queues.getD j [] ++ [e] else s.curT.queues.getD j []))

/-- R94, R190, R195, R196, R317: SIGSET sets its flag, to be seen from the next cycle, and publishes the pending near stores of its
stream; SIGWAIT of a flag that is seen set goes on, behind its stream's own scratchpad stores, and clears it in the consuming form
when no other waiter comes first; else it waits. -/
def Sys2Proof.Claims.SignalFlags : Prop :=
  ∀ (s : State) (k : BitVec 4), s.sound →
    let f := s.curT.sigs.getD k.toNat SigFlag.blank
    (s.ready { both with pauses := true } 0 → s.releasable .team = true →
      ∃ t, exec (.sigset k) s = .next t ∧ s.publishes t allDies ∧ (s.onCur (fun _ st => st.stores = []) → s.onlyTeam t) ∧
        s.rel t (fun _ st st' => st.moved { st' with view := st.view, stores := st.stores }) ∧
        (t.curT.sigs.getD k.toNat SigFlag.blank).from_ = (if f.set then f.from_ else s.clkOf s.curTeam + 1) ∧
        ∀ j, j < 16 → ((t.curT.sigs.getD j SigFlag.blank).set =
          (j == k.toNat || (s.curT.sigs.getD j SigFlag.blank).set))) ∧
    (∀ c : Bool, s.ready { both with pauses := true, mem := true } 0 →
      (f.set = true → f.from_ ≤ s.clkOf s.curTeam → (c = true → s.firstWaiter k.toNat f = true) →
        ∃ t, exec (.sigwait c k) s = .next t ∧ s.onlyTeam t ∧
          s.rel t (fun _ st st' => st.moved { st' with view := st.view, acqHeld := st.acqHeld } ∧ st'.acqHeld = st.bound.acqHeld) ∧
          ∀ j, j < 16 → (t.curT.sigs.getD j SigFlag.blank).set =
            ((s.curT.sigs.getD j SigFlag.blank).set && !(c && j == k.toNat))) ∧
      (f.set = false ∨ s.clkOf s.curTeam < f.from_ ∨ (c = true ∧ s.firstWaiter k.toNat f = false) →
        ∃ t, exec (.sigwait c k) s = .next t ∧ t.slotEnd = .held ∧ s.sameBytes t ∧
          ∀ j, j < 16 → (t.curT.sigs.getD j SigFlag.blank).set = (s.curT.sigs.getD j SigFlag.blank).set))

/-- R94, R131, R132, R190, R195, R196, R316, R317: QPUSH, SIGSET and SIGWAIT. -/
def Obligations.QueuesAndFlags : Prop := Claims.QueuePush ∧ Claims.SignalFlags

/-- R59, R318: a GROW whose request has been answered writes the answer to its predicate; GROW.rel gives up the highest n
blocks, whose registers then read 0, and writes true. -/
def Obligations.Grow : Prop :=
  ∀ (s : State) (p n : BitVec 6), s.sound → 1 ≤ p.toNat → p.toNat ≤ 31 → 1 ≤ n.toNat →
    s.ready { laneUse with pauses := true } 0 → s.growConverged = true →
    (∀ (m : Byte) (v : Bool), s.growPair = [m, if v then 1 else 0] →
      s.decides (.growReq p n) { laneUse with pauses := true } .S p.toNat s.executing 0 (fun _ _ _ _ => v)) ∧
    (n.toNat < s.blocks →
      ∃ t, exec (.growRel p n) s = .next t ∧ s.onlyTeam t ∧
        s.rel t (fun _ st st' => st'.blocks = st.blocks - n.toNat ∧
          (∀ r l, (r / 8 < st.blocks - n.toNat → st'.reg r l = st.reg r l) ∧ (st.blocks - n.toNat ≤ r / 8 → st'.reg r l = 0)) ∧
          ∀ l, l < st.n → st.ex.getLsbD l = true → (st'.settle (s.clkOf s.curTeam + 1) false).pred p.toNat l = true))

/-! ## Launching, system registers, traps -/

/-- R187, R198, R337: the bytes of a record at a team-local address, as an instruction reads them at issue: those that its held slot has
kept (the model's reading: log entry 36); else, on its first try, the bytes as they stand once the thread's pending stores are published,
where they lie within bounds and no bit is wrong. -/
def Sys2Proof.Claims.recordRead (s : State) (a : Nat) (b : List Byte) : Prop :=
  let s0 := s.publish s.curTeam s.curSel true allDies
  s.keptPair b.length = some b ∨
    (s.keptPair b.length = none ∧ s.localBad s.curTeam a b.length = none ∧ s.curT.errs = [] ∧ (s.pkg s.curT.port).errs = [] ∧
      b = s0.localRead s.curTeam a b.length)

/-- R47, R140, R161, R214, R319: LAUNCH with a legal descriptor, on the first try that reads it or with the one that it has kept,
publishes the pending near stores of its thread, and puts a child of the current grid on the launch queue of the partition, one level
deeper, under the PASID of its parent. -/
def Sys2Proof.Claims.LaunchChild : Prop :=
  ∀ (s : State) (a : Reg) (b : List Byte), s.ready { ctlUse with srcs := [a], mem := true } 0 → b.length = 64 →
    (s.keptPair 64 = none → s.ctlValue a % 64 = 0) → Claims.recordRead s (s.ctlValue a) b →
    s.sound → s.onCur (fun _ st => st.accBefore) = false → s.launchFault b = none → s.releasable .package = true →
    (s.part s.curT.port s.curT.part).enabled = true → (s.part s.curT.port s.curT.part).queue.length < 512 →
    ∃ t q, exec (.launch a) s = .next t ∧
      (t.part s.curT.port s.curT.part).queue = (s.part s.curT.port s.curT.part).queue ++ [q] ∧
      q.packet = putBytes b 28 (bytesOf 4 (s.gridOf s.curTeam).pasid) ∧ q.depth = (s.gridOf s.curTeam).depth + 1 ∧
      q.parent = some s.curT.grid ∧ q.qi = none ∧ s.publishes t allDies ∧
      s.rel t (fun _ st st' => st.moved { st' with view := st.view, stores := st.stores })

/-- R177, R183, R320: TASKDEC lowers a counter that is not 0 by one, and at 0 releases the packets that wait for it; a counter that
is 0 stays, and the underflow is counted. -/
def Sys2Proof.Claims.TaskDecrement : Prop :=
  ∀ (s : State) (k : BitVec 8), s.ready ctlUse 0 →
    let x := s.part s.curT.port s.curT.part
    (Map.get x.depc k.toNat 0 = 0 →
      ∃ t, exec (.taskdec k) s = .next t ∧ s.sameBytes t ∧ s.rel t (fun _ st st' => st.moved st') ∧
        t.part s.curT.port s.curT.part = x.count cntUnderflow) ∧
    (Map.get x.depc k.toNat 0 ≠ 0 →
    ∃ t, exec (.taskdec k) s = .next t ∧ (∀ y, t.byte y = s.byte y) ∧ s.rel t (fun _ st st' => st.moved st') ∧
      (∀ j, Map.get (t.part s.curT.port s.curT.part).depc j 0 =
        if j = k.toNat then Map.get x.depc j 0 - 1 else Map.get x.depc j 0) ∧
      (Map.get x.depc k.toNat 0 = 1 → ∀ q ∈ (t.part s.curT.port s.curT.part).queue, q.held ≠ some k.toNat))

/-- R47, R140, R161, R177, R183, R319, R320: LAUNCH and TASKDEC. That a LAUNCH which is held goes on with the descriptor of its first try
is the model's reading (log entry 36). -/
def Obligations.ChildrenAndCounters : Prop := Claims.LaunchChild ∧ Claims.TaskDecrement

/-- R98, R322: SRR gives a system register to a pair of every executing lane, or to a control register. -/
def Sys2Proof.Claims.SystemRead : Prop :=
  ∀ (s : State) (d : Reg) (n : BitVec 12) (v : DWord), s.sound → s.sysReg s.curTeam n.toNat = some v →
    (s.inLane = true → pairOk s.blocks d.toNat → s.ready both 0 →
      s.computesPair (.srr d n) both .S (some d.toNat) s.executing (fun _ _ _ _ => v)) ∧
    (∀ dst, s.inLane = false → dstOf false 0 d.toNat = some dst → s.ready both 0 →
      s.computes (.srr d n) both .S (some dst) s.executing 0 (fun _ w _ _ => v.setWidth w))

/-- R5, R96, R98, R103, R104, R322: SRW of the control thread writes the writable bits of a register and no other register, a clear
of sr.mxerr before the errors of its cycle; a lane's SRW traps PERMISSION. -/
def Sys2Proof.Claims.SystemWrite : Prop :=
  ∀ (s : State) (a : Reg) (n : BitVec 12), s.sound → s.ready { both with srcs := [a], pauses := true } 0 →
    (s.sysReg s.curTeam n.toNat).isSome = true →
    (s.inLane = true → exec (.srw a n) s = .next (s.trap .permission)) ∧
    (s.inLane = false →
      let v : DWord := BitVec.ofNat 64 (s.ctlValue a)
      let x := s.curT
      ∃ t, exec (.srw a n) s = .next t ∧ s.onlyTeam t ∧ s.rel t (fun _ st st' => st.moved st') ∧
        (let y := t.curT
         y.lrbase = (if n = 0x010 then v &&& ~~~0x7F#64 else x.lrbase) ∧
         y.pptto = (if n = 0x011 then v &&& 0xFFFFFFFF#64 else x.pptto) ∧
         y.ltrapvec = (if n = 0x012 then v &&& 0xFFFFFFFF#64 else x.ltrapvec) ∧
         y.ctrapvec = (if n = 0x013 then v &&& 0xFFFFFFFF#64 else x.ctrapvec) ∧
         y.mxerr = (if n = 0x030 then
             let clear : DWord := ~~~(v &&& 0xC000000000000000#64)
             (if x.mxErrs = [] then x.mxerr &&& clear else x.mxErrs.foldl mxRecord (x.mxOld &&& clear))
           else x.mxerr) ∧
         y.chansel = (if n = 0x040 then v &&& 0x3F#64 else x.chansel) ∧
         y.lagesel = (if n = 0x042 then v &&& 0x7FF#64 else x.lagesel) ∧
         (∀ k, k < 16 → y.tsh.getD k 0 =
           if n.toNat = 0x020 + k then v.setWidth 32 &&& 0x000FFF9F#32 else x.tsh.getD k 0) ∧
         y.tls = x.tls ∧ y.wins = x.wins ∧ y.abs = x.abs ∧ y.rvs = x.rvs ∧ y.queues = x.queues ∧ y.sigs = x.sigs ∧ y.grps = x.grps))

/-- R5, R96, R98, R103, R104, R322: SRR and SRW. -/
def Obligations.SystemRegisters : Prop := Claims.SystemRead ∧ Claims.SystemWrite

/-- R325, R326, R328: TRAP and BRK enter the handler: the executing lanes stand at the vector, ready; the latches hold the
record with the code, the slot, the immediate, the entry and the offset of the instruction; the old latches stand in the
shadow; registers, predicates and memory stay. -/
def Obligations.TrapEntry : Prop :=
  ∀ e ∈ [(Instr.trap, 21), (Instr.brk, 22)], ∀ (s : State) (i : BitVec 12) (k : Pkt),
    s.ready { both with pauses := true } 0 → s.handling = false → s.onCur (fun _ st => st.specFault.isNone) = true →
    s.onCur (fun _ st => st.pkt = some k) → k.pc / 4 % 4 ≠ 0 →
    let vec := (if s.inLane then s.curT.ltrapvec else s.curT.ctrapvec).toNat % 2 ^ 32
    vec ≠ 0xFFFFFFFF → s.codeHere s.curTeam vec = true → s.targetOk s.curTeam vec = true →
    ∃ t, exec (e.1 i) s = .next t ∧ s.onlyTeam t ∧ s.rel t (fun w st st' =>
      st'.regs = st.regs ∧ st'.preds = st.preds ∧ st'.masks = st.masks ∧ st'.flags = st.flags ∧ st'.pkt = none ∧
      (∃ h, st'.handler = some h ∧ h.lanes = st.ex ∧ h.epc = k.entry ∧ h.shadow = st.latches) ∧
      (∀ l, l < st.n → st.ex.getLsbD l = true → st'.pcOf l = vec ∧ st'.laneState l = .ready ∧
        ((st'.latches.getD 0 (Latch.blank w st.n)).vals.getD l 0 = BitVec.ofNat w (e.2 + k.pc / 4 % 4 * 2 ^ 8 + i.toNat * 2 ^ 16)) ∧
        ((st'.latches.getD 1 (Latch.blank w st.n)).vals.getD l 0 = BitVec.ofNat w k.entry) ∧
        ((st'.latches.getD 2 (Latch.blank w st.n)).vals.getD l 0 = BitVec.ofNat w k.pc)) ∧
      ∀ l, l < st.n → st.ex.getLsbD l = false → st'.pcOf l = st.pcOf l ∧ st'.laneState l = st.laneState l)

/-- R329: TRET leaves the handler: the handler lanes that have not exited resume at EPC, or at the packet after it, with the
latches of the shadow. -/
def Obligations.TrapReturn : Prop :=
  ∀ (s : State) (x : Bool), s.ready { both with pauses := true } 0 →
    ∀ (epc : Nat), s.onCur (fun _ st => st.handler.map (fun h => h.epc)) = some epc →
    let target := if x then epc / 16 * 16 + 20 else epc
    s.codeHere s.curTeam target = true → s.targetOk s.curTeam target = true →
    s.changes (.tret x) [] (fun _ st st' =>
      st'.handler = none ∧ st'.regs = st.regs ∧ st'.preds = st.preds ∧ st'.masks = st.masks ∧ st'.lst = st.lst ∧ st'.pkt = none ∧
      (∃ h, st.handler = some h ∧ st'.latches = h.shadow ∧
        ∀ l, l < st.n → st'.pcOf l = if (h.lanes &&& st.live).getLsbD l then target else st.pcOf l))

/-- R323: the first try of a WAITEV notes its mask and its timeout n, forgets earlier events and holds its slot; with mask 0 and no timeout
it traps ILLEGAL_OPERAND. It completes in a cycle after that of the first selected events, if its timeout has not elapsed before them,
with their mask in D and bit 4 set if the timeout elapses in their cycle; without events it completes after the cycle in which the timeout elapses, with
bit 4 alone; then its mask and the events are cleared. Until then its slot stays held, and nothing else changes. That it completes after the cycle
whose events it gives, and that the timeout counts from its own wait, is the model's reading (log entry 45). -/
def Obligations.WaitEvent : Prop :=
  ∀ (s : State) (d a : Reg) (m : BitVec 4) (dst : Dst), s.sound → dstOf false 0 d.toNat = some dst →
    s.ready { ctlUse with srcs := [a] } 0 → s.onCur (fun _ st => st.pkt.isSome) = true →
    let x := s.curT
    let clk := s.clkOf s.curTeam
    let i := Instr.waitev d a m
    let held (t : State) (b : List Byte) : Prop :=
      exec i s = .next t ∧ s.onlyTeam t ∧ t.slotEnd = .held ∧ { t.curT with ctl := x.ctl, evMask := x.evMask, evs := x.evs } = x ∧
        s.rel t (fun _ st st' => { st' with vpc := st.vpc, pkt := st.pkt, lastIssue := st.lastIssue, hold := st.hold } = st ∧
          st'.hold.map (fun h => (h.pc, h.ex, h.pair)) = some (st.pc, st.ex, b))
    (s.keptPair 8 = none → m = 0 → s.ctlValue a = 0 → exec i s = .next (s.trap .illegalOperand)) ∧
    (s.keptPair 8 = none → (m ≠ 0 ∨ s.ctlValue a ≠ 0) →
      ∃ t, held t (bytesOf 8 (s.ctlValue a)) ∧ t.curT.evMask = m.toNat ∧ t.curT.evs = 0) ∧
    ∀ b, s.keptPair 8 = some b →
      let n := ofBytes b
      let end_ := (s.heldSince s.curTeam .ctl).getD clk + n
      let completes (v : Nat) : Prop :=
        ∃ t, exec i s = .next t ∧ s.onlyTeam t ∧ t.curT.evMask = 0 ∧ t.curT.evs = 0 ∧
          s.rel t (fun w st st' => st.stepped st' ∧ st.wrote st' (clk + 1) (writesOf (some dst) (fun _ => BitVec.ofNat w v)) st.ex)
      let waits : Prop := ∃ t, held t b ∧ t.curT.evMask = x.evMask ∧ t.curT.evs = x.evs
      (x.evs ≠ 0 → x.evCycle < clk → (n = 0 ∨ x.evCycle ≤ end_) →
        completes (x.evs % 16 + if 16 ≤ x.evs ∨ (n ≠ 0 ∧ x.evCycle = end_) then 16 else 0)) ∧
      (n ≠ 0 → (x.evs = 0 ∧ end_ < clk) ∨ (x.evs ≠ 0 ∧ end_ < x.evCycle) → completes 16) ∧
      (x.evs = 0 → (n = 0 ∨ clk ≤ end_) → waits) ∧
      (x.evs ≠ 0 → clk ≤ x.evCycle → (n = 0 ∨ x.evCycle ≤ end_) → waits)

/-! ## Local memory -/

/-- R109, R290 to R293, R295: a load or a store whose addresses pass the checks starts one access of its size: its lanes with
the addresses A plus the scaled offset, for a store the data of its lanes; a near store is pending from then on, with the data
of the highest of the lanes that name one address. No byte changes yet. A scratchpad load behind stores of an ended speculation that still
drain takes each of their bytes from them, as the buffer would have given it (R203; that they drain as accesses is the model's: log entry 19). -/
def Obligations.LoadStoreIssue : Prop :=
  ∀ (s : State) (near load x : Bool) (d a : Reg) (z : Sz) (o : BitVec 8), (load = false → x = false) →
    let wide := if s.inLane then z = .b64 ∨ z = .b128 else z = .b128
    let u : Use := { both with srcs := if load ∨ wide then [a] else [a, d], pauses := near, mem := true }
    let i : Instr := match near, load with
      | false, true => .lds x d a z o
      | false, false => .sts d a z o
      | true, true => .ldn x d a z o
      | true, false => .stn d a z o
    let c := s.ctx (s.fronts u s.executing)
    let ea := s.addrs c a (o.toNat * szBytes z)
    s.ready u s.executing → memOk s.inLane s.blocks load x d.toNat z = true → s.onCur (fun _ st => st.speculating) = false →
    s.localFault near (szBytes z) ea = none →
    let drains : Prop := load = true ∧ near = false ∧ s.onCur (fun _ st => ∃ b ∈ st.acc, b.drain = true)
    (drains → ∃ t, exec i s = .next t ∧ (∀ p, t.byte p = s.byte p) ∧ s.rel t (fun _ st st' =>
      st'.regs = st.regs ∧ st'.preds = st.preds ∧ st'.masks = st.masks ∧ st'.stores = st.stores ∧
      (∀ l, l < st.n → st'.pcOf l = if st.ex.getLsbD l then nextSlot st.pc st.litNext else st.pcOf l) ∧
      let at_ (e : Nat × Nat) : List Nat := (List.range (szBytes z)).map (fun k => e.2 + k)
      if (ea.flatMap at_).all (fun y => (st.drainByte y).isSome) then st'.acc = st.acc
      else ∃ b : Access, st'.acc = st.acc ++ [b] ∧ b.near = false ∧ b.kind = .load ∧ b.size = szBytes z ∧ b.lanes = ea ∧ b.signed = x ∧
        b.dest = s.dstReg d ∧ ∀ y ∈ ea.flatMap at_, Map.find b.data y = (st.drainByte y).map BitVec.toNat)) ∧
    (¬ drains → ∃ t, exec i s = .next t ∧ (∀ p, t.byte p = s.byte p) ∧ s.rel t (fun _ st st' =>
      st'.regs = st.regs ∧ st'.preds = st.preds ∧ st'.masks = st.masks ∧ st'.flags = (st.raise st.setFlag).flags ∧
      (∀ l, l < st.n → st'.pcOf l = if st.ex.getLsbD l then nextSlot st.pc st.litNext else st.pcOf l) ∧
      (∃ b : Access, st'.acc = st.acc ++ [b] ∧ b.near = near ∧ b.kind = (if load then .load else .store) ∧ b.size = szBytes z ∧
        b.lanes = s.placed near ea ∧ b.flag = st.setFlag ∧ b.signed = x ∧
        (load = true → b.dest = s.dstReg d ∧ b.data = [] ∧ b.got = []) ∧ b.rows = b.unserved ∧
        (load = false → ∀ l, l < st.n → st.ex.getLsbD l = true → Map.get b.data l 0 = st.storeData c d z l)) ∧
      (if near && !load then
        st'.stores.map (fun p => (p.addr, p.bytes)) = st.stores.map (fun p => (p.addr, p.bytes)) ++
          (lastLanes (s.placed near ea)).map (fun e => (e.2, bytesOf (szBytes z) (Map.get ((lanesOf st.ex st.n).map (fun l => (l, st.storeData c d z l))) e.1 0)))
       else st'.stores = st.stores)))

/-- R195, R207, R296, R297, R299: an atomic on scratchpad or near memory starts one atomic access with its operation, its operands
per lane and the lanes' addresses; no byte changes yet, but that one with a release half publishes the pending near stores of its
stream, on the dies of its lanes for a near one, and is held while its release must wait. -/
def Obligations.LocalAtomicIssue : Prop :=
  ∀ (s : State) (near : Bool) (op : Aop) (d a b : Reg) (r : Ord),
    let u : Use := { both with srcs := atomicSrcs op a b, pauses := true, mem := true }
    let c := s.ctx (s.fronts u s.executing)
    let ea := s.addrs c a 0
    let n := if s.inLane then 4 else 8
    let sc : Scope := if near then .die else .team
    let i : Instr := if near then .atn op d a b r else .ats op d a b r
    s.sound → s.ready u s.executing → atomicOk s.inLane s.blocks op d.toNat b.toNat = true → s.localFault near n ea = none →
    (ordRel r = true → s.releasable sc = false → exec i s = .next (s.holdSlot [])) ∧
    ((ordRel r = true → s.releasable sc = true) →
    ∃ t, exec i s = .next t ∧ (ordRel r = false → s.sameBytes t) ∧
      (ordRel r = true → s.publishes t (scopeDies sc ((s.placed near ea).map (fun e => dieOf e.2)))) ∧
      s.rel t (fun _ st st' =>
        st'.regs = st.regs ∧ st'.preds = st.preds ∧ st'.masks = st.masks ∧ st'.flags = (st.raise st.setFlag).flags ∧
        ∃ x : Access, st'.acc = st.acc ++ [x] ∧ x.near = near ∧ x.kind = .atomic ∧ x.size = n ∧ x.aop = op ∧
          x.lanes = s.placed near ea ∧ x.dest = s.dstReg d ∧
          (op ≠ .load → ∀ l, l < st.n → st.ex.getLsbD l = true → Map.get x.data l 0 = (st.value c b l).toNat) ∧
          (op = .cas → ∀ l, l < st.n → st.ex.getLsbD l = true → Map.get x.expect l 0 = (st.value c d l).toNat)))

/-- R111, R188, R294, R295: serving the only row of a scratchpad access of one lane, without a wrong bit: a store writes its
bytes and no other byte of the machine; a load of a register's width or less gives its destination the bytes at its address,
sign-extended where it says so, and changes no byte; the access is then over. -/
def Sys2Proof.Claims.ScratchAccess : Prop :=
  ∀ (s : State) (t : Nat) (q : Sel) (i row l addr : Nat) (a : Access), s.sound → (s.team t).place = .resident →
    s.onStream t q (fun _ st => st.acc.find? (fun b => b.id = i) = some a ∧ st.mayServe a row = true ∧ l < st.n) →
    a.near = false → a.lanes = [(l, addr)] → addr / 16 = row → a.rows = [row] → (s.team t).errs = [] → s.bankFree t q a row = true →
    (a.kind = .store → ∃ s', exec (.localAccessComplete t q i row) s = .next s' ∧
      s'.onStream t q (fun _ st => ∀ b ∈ st.acc, b.id ≠ i) ∧
      ∀ p, s'.byte p = match p with
        | .scratch k x => if k = t ∧ addr ≤ x ∧ x < addr + a.size then
            BitVec.ofNat 8 (Map.get a.data l 0 / 2 ^ (8 * (x - addr))) else s.byte p
        | _ => s.byte p) ∧
    (∀ d, a.kind = .load → a.dest = some d → a.got = [] → a.data = [] →
      s.onStream t q (fun w st => 8 * a.size ≤ w ∧ st.wasKilled a.pkt a.id d l = false) →
      ∃ s', exec (.localAccessComplete t q i row) s = .next s' ∧ (∀ p, s'.byte p = s.byte p) ∧
        s'.onStream t q (fun w st => (∀ b ∈ st.acc, b.id ≠ i) ∧
          st.reg d l = BitVec.ofNat w (loadValue w a.size a.signed ((s.team t).scratch.num addr a.size))))

/-- R298, R299: an atomic of one lane on the scratchpad gives the old value to its destination and leaves the new value of its
operation at its address. -/
def Sys2Proof.Claims.ScratchAtomic : Prop :=
  ∀ (s : State) (t : Nat) (q : Sel) (i row l addr : Nat) (a : Access), s.sound → (s.team t).place = .resident →
    s.onStream t q (fun w st => st.acc.find? (fun b => b.id = i) = some a ∧ st.mayServe a row = true ∧ l < st.n ∧ 8 * a.size = w ∧
      ∀ d, a.dest = some d → st.wasKilled a.pkt a.id d l = false) →
    a.near = false → a.kind = .atomic → a.lanes = [(l, addr)] → addr / 16 = row → a.rows = [row] → a.got = [] → (s.team t).errs = [] →
    s.bankFree t q a row = true →
    let w := 8 * a.size
    let old := (s.team t).scratch.num addr a.size
    let new := atomicNew a.aop w (BitVec.ofNat w old) (BitVec.ofNat w (Map.get a.data l 0)) (BitVec.ofNat w (Map.get a.expect l 0))
    ∃ s', exec (.localAccessComplete t q i row) s = .next s' ∧
      (∀ p, s'.byte p = match p with
        | .scratch k x => if k = t ∧ addr ≤ x ∧ x < addr + a.size then
            BitVec.ofNat 8 (((new.map BitVec.toNat).getD old) / 2 ^ (8 * (x - addr))) else s.byte p
        | _ => s.byte p) ∧
      ∀ d, a.dest = some d → a.aop ≠ .store → s'.onStream t q (fun w st => st.reg d l = BitVec.ofNat w old)

/-- R111, R188, R294, R295, R298, R299: scratchpad accesses of one lane as they are served. -/
def Obligations.ScratchServed : Prop := Claims.ScratchAccess ∧ Claims.ScratchAtomic

/-- R187, R189, R209: a pending near store that no earlier one and no earlier load or atomic of its bytes precedes becomes the newest write
of those bytes of its package; every other byte stays. -/
def Sys2Proof.Claims.StorePublished : Prop :=
  ∀ (s : State) (t : Nat) (q : Sel) (i : Nat) (x : Scope) (y : PendStore),
    s.sound → s.onStream t q (fun _ st => st.stores.find? (fun z => z.seq = i) = some y ∧
      st.behindAccess y = false ∧
      ∀ z ∈ st.stores, z.seq < i → z.addr + z.bytes.length ≤ y.addr ∨ y.addr + y.bytes.length ≤ z.addr) →
    ∃ s', exec (.storePublish t q i x) s = .next s' ∧
      ∀ p, s'.byte p = match p with
        | .near k a => if k = (s.team t).port ∧ y.addr ≤ a ∧ a < y.addr + y.bytes.length then y.bytes.getD (a - y.addr) 0 else s.byte p
        | _ => s.byte p

/-- R189: a view moves forward, never back and never past the newest position, for a whole row of 16 bytes at once (the row is the model's: log
entry 16); no byte changes. -/
def Sys2Proof.Claims.ViewAdvances : Prop :=
  ∀ (s : State) (t : Nat) (q : Sel) (a pos : Nat), (s.team t).place = .resident →
    ∃ s', exec (.viewAdvance t q a pos) s = .next s' ∧ (∀ p, s'.byte p = s.byte p) ∧
      ∀ b, s'.onStream t q (fun _ st => st.view.at b) =
        if b / 16 = a / 16 then max (s.onStream t q (fun _ st => st.view.at b)) (min pos (s.pkg (s.team t).port).pos)
        else s.onStream t q (fun _ st => st.view.at b)

/-- R187, R189, R209: near stores as they are published, and views as they advance, by rows (log entry 16). -/
def Obligations.NearOrder : Prop := Claims.StorePublished ∧ Claims.ViewAdvances

/-- R207, R302: PHASE completes when what it waits for is over, and is held till then: the loads, atomics and scratchpad stores of
its stream, the replies of its far atomics, and for its releasing kinds what holds a release. A releasing kind publishes the
pending near stores of the stream on the dies of its scope, those of its team too where the scope is wider, and leaves a release
fence that has seen them; an acquiring kind sees what the releases have seen that its reads reached, and at system scope every
host write so far. No register or predicate changes. That an acquire-only PHASE too is held for the loads, atomics and far replies of
its stream is the model's reading (log entry 17). -/
def Obligations.PhaseCompletes : Prop :=
  ∀ (s : State) (x : Scope) (k : Kind), s.sound → s.ready { both with pauses := true, mem := true } 0 →
    let p := s.curT.port
    let dies := scopeDies x [s.dieOfTeam s.curTeam]
    let clear : Prop := s.onCur (fun _ st => ∀ a ∈ st.acc, a.near = true ∧ a.kind = .store) ∧
      (∀ f ∈ s.farsOf s.curTeam s.curSel, f.ret = false ∧ (k ≠ .rel → f.aop = .store)) ∧ (k ≠ .acq → s.releasable x = true)
    (¬ clear → exec (.phase x k) s = .next (s.holdSlot [])) ∧
    (clear → ∃ t, exec (.phase x k) s = .next t ∧ t.slotEnd = .none ∧
      (k = .acq → s.sameBytes t) ∧ (k ≠ .acq → s.publishes t dies) ∧
      (k ≠ .acq → x ≠ .team → ∀ h ∈ (t.pkg p).hist, dies.contains (dieOf h.addr) = true → h.only ≠ some s.curTeam) ∧
      s.rel t (fun _ st st' =>
        st.moved { st' with view := st.view, stores := st.stores, relFences := st.relFences } ∧
        (k = .acq → st'.stores = st.stores ∧ st'.relFences = st.relFences) ∧
        (∀ b, b < 2 ^ 30 → st.view.at b ≤ st'.view.at b) ∧
        (k ≠ .acq → ∃ f ∈ st'.relFences, f.scope = x ∧ f.team = s.curTeam ∧ f.port = p ∧
          (∀ b, b < 2 ^ 30 → st.view.at b ≤ f.view.at b) ∧
          ∀ y ∈ st.stores, dies.contains (dieOf y.addr) = true → (s.pkg p).pos < f.view.at y.addr) ∧
        (k ≠ .rel → ∀ r ∈ st.acqReads, r.reaches x s.curTeam p = true → r.port = p → ∀ b, b < 2 ^ 30 →
          (scopeDies r.scope r.dies).contains (dieOf b) = true → dies.contains (dieOf b) = true → r.view.at b ≤ st'.view.at b) ∧
        (k ≠ .rel → x = .system → ∀ b, b < 2 ^ 30 → (s.pkg p).hostPos ≤ st'.view.at b)))

/-- R215, R303: TFENCE over no module completes at once; over modules it starts its fence with the first try, holds its slot while
the fence stands, and then completes. -/
def Sys2Proof.Claims.TableFence : Prop :=
  ∀ (s : State) (x : Bool) (m : BitVec 6), s.ready { ctlUse with mem := true } 0 → (x = true → m = 0) →
    let part := s.part s.curT.port s.curT.part
    let mods := if x then part.modules.map (fun e => e.2.1) else (part.module m.toNat).toList.map (fun e => e.1)
    let begun : Prop := s.onCur (fun _ st => ∃ h, st.hold = some h ∧ h.pc = st.pc ∧ h.pair.length = 1)
    let stands : Prop := ∃ f ∈ s.fences, f.team = some s.curTeam
    (mods = [] → s.changes (.tfence x m) [] (fun _ st st' => st.moved st')) ∧
    (mods ≠ [] → begun → ¬ stands → s.changes (.tfence x m) [] (fun _ st st' => st.moved st')) ∧
    (mods ≠ [] → begun → stands → exec (.tfence x m) s = .next (s.holdSlot [1])) ∧
    (mods ≠ [] → ¬ begun → ∃ t, exec (.tfence x m) s = .next t ∧ t.slotEnd = .held ∧ s.sameBytes t ∧
      t.fences = s.fences ++
        [{ id := s.nextId, port := s.curT.port, part := s.curT.part, mods := mods, team := some s.curTeam }])

/-- R220, R304, R305: DRAIN covers the commands that write on its path, issued from its core, whose issue happens before it, but none of its
own team from before a save. It completes when each is done, and then has seen what they wrote; till then it is held. -/
def Sys2Proof.Claims.Drained : Prop :=
  ∀ (s : State) (p : Path), s.ready { both with pauses := true, mem := true } 0 →
    let covers (y : Xfer) : Prop := y.core = s.curT.core ∧ y.onPath p = true ∧ ¬(y.team = s.curTeam ∧ y.saved = true) ∧
      y.seq ≤ s.onCur (fun _ st => Map.get st.view.cmds y.team 0)
    ((∀ e ∈ s.xfers, covers e.2 → e.2.done = true) →
      s.changes (.drain p) [] (fun _ st st' => st.moved { st' with view := st.view } ∧
        ∀ b, b < 2 ^ 30 → st.view.at b ≤ st'.view.at b ∧
          ∀ e ∈ s.xfers, covers e.2 → e.2.view.at b ≤ st'.view.at b)) ∧
    ((∃ e ∈ s.xfers, covers e.2 ∧ e.2.done = false) → exec (.drain p) s = .next (s.holdSlot []))

/-- R215, R220, R303 to R305: TFENCE and DRAIN. -/
def Obligations.FencesAndDrain : Prop := Claims.TableFence ∧ Claims.Drained

/-! ## Far atomics -/

/-- R33, R195, R207, R297, R299, R300: a far atomic on channels that are up sends one request for each location its lanes name,
with the lanes that name it in ascending order; with a result the executing lanes wait for the reply. One with a release half
publishes the pending near stores of its stream, and is held while its release must wait. -/
def Sys2Proof.Claims.FarAtomicIssue : Prop :=
  ∀ e ∈ [(Instr.atfp, Scope.package), (Instr.atfd, Scope.domain), (Instr.atfs, Scope.system)],
    ∀ (s : State) (op : Aop) (d a b : Reg) (r : Ord),
    let u : Use := { laneUse with srcs := if op = .load then [] else [b], pauses := true, mem := true }
    let ea := s.onCur (fun _ st => (lanesOf st.ex st.n).map (fun l => (l, (st.pair a l).toNat)))
    s.sound → s.ready u s.executing → pairSrcOk s.blocks a.toNat = true →
    atomicOk true s.blocks op d.toNat b.toNat = true → s.farFault ea = none →
    (ordRel r = true → s.releasable e.2 = false → exec (e.1 op d a b r) s = .next (s.holdSlot [])) ∧
    ((ordRel r = true → s.releasable e.2 = true) → (∀ m, s.isDown s.curT.port s.curT.part m = false) →
    ∃ t, exec (e.1 op d a b r) s = .next t ∧ (ordRel r = false → s.sameBytes t) ∧ (ordRel r = true → s.publishes t allDies) ∧
      (∀ x ∈ ea, ∃ i f, s.nextFar ≤ i ∧ Map.find t.fars i = some f ∧ f.addr = x.2 ∧ f.aop = op ∧ f.performed = false ∧
        f.team = s.curTeam ∧ f.sel = s.curSel ∧ f.lanes.map (fun y => y.1) = (ea.filter (fun y => y.2 = x.2)).map (fun y => y.1)) ∧
      s.rel t (fun _ st st' => st'.regs = st.regs ∧ st'.preds = st.preds ∧
        ∀ l, l < st.n → st.ex.getLsbD l = true →
          st'.laneState l = (if (s.dstReg d).isSome then LaneState.replyWait else st.laneState l) ∧
          st'.pcOf l = nextSlot st.pc st.litNext))

/-- R213, R299: the module performs the request at the head of its channel, of one lane, on a word that translates: the word
gets the new value of the operation, no other byte changes, and the request keeps the old value for its reply. -/
def Sys2Proof.Claims.FarAtomicPerformed : Prop :=
  ∀ (s : State) (m i : Nat) (w : Walk) (f : FarReq) (l b e pa : Nat), s.sound →
    Map.find s.fars i = some f → f.pmod = m → (s.mod m).head f.port f.part = some (.farReq i) → f.lanes = [(l, b, e)] →
    f.ret = true → (s.mod m).judge f.ctx (f.addr % 2 ^ 50) (needOf f.aop) w = .ok pa → bits (s.mod m).hotctl 7 7 = 0 →
    let old := (s.mod m).mem.num pa 4
    let new := atomicNew f.aop 32 (BitVec.ofNat 32 old) (BitVec.ofNat 32 b) (BitVec.ofNat 32 e)
    ∃ t, exec (.farAtomicRequest m i w) s = .next t ∧
      (∃ g, Map.find t.fars i = some g ∧ g.performed = true ∧ g.vals = [(l, old)] ∧ g.lanes = f.lanes) ∧
      ∀ p, t.byte p = match p with
        | .far k x => if k = m ∧ pa ≤ x ∧ x < pa + 4 then
            BitVec.ofNat 8 (((new.map BitVec.toNat).getD old) / 2 ^ (8 * (x - pa))) else s.byte p
        | _ => s.byte p

/-- R33, R55, R300: the reply of a resident team's atomic gives its lanes their old values and makes them ready; 48 µs after
the teardown of its context began, a reservation is released. -/
def Sys2Proof.Claims.FarAtomicReply : Prop :=
  (∀ (s : State) (p i : Nat) (f : FarReq) (e : Nat × Nat × Msg) (d l v : Nat),
    s.sound → (s.pkg p).inbox.find? (fun e => e.2.2 == .farRep i) = some e → Map.find s.fars i = some f →
    (s.team f.team).place = .resident → f.dest = some d → f.lanes.map (fun x => x.1) = [l] → f.vals = [(l, v)] →
    s.onStream f.team f.sel (fun _ st => l < st.n ∧ st.laneState l = .replyWait ∧ st.wasKilled f.pkt f.insn d l = false) →
    ∃ t, exec (.farAtomicReply p i) s = .next t ∧ Map.find t.fars i = none ∧ (∀ x, t.byte x = s.byte x) ∧
      t.onStream f.team f.sel (fun w st => st.reg d l = BitVec.ofNat w v ∧ st.laneState l = .ready)) ∧
  (∀ (s : State) (i t0 : Nat) (f : FarReq), Map.find s.fars i = some f → f.reserved = some t0 → t0 + 48000 ≤ s.now →
    ∃ t, exec (.reservationRelease i) s = .next t ∧ Map.find t.fars i = none ∧ (∀ x, t.byte x = s.byte x))

/-- R33, R55, R195, R207, R213, R297, R299, R300: far atomics at issue, at the module and as they are answered. -/
def Obligations.FarAtomics : Prop := Claims.FarAtomicIssue ∧ Claims.FarAtomicPerformed ∧ Claims.FarAtomicReply

/-! ## The matrix engine and engine commands -/

/-- R138, R171, R331 to R335: a matrix instruction of a group that executes with all its lanes enters the queue of its core,
where there is room, with the operation its operands give and the next number of tl1. -/
def Sys2Proof.Claims.MatrixIssue : Prop :=
  ∀ (s : State), s.sound → s.executing = BitVec.allOnes 32 →
    let issues (i : Instr) (u : Use) (op : Ctx → MatOp) (shapes : List Word) : Prop :=
      ∃ t e, exec i s = .next t ∧ (t.core s.curT.core).mq = (s.core s.curT.core).mq ++ [e] ∧ e.team = s.curTeam ∧
        e.op = op (s.ctx (s.fronts u s.executing)) ∧ e.shapes = shapes ∧
        e.num = (s.curT.tls.getD 1 Timeline.blank).issued + 1 ∧ (t.curT.tls.getD 1 Timeline.blank).issued = e.num ∧
        (∀ p, t.byte p = s.byte p) ∧
        s.rel t (fun _ st st' => st'.regs = st.regs ∧ st'.preds = st.preds ∧ st'.flags = (st.raise st.setFlag).flags)
    let u : Use := { laneUse with pauses := true, mem := true }
    let room : Prop := (s.core s.curT.core).mq.length < 64
    let scale (r n : Nat) : List Nat := s.onCur (fun _ st => (List.range 32).map (fun l => bits (st.reg r l).toNat (16 * n + 15) (16 * n)))
    s.ready u s.executing → room →
    (∀ (a : BitVec 10) (ta tb : BitVec 4) (x : Bool) (f : Fmt) (i : Instr), (i, f) ∈ [(Instr.mmaBf16 a ta tb x, Fmt.bf16),
        (Instr.mmaF16 a ta tb x, Fmt.f16), (Instr.mmaF32 a ta tb x, Fmt.f32)] →
      s.hasTile ta.toNat = true → s.hasTile tb.toNat = true → mmaShape (s.shape ta.toNat) (mmaCode f) (if x then 1 else 0) = true →
      mmaShape (s.shape tb.toNat) (mmaCode f) (if x then 1 else 0) = true → a.toNat < s.curT.accDecl →
      issues i u (fun _ => .mma f a.toNat ta.toNat tb.toNat (if x then 1 else 0) [] []) [s.shape ta.toNat, s.shape tb.toNat]) ∧
    (∀ (a : BitVec 10) (ta tb : BitVec 4) (v : BitVec 5) (x : Bool) (f : Fmt) (i : Instr),
      (i, f) ∈ [(Instr.mmaTe8 a ta tb v x, Fmt.te8), (Instr.mmaTe4 a ta tb v x, Fmt.te4)] →
      s.hasTile ta.toNat = true → s.hasTile tb.toNat = true → mmaShape (s.shape ta.toNat) (mmaCode f) (if x then 1 else 0) = true →
      mmaShape (s.shape tb.toNat) (mmaCode f) (if x then 1 else 0) = true → a.toNat < s.curT.accDecl → v.toNat ≤ 23 →
      pairOk s.blocks (2 * v.toNat) = true →
      issues i u (fun _ => .mma f a.toNat ta.toNat tb.toNat (if x then 1 else 0) (scale (2 * v.toNat) (if x then 1 else 0))
        (scale (2 * v.toNat + 1) (if x then 1 else 0))) [s.shape ta.toNat, s.shape tb.toNat]) ∧
    (∀ (t : BitVec 4) (a : BitVec 10) (r : Rnd) (x : Bool) (i : Instr) (op : MatOp),
      (i, op) ∈ [(Instr.accrd a t r x, MatOp.accrd a.toNat t.toNat r x), (Instr.accwr a t, MatOp.accwr a.toNat t.toNat),
        (Instr.accadd a t, MatOp.accadd a.toNat t.toNat)] →
      s.hasTile t.toNat = true → shOk (s.shape t.toNat) = true → shBlock (s.shape t.toNat) = false →
      a.toNat + coverBlocks (s.shape t.toNat) ≤ s.curT.accDecl → issues i u (fun _ => op) [s.shape t.toNat]) ∧
    (∀ (t : BitVec 4) (a : BitVec 10), a.toNat + t.toNat + 1 ≤ s.curT.accDecl →
      issues (.accz a t) u (fun _ => .accz a.toNat (t.toNat + 1)) []) ∧
    (∀ t : BitVec 4, s.hasTile t.toNat = true → issues (.tzero t) u (fun _ => .tzero t.toNat) [])

/-- R65, R115, R218, R334: a tile move of a stream without accesses under way from before its chain takes lane 0's base and stride and enters
the queue; it executes behind those that its own chain has started. -/
def Sys2Proof.Claims.TileMoveIssue : Prop :=
  ∀ (s : State) (k : BitVec 4) (a b : Reg) (r : Bool), s.sound → s.executing = BitVec.allOnes 32 →
    let u : Use := { laneUse with srcs := [a, b], pauses := true, mem := true }
    let c := s.ctx (s.fronts u s.executing)
    let base := s.onCur (fun _ st => (st.value c a 0).toNat)
    let stride := s.onCur (fun _ st => (st.value c b 0).toNat)
    let w := s.shape k.toNat
    s.ready u s.executing → (s.core s.curT.core).mq.length < 64 → s.onCur (fun _ st => st.accBefore) = false → s.hasTile k.toNat = true →
    shOk w = true → (r && shBlock w) = false → base % 16 = 0 → stride % 16 = 0 →
    (tileExtent w base stride r).2 < (s.gridOf s.curTeam).scratchLen →
    ∀ e ∈ [(Instr.tld k a b r, MatOp.tld k.toNat base stride r), (Instr.tst k a b r, MatOp.tst k.toNat base stride r)],
      ∃ t x, exec e.1 s = .next t ∧ (t.core s.curT.core).mq = (s.core s.curT.core).mq ++ [x] ∧ x.team = s.curTeam ∧ x.op = e.2 ∧
        x.shapes = [w] ∧ x.num = (s.curT.tls.getD 1 Timeline.blank).issued + 1 ∧ x.after = s.onCur (fun _ st => st.accNext) ∧
        (∀ p, t.byte p = s.byte p) ∧
        s.rel t (fun _ st st' => st'.regs = st.regs ∧ st'.preds = st.preds)

/-- R115, R138, R171, R218, R331 to R335: matrix instructions enter the queue of their core. -/
def Obligations.MatrixQueue : Prop := Claims.MatrixIssue ∧ Claims.TileMoveIssue

/-- R53, R116, R138, R335: the first entry of a core's queue whose team has not halted for its save leaves the queue when nothing holds it
back, and not before; without one nothing executes. ACCZ leaves +0.0 in every word of its blocks and TZERO zero in every byte of its
tile, and no other byte of the machine changes. -/
def Sys2Proof.Claims.MatrixClears : Prop :=
  (∀ (s : State) (c : Nat), (∀ e ∈ (s.core c).mq, (s.team e.team).standing = true) → exec (.matrixEntryExecute c) s = .next s) ∧
  ∀ (s : State) (c : Nat) (e : MatEntry), s.sound → (s.core c).mq.find? (fun x => !(s.team x.team).standing) = some e →
    (s.mayRun e = false → exec (.matrixEntryExecute c) s = .next s) ∧
    (s.mayRun e = true → (s.core c).eq_ = [] →
    let rest := (s.core c).mq.erase e
    (∀ b n, e.op = .accz b n → ∃ t, exec (.matrixEntryExecute c) s = .next t ∧ (t.core c).mq = rest ∧
      ∀ p, t.byte p = match p with
        | .acc k a => if k = e.team ∧ 4096 * b ≤ a ∧ a < 4096 * (b + n) then 0 else s.byte p
        | _ => s.byte p) ∧
    (∀ k, e.op = .tzero k → ∃ t, exec (.matrixEntryExecute c) s = .next t ∧ (t.core c).mq = rest ∧
      ∀ p, t.byte p = match p with
        | .tile x a => if x = e.team ∧ 4096 * k ≤ a ∧ a < 4096 * k + 4096 then 0 else s.byte p
        | _ => s.byte p))

/-- R116, R138, R182, R258 to R260, R330, R333 to R335: the other entries that a core's queue executes, with no wrong bit in the team's
memories. An MMA step gives every element of its block the sum of R258 or R259 of its old value and the 32 products of row i of A and
row j of B, as they were before the step, under the scales that it captured, and adds 32,768 to the meter of its format. TLD reads the rows, or transposed
the elements, of its tile; TST writes them in their order, so that the last one over a byte stands; ACCRD rounds accumulator values to the tile's format; TLD and
ACCRD leave 0 in the padding. ACCWR and ACCADD write the covered elements of the accumulators. No other byte of the machine changes. -/
def Sys2Proof.Claims.MatrixSteps : Prop :=
  ∀ (s : State) (c : Nat) (e : MatEntry), s.sound → (s.core c).mq.find? (fun x => !(s.team x.team).standing) = some e →
    s.mayRun e = true → (s.core c).eq_ = [] → (s.team e.team).errs = [] →
    let x := s.team e.team
    let ran (t : State) : Prop := exec (.matrixEntryExecute c) s = .next t ∧ (t.core c).mq = (s.core c).mq.erase e
    let word (b i j : Nat) : Nat := x.acc.num (4096 * b + 4 * (32 * i + j)) 4
    let bits_ (k : Nat) (w : Word) (r q : Nat) : Nat :=
      let row := 4096 * k + r * shPitch w
      if shFmt w = 12 then (x.tiles.read (row + q)).toNat
      else if shFmt w = 13 then (if q % 2 = 0 then (x.tiles.read (row + q / 2)).toNat % 16 else (x.tiles.read (row + q / 2)).toNat / 16)
      else x.tiles.num (row + q * shEsz w) (shEsz w)
    let fmt (w : Word) : FFmt := if shFmt w = 4 then fF32 else if shFmt w = 6 then fF16 else fBf16
    (∀ f acc ta tb sel sa sb wa wb, e.op = .mma f acc ta tb sel sa sb → e.shapes = [wa, wb] →
      let val (k : Nat) (w : Word) (pairs : List Nat) (r q : Nat) : FV :=
        if shBlock w then teVal (shFmt w == 13) (pairs.getD r 0) (bits_ k w r (32 * sel + q)) else (fmt w).val (bits_ k w r (32 * sel + q))
      let sum (i j : Nat) : Nat := mmaElement (shBlock wa) (mmaTerms (fF32.val (word acc i j))
        ((List.range 32).map (val ta wa sa i)) ((List.range 32).map (val tb wb sb j)))
      ∃ t, ran t ∧
        (∀ m, Map.get (t.part x.port x.part).meters m 0 =
          let v := Map.get (s.part x.port x.part).meters m 0
          if m = macMeter f then min (v + 32768) (2 ^ 64 - 1) else v) ∧
        ∀ z, t.byte z = match z with
          | .acc k a => if k = e.team ∧ 4096 * acc ≤ a ∧ a < 4096 * (acc + 1) then
              BitVec.ofNat 8 (sum (a / 4 % 1024 / 32) (a / 4 % 32) / 2 ^ (8 * (a % 4))) else s.byte z
          | _ => s.byte z) ∧
    (∀ k base stride tr w, e.op = .tld k base stride tr → e.shapes = [w] → shOk w = true → (tr && shBlock w) = false →
      ∃ t, ran t ∧ ∀ z, t.byte z = match z with
        | .tile n a => if n = e.team ∧ 4096 * k ≤ a ∧ a < 4096 * (k + 1) then
            let r := (a - 4096 * k) / shPitch w
            let q := (a - 4096 * k) % shPitch w
            if shRows w ≤ r ∨ shLen w ≤ q then 0
            else if tr then x.scratch.read (base + q / shEsz w * stride + r * shEsz w + q % shEsz w)
            else x.scratch.read (base + r * stride + q)
          else s.byte z
        | _ => s.byte z) ∧
    (∀ k base stride tr w, e.op = .tst k base stride tr → e.shapes = [w] → shOk w = true → (tr && shBlock w) = false →
      let n := if tr then shCols w * shRows w else shRows w
      let len := if tr then shEsz w else shLen w
      let to_ (i : Nat) : Nat := if tr then base + i / shRows w * stride + i % shRows w * shEsz w else base + i * stride
      let src (i : Nat) : Nat := if tr then i % shRows w * shPitch w + i / shRows w * shEsz w else i * shPitch w
      let covers (i a : Nat) : Prop := i < n ∧ to_ i ≤ a ∧ a < to_ i + len
      ∃ t, ran t ∧ (∀ z, (∀ a i, z = .scratch e.team a → ¬ covers i a) → t.byte z = s.byte z) ∧
        ∀ a i, covers i a → (∀ j, i < j → ¬ covers j a) →
          t.byte (.scratch e.team a) = x.tiles.read (4096 * k + src i + (a - to_ i))) ∧
    (∀ acc k r sat w, e.op = .accrd acc k r sat → e.shapes = [w] → shOk w = true → shBlock w = false →
      ∃ t, ran t ∧ ∀ z, t.byte z = match z with
        | .tile n a => if n = e.team ∧ 4096 * k ≤ a ∧ a < 4096 * (k + 1) then
            let i := (a - 4096 * k) / shPitch w
            let q := (a - 4096 * k) % shPitch w
            let j := q / shEsz w
            if shRows w ≤ i ∨ shLen w ≤ q then 0
            else BitVec.ofNat 8 ((fmt w).round r sat (fF32.val (word (acc + j / 32) i (j % 32))) / 2 ^ (8 * (q % shEsz w)))
          else s.byte z
        | _ => s.byte z) ∧
    (∀ acc k w, e.shapes = [w] → shOk w = true → shBlock w = false → ∀ add : Bool,
      e.op = (if add then .accadd acc k else .accwr acc k) →
      ∃ t, ran t ∧ ∀ z, t.byte z = match z with
        | .acc n a =>
          let b := a / 4096
          let i := a / 4 % 1024 / 32
          let j := 32 * (b - acc) + a / 4 % 32
          if n = e.team ∧ acc ≤ b ∧ i < shRows w ∧ j < shCols w then
            let v := (fmt w).val (bits_ k w i j)
            BitVec.ofNat 8 (fF32.near (if add then (fF32.val (word b i (a / 4 % 32))).add v else v) / 2 ^ (8 * (a % 4)))
          else s.byte z
        | _ => s.byte z)

/-- R53, R116, R138, R182, R258 to R260, R330, R333 to R335: what the matrix engine does for the entries of a core's queue. -/
def Obligations.MatrixExecute : Prop := Claims.MatrixClears ∧ Claims.MatrixSteps

/-- R136, R137, R171, R173, R174, R218, R226, R337: a command that issues becomes the next transfer of the machine: with its kind, its
operands and its records, the context of its grid, the module behind its logical number, and the next number of its timeline, which
counts it. Where the others in the queue have started, its channel is up and it reads no indices, nothing ends with it: the pending near
stores of the thread are published, the window of a charged command holds its bytes as outstanding, and no other window or barrier
changes; the command stands at the end of the queue until it starts, and from then on only while it uses the scratchpad, and a
reduction or a module command that starts is sent to its module; the thread stands at the next slot, its registers and predicates as they were. -/
def Sys2Proof.Claims.issuedAs (s : State) (i : Instr) (p : EngPlan) : Prop :=
  let n := s.nextXfer
  let x := s.curT
  let m := ((s.part x.port x.part).module p.lmod).getD (0, 0)
  let link : LinkId := ⟨x.port, x.part, m.1, true⟩
  ∃ t y, exec i s = .next t ∧ t.nextXfer = n + 1 ∧ Map.find t.xfers n = some y ∧
    (y.kind = p.kind ∧ y.x1 = BitVec.ofNat 64 p.x1 ∧ y.x2 = BitVec.ofNat 64 p.x2 ∧ y.rec0 = p.rec0 ∧ y.rec1 = p.rec1 ∧ y.lr = p.lr ∧
      y.ab = p.ab ∧ y.win = p.win ∧ y.tl = p.tl ∧ y.bytes = p.bytes ∧ y.dest = p.dest ∧ y.flag = s.onCur (fun _ st => st.setFlag)) ∧
    (y.team = s.curTeam ∧ y.grid = x.grid ∧ y.port = x.port ∧ y.part = x.part ∧ y.core = x.core ∧ y.pasid = (s.grid x.grid).pasid ∧
      y.secure = s.secure s.curTeam ∧ y.lmod = p.lmod ∧ y.pmod = m.1 ∧ y.tenant = m.2) ∧
    y.num = (x.tls.getD p.tl Timeline.blank).issued + 1 ∧ (t.curT.tls.getD p.tl Timeline.blank).issued = y.num ∧
    (n ∉ (s.core x.core).eq_ → (∀ j ∈ (s.core x.core).eq_, (s.xfer j).started = true) →
      (p.kind = .copyl ∨ s.isDown x.port x.part m.1 = false) →
      (p.kind = .fetch ∨ p.kind = .copyl → (layOf p.rec0).indexed = false) →
      s.publishes t allDies ∧ y.done = false ∧
      (t.core x.core).eq_ = (s.core x.core).eq_ ++ (if y.queued then [n] else []) ∧
      y.queued = (!y.started || y.hasScratch) ∧
      (y.started = true → p.kind ≠ .fetch → p.kind ≠ .put → p.kind ≠ .copyl →
        s.sends t link (if p.kind = .fetchr then .readReq n else .engm n)) ∧
      (∀ j, j < 8 → t.curT.wins.getD j Window.blank =
        let w := x.wins.getD j Window.blank
        if (p.kind = .fetch ∨ p.kind = .fetchr) ∧ j = p.win then { w with outst := w.outst + p.bytes } else w) ∧
      t.curT.abs = x.abs ∧
      s.rel t (fun _ st st' => st'.regs = st.regs ∧ st'.preds = st.preds ∧ st'.flags = (st.raise st.setFlag).flags ∧ st'.acc = st.acc ∧
        ∀ l, l < st.n → st'.pcOf l = if st.ex.getLsbD l then nextSlot st.pc st.litNext else st.pcOf l))

/-- R171, R173, R174, R218, R336 to R346: FETCH, PUT, COPYL, FETCHR and the ENGM commands issue, with the first try that reads their
records or with the records that they have kept, where the records obey the rules, the operands are aligned, their extents pass the checks, the module of a
handle is in the map, the window admits the bytes, the release of GREADY may be made, and the queue has room. The rules for the records of COPYF are log entry 22. -/
def Obligations.EngineIssue : Prop :=
  ∀ (s : State), s.sound → s.onCur (fun _ st => st.accBefore) = false → s.queueFree = true →
    let t := s.curTeam
    let u (srcs : List Reg) : Use := { ctlUse with srcs := srcs, mem := true }
    let pairAt (l : BitVec 5) : Nat := s.curT.lrbase.toNat + 128 * l.toNat
    (∀ (x y : Reg) (l : BitVec 5) (b : BitVec 4) (w : BitVec 3) (rec0 rec1 : List Byte) (i : Instr) (k : XKind),
      x.toNat ≤ 31 → y.toNat ≤ 31 → s.ready (u [x, y]) 0 → rec0.length = 64 → rec1.length = 64 →
      (i, k) ∈ [(Instr.fetch x y l b w, XKind.fetch), (Instr.put x y l b w, XKind.put), (Instr.copyl x y l b, XKind.copyl),
        (Instr.fetchr x y l b w, XKind.fetchr)] →
      let r0 := layOf rec0
      let r1 := layOf rec1
      let x1 := s.ctlValue x
      let x2 := s.ctlValue y
      let bytes := if k = .fetchr then 4 * r0.count else if r0.indexed then 16 * r1.size 0 * r0.count else r0.esz * r0.count
      let base := if k = .fetchr then 0 else x2
      let here := if r0.indexed then extentAt x1 bytes else r1.extent x1
      let there := if r0.indexed then extentAt x2 (16 * r1.size 0 * r1.size 1) else r0.extent base
      let lmod := if k = .fetchr then bits x2 55 50 else there.lmod
      Claims.recordRead s (pairAt l) (rec0 ++ rec1) → recordsOk k r0 r1 x2 = true →
      r0.aligned = true → (r0.indexed = true → x1 % 16 = 0 ∧ x2 % 16 = 0 ∧ r0.ibase % 4 = 0) →
      (r0.indexed = false → base % r0.esz = 0 ∧ x1 % r1.esz = 0 ∧ r1.aligned = true) →
      s.extentFault t (if k = .copyl then [(x1, here), (x2, there)] else [(x1, here)]) (if k = .fetch ∨ k = .put then [there] else [])
        (if r0.indexed then some (r0.extent r0.ibase) else none) = none →
      (k = .fetchr → s.reachable s.curT.port s.curT.part lmod = true) →
      (k = .fetch ∨ k = .fetchr → (s.curT.wins.getD w.toNat Window.blank).admits bytes = true) →
      Claims.issuedAs s i { kind := k, x1 := x1, x2 := x2, lr := l.toNat, ab := b.toNat, win := if k = .copyl then 0 else w.toNat,
                            tl := if k = .fetchr then 2 else 0, rec0 := rec0, rec1 := rec1, bytes := bytes, lmod := lmod, dest := 0 }) ∧
    (∀ (x y : Reg) (b : List Byte), x.toNat ≤ 31 → y.toNat ≤ 31 → s.ready (u [x]) 0 → s.ctlValue x % 64 = 0 → b.length = 576 →
      Claims.recordRead s (s.ctlValue x) b → descriptorOk b = true →
      s.extentFault t [] (((descOf b).bases.take (descOf b).n).map (fun v => extentAt v (max 1 (descOf b).len))) none = none →
      Claims.issuedAs s (.engmGcreate x y)
        (enginePlan .gcreate (s.ctlValue x) 0 0 (bits ((descOf b).bases.headD 0) 55 50) y.toNat b [])) ∧
    (∀ (x y : Reg), x.toNat ≤ 31 → y.toNat ≤ 31 → s.reachable s.curT.port s.curT.part (bits (s.ctlValue y) 55 50) = true →
      (s.ready (u [x, y]) 0 → s.releasableTo .domain = true →
        Claims.issuedAs s (.engmGready x y) (enginePlan .gready (s.ctlValue x) (s.ctlValue y) 0 (bits (s.ctlValue y) 55 50) 0 [] [])) ∧
      (s.ready (u [y]) 0 →
        Claims.issuedAs s (.engmGdestroy y) (enginePlan .gdestroy 0 (s.ctlValue y) 0 (bits (s.ctlValue y) 55 50) 0 [] []))) ∧
    (∀ (x y : Reg) (l : BitVec 5) (b : List Byte), x.toNat ≤ 31 → y.toNat ≤ 31 → s.ready (u [x, y]) 0 →
      let x1 := s.ctlValue x
      let x2 := s.ctlValue y
      (b.length = 64 → Claims.recordRead s (pairAt l + 64) b →
        let r1 := layOf b
        r1.ok false = true → r1.noLb = true → r1.code = 2 → s.extentFault t [] [r1.extent x2] none = none →
        Claims.issuedAs s (.engmFill x y l) (enginePlan .fill x1 x2 l.toNat (r1.extent x2).lmod 0 [] b)) ∧
      (b.length = 128 → Claims.recordRead s (pairAt l) b →
        let r0 := layOf (b.take 64)
        let r1 := layOf (b.drop 64)
        recordsOk .put r0 r1 0 = true → (r0.extent x1).lmod = (r1.extent x2).lmod →
        s.extentFault t [] [r0.extent x1, r1.extent x2] none = none →
        Claims.issuedAs s (.engmCopyf x y l) (enginePlan .copyf x1 x2 l.toNat (r1.extent x2).lmod 0 (b.take 64) (b.drop 64))))

/-- R173, R175 to R177, R347, R348: WINCFG sets ALLOW and CLASS of its window and clears ERR; ABINIT arms a barrier, or fires it
where it expects nothing, and lowers its counter then; no other window or barrier changes. An ALLOW above 0x100000, an EXPECT of
2^32 and above and a counter above 255 trap ILLEGAL_OPERAND. -/
def Sys2Proof.Claims.WindowAndBarrierInit : Prop :=
  ∀ (s : State), s.sound →
    (∀ (x : Reg) (k : BitVec 2) (w : BitVec 3), s.ready { ctlUse with srcs := [x] } 0 → 0x100000 < s.ctlValue x →
      exec (.wincfg x k w) s = .next (s.trap .illegalOperand)) ∧
    (∀ (x y : Reg) (b : BitVec 4), s.ready { ctlUse with srcs := [x, y] } 0 →
      2 ^ 32 ≤ s.ctlValue x ∨ (y ≠ 38 ∧ 255 < s.ctlValue y) → exec (.abinit x y b) s = .next (s.trap .illegalOperand)) ∧
    (∀ (x y : Reg) (b : BitVec 4), s.ready { ctlUse with srcs := [x, y] } 0 → s.ctlValue x = 0 → (y = 38 ∨ s.ctlValue y ≤ 255) →
      ∃ t, exec (.abinit x y b) s = .next t ∧ s.sameBytes t ∧ s.rel t (fun _ st st' => st.moved st') ∧ t.curT.wins = s.curT.wins ∧
        (∀ j, j < 16 → t.curT.abs.getD j Barrier.blank =
          if j = b.toNat then { Barrier.blank with state := .fired, depc := if y = 38 then none else some (s.ctlValue y) }
          else s.curT.abs.getD j Barrier.blank) ∧
        (y = 38 → s.onlyTeam t) ∧
        ∀ j, Map.get (t.part s.curT.port s.curT.part).depc j 0 =
          (let v := Map.get (s.part s.curT.port s.curT.part).depc j 0
           if y ≠ 38 ∧ j = s.ctlValue y ∧ v ≠ 0 then v - 1 else v)) ∧
    (∀ (x : Reg) (k : BitVec 2) (w : BitVec 3), s.ready { ctlUse with srcs := [x] } 0 → s.ctlValue x ≤ 0x100000 →
      ∃ t, exec (.wincfg x k w) s = .next t ∧ s.onlyTeam t ∧ s.rel t (fun _ st st' => st.moved st') ∧ t.curT.abs = s.curT.abs ∧
        ∀ j, j < 8 → t.curT.wins.getD j Window.blank =
          if j = w.toNat then { s.curT.wins.getD j Window.blank with allow := s.ctlValue x, cls := k.toNat, err := false }
          else s.curT.wins.getD j Window.blank) ∧
    (∀ (x y : Reg) (b : BitVec 4), s.ready { ctlUse with srcs := [x, y] } 0 → 1 ≤ s.ctlValue x → s.ctlValue x < 2 ^ 32 →
      (y = 38 ∨ s.ctlValue y ≤ 255) →
      ∃ t, exec (.abinit x y b) s = .next t ∧ s.onlyTeam t ∧ s.rel t (fun _ st st' => st.moved st') ∧ t.curT.wins = s.curT.wins ∧
        ∀ j, j < 16 → t.curT.abs.getD j Barrier.blank =
          if j = b.toNat then
            { Barrier.blank with state := .armed, expect := s.ctlValue x, depc := if y = 38 then none else some (s.ctlValue y) }
          else s.curT.abs.getD j Barrier.blank)

/-- R176, R219, R349, R350: WAITA of a barrier that has fired gives its predicate, true without an error, and sees what the barrier
has counted; of an armed one it is held, of an idle one it traps ILLEGAL_OPERAND, of one with an overrun AB_OVERRUN. WAITT of a
timeline that has reached its target gives 0, or the number and code of the first failure up to it, which it clears, and sees what
its commands wrote; it is held before that, and traps ILLEGAL_OPERAND past what has been issued. -/
def Sys2Proof.Claims.EngineWaits : Prop :=
  (∀ (s : State) (p : BitVec 6) (b : BitVec 4), s.sound → 1 ≤ p.toNat → p.toNat ≤ 31 → s.ready { ctlUse with mem := true } 0 →
    (s.curT.abs.getD b.toNat Barrier.blank).state = .fired → (s.curT.abs.getD b.toNat Barrier.blank).ovr = false →
    ∃ t, exec (.waita p b) s = .next t ∧ s.onlyTeam t ∧ t.curT.abs = s.curT.abs ∧
      s.rel t (fun _ st st' => st.stepped { st' with view := st.view } ∧
        st'.view = st.view.join (s.curT.abs.getD b.toNat Barrier.blank).view ∧
        st.decided st' (s.clkOf s.curTeam + 1) [(p.toNat, fun _ => !(s.curT.abs.getD b.toNat Barrier.blank).err)] st.ex)) ∧
  (∀ (s : State) (p : BitVec 6) (b : BitVec 4), 1 ≤ p.toNat → p.toNat ≤ 31 → s.ready { ctlUse with mem := true } 0 →
    let a := s.curT.abs.getD b.toNat Barrier.blank
    (a.state = .idle → exec (.waita p b) s = .next (s.trap .illegalOperand)) ∧
    (a.state = .armed → exec (.waita p b) s = .next (s.holdSlot [])) ∧
    (a.state = .fired → a.ovr = true → exec (.waita p b) s = .next (s.trap .abOverrun))) ∧
  (∀ (s : State) (x y : Reg) (k : BitVec 2), s.sound → (y.toNat ≤ 31 ∨ y = 38) → k ≠ 3 → s.ready { ctlUse with srcs := [x], mem := true } 0 →
    let l := s.curT.tls.getD k.toNat Timeline.blank
    let n := s.ctlValue x
    let hit : Bool := l.failNo != 0 && decide (l.failNo ≤ n)
    (l.issued < n → exec (.waitt x y k) s = .next (s.trap .illegalOperand)) ∧
    (l.done < n → n ≤ l.issued → exec (.waitt x y k) s = .next (s.holdSlot [])) ∧
    (n ≤ l.done → l.done ≤ l.issued →
    ∃ t, exec (.waitt x y k) s = .next t ∧ s.onlyTeam t ∧
      (t.curT.tls.getD k.toNat Timeline.blank) = (if hit then { l with failNo := 0, failCode := 0 } else l) ∧
      s.rel t (fun w st st' => st.stepped { st' with view := st.view } ∧
        st'.view = st.view.join (s.tlView s.curTeam k.toNat n) ∧
        st.wrote st' (s.clkOf s.curTeam + 1)
          (writesOf (if y = 38 then none else some (.reg y.toNat))
            (fun _ => BitVec.ofNat w (if hit then l.failNo % 2 ^ 56 * 2 ^ 8 + l.failCode else 0))) st.ex)))

/-- R173, R175 to R177, R219, R347 to R350: windows, barriers and timelines. -/
def Obligations.EngineRegisters : Prop := Claims.WindowAndBarrierInit ∧ Claims.EngineWaits

/-! ## Events of streams -/

/-- R199, R180: a quiet group of a resident team that may speculate, with what is due visible, takes its checkpoint, runs on past
its rendezvous, and SPEC rises. That a group which still waits for its checkpoint counts as speculating on its point (`maySpeculate`) is
the model's reading (log entry 19). -/
def Sys2Proof.Claims.CheckpointTaken : Prop :=
  ∀ (s : State) (k g : Nat) (sp : Spec 32), s.sound →
    let x := s.team k
    let st := s.settled k g
    st.spec = some sp → sp.stage = .wanted → sp.rv < 24 → s.quiet k g = true → x.place = .resident →
    s.maySpeculate k g sp.rv = true →
    ∃ t, exec (.specCheckpoint k g) s = .next t ∧ s.onlyOf t k ∧
      let y := (t.team k).grp g
      y.regs = st.regs ∧ y.preds = st.preds ∧ y.blocks = st.blocks ∧
      (∃ z, y.spec = some z ∧ z.stage = .running ∧ z.rv = sp.rv ∧ z.blocks = st.blocks ∧
        z.ckpt = { regs := st.regs, preds := st.preds, latches := st.latches, masks := st.masks, vpc := st.vpc,
                   lst := st.lst, waits := st.waits, goesOn := st.goesOn }) ∧
      (∀ l, l < 32 → st.laneState l = .rvWait → st.waits.getD l 0 = sp.rv → y.laneState l = .ready ∧ y.pcOf l = st.goesOn.getD l 0) ∧
      (t.team k).specCounts.getD 0 0 = min (x.specCounts.getD 0 0 + 1) 0xFFFF

/-- R202, R180: a quiet group that rolls back has the registers, predicates, latches, masks, PCs and lane states of its
checkpoint, waits at its rendezvous again with its arrival standing, and ROLLBACK rises. -/
def Sys2Proof.Claims.RolledBack : Prop :=
  ∀ (s : State) (k g : Nat) (sp : Spec 32), s.sound →
    let x := s.team k
    (x.grp g).spec = some sp → sp.stage = .rolling → sp.passed = false → sp.rv < 24 → s.quiet k g = true →
    ∃ t, exec (.specRollback k g) s = .next t ∧ s.onlyOf t k ∧
      let y := (t.team k).grp g
      y.regs = sp.ckpt.regs ∧ y.preds = sp.ckpt.preds ∧ y.latches = sp.ckpt.latches ∧ y.masks = sp.ckpt.masks ∧
      y.vpc = sp.ckpt.vpc ∧ y.lst = sp.ckpt.lst ∧ y.goesOn = sp.ckpt.goesOn ∧ y.spec = none ∧ y.hold = none ∧
      ((t.team k).rv sp.rv).waiters = (x.rv sp.rv).waiters ++ [.grp g] ∧ ((t.team k).rv sp.rv).arrived = (x.rv sp.rv).arrived ∧
      (t.team k).specCounts.getD 2 0 = min (x.specCounts.getD 2 0 + 1) 0xFFFF

/-- R59, R60: the one GROW that waits on a core gets its blocks when as many are free, is denied when every resident group
waits and they are not, and is urgent after 4,096 cycles; its registers stay. -/
def Sys2Proof.Claims.GrowAnswered : Prop :=
  ∀ (s : State) (c k g since slot : Nat) (n : Byte) (h : Hold), s.growWaits c = [(k, g, since, slot, [n, 2])] →
    let st := (s.team k).grp g
    st.hold = some h →
    let answered (i : Instr) (pair : List Byte) (more : Nat) : Prop :=
      ∃ t, exec i s = .next t ∧ s.onlyOf t k ∧
        let y := (t.team k).grp g
        y.blocks = st.blocks + more ∧ y.hold.map (fun z => z.pair) = some pair ∧ y.regs = st.regs
    ((s.core c).clk < since + 4096 → n.toNat ≤ s.freeBlocks c → answered (.growGrant c) [n, 1] n.toNat) ∧
    ((s.core c).clk < since + 4096 → s.freeBlocks c < n.toNat → s.allGrow c = true → answered (.growGrant c) [n, 0] 0) ∧
    (since + 4096 ≤ (s.core c).clk → answered (.growUrgent c) [n, 2, 1] 0)

/-- R323: the timeout of a waiting WAITEV is noted in the cycle it falls into, when no selected event came before. -/
def Sys2Proof.Claims.WaitTimedOut : Prop :=
  ∀ (s : State) (k : Nat) (h : Hold), (s.team k).ctl.hold = some h → h.pair.length = 8 → ofBytes h.pair ≠ 0 →
    (s.team k).evs = 0 → h.since + ofBytes h.pair ≤ s.clkOf k →
    ∃ t, exec (.waitevTimeout k) s = .next t ∧ s.onlyOf t k ∧
      t.team k = { s.team k with evs := 16, evCycle := h.since + ofBytes h.pair }

/-- R59, R60, R180, R199, R202, R323: checkpoints and rollbacks of speculating groups, answers to GROW, and the timeout of
WAITEV. -/
def Obligations.StreamEvents : Prop :=
  Claims.CheckpointTaken ∧ Claims.RolledBack ∧ Claims.GrowAnswered ∧ Claims.WaitTimedOut

/-! ## Launch queues, dispatch and placement -/

/-- R142, R352: a write to a notify page of an enabled queue interface that keeps its counts in order sets the tail, the level
or the completion head; any other is ignored and counted. -/
def Sys2Proof.Claims.NotifyWrites : Prop :=
  ∀ (s : State) (p f j q : Nat) (v : Word), s.pageQi p f j = some q → (s.qi p q).en = true →
    let x := s.qi p q
    let gives (i : Instr) (y : Qi) : Prop :=
      ∃ t, exec i s = .next t ∧ s.onlyPkg t p ∧ s.sameBytes t ∧ t.qi p q = y ∧ ∀ r, r ≠ q → t.qi p r = s.qi p r
    let ignored : Qi := { x with ignored := min (x.ignored + 1) 0xFFFFFFFF }
    (let ok := (x.tail - x.head).toNat ≤ (v - x.head).toNat ∧ (v - x.head).toNat ≤ 2 ^ x.log2
     (ok → gives (.notifyTailWrite p f j v)
       { x with tail := v, tails := if v = x.tail then x.tails else x.tails ++ [(v, (s.pkg p).pos)] }) ∧
     (¬ ok → gives (.notifyTailWrite p f j v) ignored)) ∧
    ((v.toNat ≤ 7 → gives (.notifyLevelWrite p f j v) { x with level := v.toNat }) ∧
     (7 < v.toNat → gives (.notifyLevelWrite p f j v) ignored)) ∧
    (let ok := (v - x.chead).toNat ≤ (x.written - x.chead).toNat
     (ok → gives (.completionHeadWrite p f j v) { x with chead := v }) ∧ (¬ ok → gives (.completionHeadWrite p f j v) ignored))

/-- R355: a write that sets EN of a queue interface with a ring of 16 to 65,536 entries sets its fields and sets head, tail and completion
head to 0; that the reserved and the written completion entries start at 0 too is the model's choice (log entry 46). -/
def Sys2Proof.Claims.QueueEnabled : Prop :=
  ∀ (s : State) (p q : Nat) (v : Word),
    let x := s.qi p q
    let n := v.toNat
    x.en = false → x.part < 32 → x.fn < 2048 → x.log2 < 32 → bits n 31 31 = 1 → 4 ≤ bits n 4 0 → bits n 4 0 ≤ 16 →
    ∃ t, exec (.qicfgWrite p q v) s = .next t ∧ s.onlyPkg t p ∧ s.sameBytes t ∧ (∀ r, r ≠ q → t.qi p r = s.qi p r) ∧
      t.qi p q = { x with en := true, part := bits n 26 22, fn := bits n 21 11, log2 := bits n 4 0,
                          head := 0, tail := 0, chead := 0, reserved := 0, written := 0, tails := [] }

/-- R47, R140, R142, R160, R351: a queue interface that may fetch reserves a completion entry and puts the packet at its head, with
the level as PRIO, at the end of the launch queue of its partition, at depth 1; it reads the packet with the requester ID of the
function that owns it. -/
def Sys2Proof.Claims.PacketFetched : Prop :=
  ∀ (s : State) (p q : Nat), s.mayFetch p q = true →
    let x := s.qi p q
    let raw := s.host.readN (x.sub.toNat + 64 * (x.head.toNat % 2 ^ x.log2)) 64
    ∃ t y, exec (.qiPacketFetch p q) s = .next t ∧ { t with pkgs := s.pkgs, dma := s.dma } = s ∧ (∀ r, r ≠ p → t.pkg r = s.pkg r) ∧
      s.sameBytes t ∧
      t.dma = s.dma ++ [{ port := p, fn := x.fn, write := false, addr := x.sub.toNat + 64 * (x.head.toNat % 2 ^ x.log2), len := 64 }] ∧
      (t.part p x.part).queue = (s.part p x.part).queue ++ [y] ∧
      y.packet = putBytes raw 24 (bytesOf 1 (pk raw 24 1 / 8 * 8 + x.level)) ∧ y.depth = 1 ∧ y.parent = none ∧ y.qi = some q ∧ y.fn = x.fn ∧
      (t.qi p q).head = x.head + 1 ∧ (t.qi p q).reserved = x.reserved + 1 ∧ (t.qi p q).tail = x.tail

/-- R142, R355, R140: notify pages, QICFG and the fetch of launch packets. That EN sets the counts of reserved and written completion entries to
0 is the model's choice (log entry 46). -/
def Obligations.QueueInterfaces : Prop := Claims.NotifyWrites ∧ Claims.QueueEnabled ∧ Claims.PacketFetched

/-- R40, R41, R51, R141: the packet that the dispatcher takes, not refused, becomes a grid under the next GRID number, on the placement
list; nothing is placed yet. One that names several packages goes to the mailbox of its anchor module too, where that has room, and its
grid has no generation yet. -/
def Sys2Proof.Claims.PacketAccepted : Prop :=
  ∀ (s : State) (p n : Nat) (q : Queued), (s.part p n).front = some q → s.refusal p n q = none →
    let several : Prop := bits (pk q.packet 24 4) 17 12 ≠ 0 ∧ q.copy = none
    let m := (((s.part p n).module 0).map (fun e => e.1)).getD 0
    (several → (s.mod m).mail.length + (s.mod m).mailDue < 64) →
    ∃ t, exec (.gridDispatch p n) s = .next t ∧ s.sameBytes t ∧ t.teams = s.teams ∧ t.nextGrid = s.nextGrid + 1 ∧
      (several → s.sends t ⟨p, mgmt, m, true⟩ (.span q.packet n p (s.part p n).gridCtr) ∧
        (t.grid s.nextGrid).span = some (0, p, m)) ∧ (¬ several → (t.grid s.nextGrid).span = q.copy) ∧
      (t.part p n).queue = (s.part p n).queue.filter (fun r => r.order != q.order) ∧
      (t.part p n).gridCtr = nextGridNumber (s.part p n).gridCtr ∧ (t.part p n).placement.contains s.nextGrid = true ∧
      (∀ k, k ≠ s.nextGrid → t.grid k = s.grid k) ∧
      let g := t.grid s.nextGrid
      g.num = (s.part p n).gridCtr ∧ g.depth = q.depth ∧ g.parent = q.parent ∧ g.packet = q.packet ∧ g.pasid = q.pasid ∧
      g.placed = 0 ∧ g.retired = false ∧ g.status = none

/-- R40, R51, R143: a packet that the dispatcher refuses leaves the queue, no grid begins, and its queue interface gets a completion
record with the status and the refused flag; the mailbox of a copy gets its refusal. -/
def Sys2Proof.Claims.PacketRefused : Prop :=
  ∀ (s : State) (p n : Nat) (q : Queued) (st : Nat), s.sound → (s.part p n).front = some q → s.refusal p n q = some st →
    (∀ g i m, q.copy = some (g, i, m) → ∃ t, exec (.gridDispatch p n) s = .next t ∧ t.grids = s.grids ∧ t.teams = s.teams ∧ s.sameBytes t ∧
      (t.part p n).queue = (s.part p n).queue.filter (fun r => r.order != q.order) ∧
      s.sends t ⟨p, mgmt, m, true⟩ (.refuse g p)) ∧
    ∀ k, q.copy = none → q.qi = some k →
    let x := s.qi p k
    let w := x.written.toNat
    let size := 2 ^ x.log2
    let base := x.comp.toNat + 32 * (w % size)
    let r := recordBytes 0xFFFFFFFF k st ((if w / size % 2 = 0 then 0x80 else 0) + 1) (pk q.packet 56 8) s.now
    ∃ t, exec (.gridDispatch p n) s = .next t ∧ t.grids = s.grids ∧ t.teams = s.teams ∧
      (t.part p n).queue = (s.part p n).queue.filter (fun r => r.order != q.order) ∧ (t.qi p k).written = x.written + 1 ∧
      ∀ z, t.byte z = match z with
        | .host a => if base ≤ a ∧ a < base + 32 then r.getD (a - base) 0 else s.byte z
        | _ => s.byte z

/-- R26, R42, R85, R160: the next team of the first grid of the list goes to the core that the distributor picks: its control
thread and its groups stand at their entries with the grid's arguments, all lanes ready, all registers else 0. -/
def Sys2Proof.Claims.TeamPlaced : Prop :=
  ∀ (s : State) (p n g c : Nat) (rest : List Nat), (s.part p n).placement = g :: rest → s.waiting g = [] →
    let x := s.grid g
    x.placed < x.nteams → x.span = none → x.cohort = false → s.pickCore p n x.needs = some c →
    ∃ t, exec (.teamPlacement p n) s = .next t ∧ t.nextTeam = s.nextTeam + 1 ∧ (∀ k, k ≠ s.nextTeam → t.team k = s.team k) ∧
      (t.grid g).placed = x.placed + 1 ∧
      let y := t.team s.nextTeam
      y.place = .resident ∧ y.core = c ∧ y.grid = g ∧ y.tid = x.placed ∧
      y.ctl.laneState 0 = .ready ∧ y.ctl.pcOf 0 = x.field 8 4 ∧
      (∀ r, y.ctl.reg r 0 = if r = 0 then BitVec.ofNat 64 (x.field 32 4) else if r = 1 then BitVec.ofNat 64 (x.field 36 4)
        else if r = 2 then BitVec.ofNat 64 (x.field 40 4) else 0) ∧
      (∀ i, i < x.groups → (y.grp i).blocks = x.blocks ∧ ∀ l, l < 32 → (y.grp i).laneState l = .ready ∧ (y.grp i).pcOf l = x.field 12 4 ∧
        ∀ r, (y.grp i).reg r l = 0) ∧
      y.scratch = [] ∧ y.tiles = [] ∧ y.acc = []

/-- R41, R54, R57: the waiting saved team of the lowest `tid` is resident again on the core that the distributor picks, with
its memories and its registers, and its matrix steps enter the queue of that core. -/
def Sys2Proof.Claims.TeamRestored : Prop :=
  ∀ (s : State) (p n g k c : Nat) (rest more : List Nat), (s.part p n).placement = g :: rest → s.waiting g = k :: more →
    s.pickCore p n (s.savedNeeds k) = some c → s.xfers = [] → s.fars = [] → (s.core c).eq_ = [] →
    ∃ t, exec (.teamRestore p n) s = .next t ∧ s.sameBytes t ∧ (∀ j, j ≠ k → t.team j = s.team j) ∧
      (t.core c).mq = (s.core c).mq ++ (s.team k).mats ∧
      let y := t.team k
      y.place = .resident ∧ y.core = c ∧ y.listed = false ∧ y.tid = (s.team k).tid ∧
      y.ctl.regs = (s.team k).ctl.regs ∧ y.ctl.halted = false ∧
      ∀ i, (y.grp i).regs = ((s.team k).grp i).regs ∧ (y.grp i).vpc = ((s.team k).grp i).vpc

/-- R28: a team whose streams have exited, with no command, access or reservation left, retires, and its core keeps no work of
it. -/
def Sys2Proof.Claims.TeamRetired : Prop :=
  ∀ (s : State) (k : Nat),
    let x := s.team k
    x.place = .resident → x.ctl.live = 0 → x.grps.all (fun e => e.2.live == 0) = true → x.tls.all (fun l => l.done == l.issued) = true →
    x.ctl.acc = [] → x.grps.all (fun e => e.2.acc.isEmpty) = true → s.fars.any (fun e => e.2.team == k && e.2.ret) = false →
    ∃ t, exec (.teamRetire k) s = .next t ∧ s.sameBytes t ∧ (t.team k).place = .retired ∧ (∀ j, j ≠ k → t.team j = s.team j) ∧
      (∀ e ∈ (t.core x.core).mq, e.team ≠ k) ∧ t.grids = s.grids

/-- R48, R50, R143, R161: a grid that is over, of span 1, retires with its status, COMPLETE where it has none. Its record of 32 bytes
goes to the next entry of the completion ring of its queue interface, with its launch tag and the phase of the pass; that of a child goes to
its CREC, with number 0xFFFF and phase 1; with neither, none is written. -/
def Sys2Proof.Claims.GridRetired : Prop :=
  ∀ (s : State) (g : Nat), s.gridOver g = true → (s.grid g).span = none →
    let x := s.grid g
    let st := x.status.getD stComplete
    let ended (t : State) : Prop :=
      exec (.gridRetire g) s = .next t ∧ (t.grid g).retired = true ∧ (t.grid g).status = some st ∧ ∀ k, k ≠ g → t.grid k = s.grid k
    let image (qi flags tag : Nat) : List Byte :=
      bytesOf 4 x.num ++ bytesOf 2 qi ++ bytesOf 1 st ++ bytesOf 1 flags ++ bytesOf 8 tag ++ bytesOf 8 s.now ++ copies 8 0
    (x.qi = none → x.crec = 0 → ∃ t, ended t ∧ t.host = s.host) ∧
    (∀ q, x.qi = some q →
      let y := s.qi x.port q
      let n := 2 ^ y.log2
      let a := y.comp.toNat + 32 * (y.written.toNat % n)
      ∃ t, ended t ∧ (t.qi x.port q).written = y.written + 1 ∧
        ∀ b, t.byte (.host b) =
          if a ≤ b ∧ b < a + 32 then
            (image q (if y.written.toNat / n % 2 = 0 then 0x80 else 0) (x.field 56 8)).getD (b - a) 0
          else s.byte (.host b)) ∧
    (∀ a sec, x.qi = none → x.crec ≠ 0 → (s.part x.port x.part).near (x.crec - 0x40000000) = some (a, sec) →
      ∃ t, ended t ∧ t.host = s.host ∧ ∀ i, i < 32 → t.byte (.near x.port (a + i)) = (image 0xFFFF 0x80 x.crec).getD i 0)

/-- R26, R28, R40 to R42, R48, R57, R85, R143: dispatch, placement, restores and the end of teams and grids. -/
def Obligations.GridLife : Prop :=
  Claims.PacketAccepted ∧ Claims.PacketRefused ∧ Claims.TeamPlaced ∧ Claims.TeamRestored ∧ Claims.TeamRetired ∧ Claims.GridRetired

/-! ## Launches of several packages -/

/-- R51, R141: the mailbox of a module takes the oldest span packet into a free entry under the next generation, and sends a
copy to every package that it names. -/
def Sys2Proof.Claims.SpanReplicated : Prop :=
  ∀ (s : State) (m p n part port grid : Nat) (b : List Byte),
    s.message (.mod m) (fun x => match x with | .span _ _ _ _ => true | _ => false) = some (p, n, .span b part port grid) →
    (s.mod m).mail.length < 64 →
    ∃ t, exec (.mailboxReplicate m) s = .next t ∧ s.sameBytes t ∧
      (t.mod m).mail = (s.mod m).mail ++ [{ g := (s.mod m).gNext, packet := b, part := part, port := port, grid := grid, acks := [], start := none, ended := false }] ∧
      (t.mod m).gNext = (s.mod m).gNext + 1 ∧
      ∀ i ∈ spanPorts b, s.sends t ⟨i, mgmt, m, false⟩ (.copy (s.mod m).gNext part port grid b)

/-- R51, R52, R141, R183: an acknowledgement is noted, with its time; the last one of a generation sends go to every package of it, a
refusal or 100 µs without all of them abort: its mailbox entry, with the acknowledgements that came, is over, and is free when those
messages have been sent; the 100 µs start when its copies have been sent; an acknowledgement of a generation that is over is counted. A
refusal of one changes nothing (the model's reading: log entry 35), and a message to a package to which nothing can be sent counts as sent
(the model's choice: log entry 46). -/
def Sys2Proof.Claims.SpanDecided : Prop :=
  ∀ (s : State) (m p n g port : Nat),
    let decided (i : Instr) (e : MailEntry) (msg : Msg) : Prop :=
      ∃ t, exec i s = .next t ∧ s.sameBytes t ∧
        (t.mod m).mail = (s.mod m).mail.map (fun f => if f.g = e.g then { e with ended := true } else f) ∧
        ∀ i ∈ spanPorts e.packet, s.sends t ⟨i, mgmt, m, false⟩ msg
    let acked (e : MailEntry) (i : Nat) : Bool := e.acks.any (fun a => a.1 == i)
    (∀ e, s.message (.mod m) (fun x => match x with | .ack _ _ => true | _ => false) = some (p, n, .ack g port) →
      (s.mod m).entry g = some e → (spanPorts e.packet).all (fun i => i == port || acked e i) = false → acked e port = false →
      ∃ t, exec (.spanAck m) s = .next t ∧ s.sameBytes t ∧
        (t.mod m).entry g = some { e with acks := e.acks ++ [(port, s.now)] } ∧ (∀ h, h ≠ g → (t.mod m).entry h = (s.mod m).entry h) ∧
        (t.mod m).counts = (s.mod m).counts ∧ ∀ l, (t.link l).outq = (s.link l).outq) ∧
    (s.message (.mod m) (fun x => match x with | .refuse _ _ => true | _ => false) = some (p, n, .refuse g port) → (s.mod m).entry g = none →
      ∃ t, exec (.spanRefuse m) s = .next t ∧ s.sameBytes t ∧ (t.mod m).mail = (s.mod m).mail ∧ (t.mod m).counts = (s.mod m).counts) ∧
    (∀ e, s.message (.mod m) (fun x => match x with | .ack _ _ => true | _ => false) = some (p, n, .ack g port) →
      (s.mod m).entry g = some e → (spanPorts e.packet).all (fun i => i == port || acked e i) = true →
      decided (.spanAck m) { e with acks := if acked e port then e.acks else e.acks ++ [(port, s.now)] } (.go g)) ∧
    ((∀ x ∈ s.pkgs, x.2.spansHeld = []) → ∀ f, f ∈ ((s.mailClear m).mod m).mail ↔
      f ∈ (s.mod m).mail ∧ ∀ e ∈ (s.mod m).mail, e.ended = true → s.mailUnsent m e = false → e.g ≠ f.g) ∧
    (∀ e, s.message (.mod m) (fun x => match x with | .refuse _ _ => true | _ => false) = some (p, n, .refuse g port) →
      (s.mod m).entry g = some e → decided (.spanRefuse m) e (.abort g)) ∧
    (∀ e t0, (s.mod m).entry g = some e → e.start = some t0 → t0 + 100000 ≤ s.now → decided (.mailboxTimeout m g) e (.abort g)) ∧
    ((s.mailStart m).mod m).mail =
      (s.mod m).mail.map (fun e => if e.start = none ∧ s.mailCopying m e = false then { e with start := some s.now } else e) ∧
    (∀ e, (s.mod m).entry g = some e → (∀ t0, e.start = some t0 → s.now < t0 + 100000) → exec (.mailboxTimeout m g) s = .next s) ∧
    (s.message (.mod m) (fun x => match x with | .ack _ _ => true | _ => false) = some (p, n, .ack g port) → (s.mod m).entry g = none →
      ∃ t, exec (.spanAck m) s = .next t ∧ s.sameBytes t ∧ (t.mod m).mail = (s.mod m).mail ∧
        Map.get (t.mod m).counts cntMailDiscard 0 = min (Map.get (s.mod m).counts cntMailDiscard 0 + 1) 0xFFFFFFFF)

/-- R51, R52, R140, R183: a package that cannot take its copy (`takesCopy`, in part the model's choice: log entry 46) refuses it; one that can puts it on its launch queue where more than 64
places are free, and lets it wait where not; the copy of the issuing package is the grid that waits for it. A go starts the reserved
teams of the copy, and without a copy is counted at the module; an abort ends the copy, PARTIAL, or takes it from the launch queue,
and one without a copy is kept; a report of a retired copy is forwarded to the issuing package, which notes it. -/
def Sys2Proof.Claims.SpanCopies : Prop :=
  ∀ (s : State) (p m n g : Nat),
    (∀ part port grid b, s.message (.pkg p) (fun x => match x with | .copy _ _ _ _ _ => true | _ => false) = some (m, n, .copy g part port grid b) →
      port ≠ p → (s.pkg p).aborts.contains (m, g) = false →
      (s.takesCopy p m part port b = false →
        ∃ t, exec (.spanCopyReceive p) s = .next t ∧ s.sameBytes t ∧ t.grids = s.grids ∧ s.sends t ⟨p, mgmt, m, true⟩ (.refuse g p)) ∧
      (s.takesCopy p m part port b = true → (s.part p part).queue.length < 448 →
        ∃ t q, exec (.spanCopyReceive p) s = .next t ∧ s.sameBytes t ∧ t.grids = s.grids ∧
          (t.part p part).queue = (s.part p part).queue ++ [q] ∧ q.packet = b ∧ q.copy = some (g, port, m) ∧ q.qi = none ∧
          q.parent = none ∧ q.depth = 1) ∧
      (s.takesCopy p m part port b = true → 448 ≤ (s.part p part).queue.length → exec (.spanCopyReceive p) s = .next s)) ∧
    (∀ part grid b k x, s.message (.pkg p) (fun x => match x with | .copy _ _ _ _ _ => true | _ => false) = some (m, n, .copy g part p grid b) →
      s.grids.find? (fun e => e.2.port == p && e.2.part == part && e.2.num == grid && e.2.span == some (0, p, m) && !e.2.retired) =
        some (k, x) → s.grid k = x → (s.pkg p).aborts.contains (m, g) = false → x.status = none →
      ∃ t, exec (.spanCopyReceive p) s = .next t ∧ s.sameBytes t ∧ t.grid k = { x with span := some (g, p, m) } ∧
        (t.part p part).placement = (s.part p part).placement ∧ ∀ j, j ≠ k → t.grid j = s.grid j) ∧
    (s.message (.pkg p) (fun x => match x with | .go _ => true | _ => false) = some (m, n, .go g) → s.copyOf p m g = none →
      ∃ t, exec (.spanGo p) s = .next t ∧ s.sameBytes t ∧ t.grids = s.grids ∧ t.teams = s.teams ∧
        Map.get (t.mod m).counts cntMailDiscard 0 = min (Map.get (s.mod m).counts cntMailDiscard 0 + 1) 0xFFFFFFFF) ∧
    (∀ k, s.message (.pkg p) (fun x => match x with | .abort _ => true | _ => false) = some (m, n, .abort g) → s.copyOf p m g = some k →
      ∃ t, exec (.spanAbort p) s = .next t ∧ (t.grid k).retired = true ∧ (t.grid k).status = some stPartial) ∧
    (∀ j x, s.message (.pkg p) (fun x => match x with | .abort _ => true | _ => false) = some (m, n, .abort g) → s.copyOf p m g = none →
      let queued (q : Queued) : Bool := q.copy.any (fun c => c.1 == g && c.2.2 == m)
      (s.pkg p).parts.find? (fun e => e.2.queue.any queued) = some (j, x) →
      ∃ t, exec (.spanAbort p) s = .next t ∧ s.sameBytes t ∧ t.grids = s.grids ∧
        (t.part p j).queue = x.queue.filter (fun q => !queued q) ∧ (t.pkg p).aborts = (s.pkg p).aborts) ∧
    (∀ k, s.message (.pkg p) (fun x => match x with | .go _ => true | _ => false) = some (m, n, .go g) → s.copyOf p m g = some k →
      ∃ t, exec (.spanGo p) s = .next t ∧ s.sameBytes t ∧ (t.grid k).go = true ∧
        ∀ i ∈ s.teamsOf k, (s.team i).place = .reserved → (t.team i).place = .resident) ∧
    (s.message (.pkg p) (fun x => match x with | .abort _ => true | _ => false) = some (m, n, .abort g) → s.copyOf p m g = none →
      (s.pkg p).parts.find? (fun e => e.2.queue.any (fun q => q.copy.any (fun c => c.1 == g && c.2.2 == m))) = none →
      ∃ t, exec (.spanAbort p) s = .next t ∧ s.sameBytes t ∧ t.grids = s.grids ∧ (t.pkg p).aborts = (m, g) :: (s.pkg p).aborts) ∧
    (∀ issuer port st,
      (s.message (.mod m) (fun x => match x with | .retired _ _ _ _ => true | _ => false) = some (p, n, .retired g issuer port st) →
        ∃ t, exec (.spanRetired true m) s = .next t ∧ s.sameBytes t ∧ s.sends t ⟨issuer, mgmt, m, false⟩ (.retired g issuer port st)) ∧
      (∀ k, s.message (.pkg p) (fun x => match x with | .retired _ _ _ _ => true | _ => false) = some (m, n, .retired g issuer port st) →
        s.copyOf p m g = some k →
        ∃ t, exec (.spanRetired false p) s = .next t ∧ s.sameBytes t ∧ (t.grid k).reports = (s.grid k).reports ++ [(port, st)]))

/-- R51, R52, R141: the mailbox and the copies of a launch of several packages. The model's are that a refusal of a generation that is over
is not counted and that the copy of the issuing package is not checked again (log entry 35), and whose function takes a copy and when a
message counts as sent (log entry 46). -/
def Obligations.SpanLaunch : Prop := Claims.SpanReplicated ∧ Claims.SpanDecided ∧ Claims.SpanCopies

/-! ## Preemption -/

/-- R53, R56, R58, R103, R364: a request names a resident team with its reason and its kind; an urgent one takes the place of a
cooperative one, and a cooperative one of a team whose PPTTO is 0 is urgent. -/
def Sys2Proof.Claims.PreemptionRequested : Prop :=
  ∀ (s : State) (k : Nat), (s.team k).place = .resident →
    let asked (i : Instr) (coop : Bool) (reason : Nat) : Prop :=
      ∃ t, exec i s = .next t ∧ s.sameBytes t ∧ (∀ j, j ≠ k → t.team j = s.team j) ∧
        t.team k = { s.team k with preempt := some { coop := coop, reason := reason, since := s.now, at_ := s.clkOf k } }
    (∀ p n core slot c, s.preempting p = false → (coresOf (s.pkg p) p n)[core]? = some c →
      (s.teamsAt c).find? (fun t => (s.team t).slot == slot && (s.team t).place == .resident && (s.team t).part == n) = some k →
      (((s.team k).preempt = none ∨ (s.team k).preempt.any (fun x => x.coop) = true) → asked (.preemptUrgent p n core slot) false 0) ∧
      ((s.team k).preempt = none → (s.team k).pptto ≠ 0 → asked (.preemptCooperative p n core slot) true 1) ∧
      ((s.team k).preempt = none → (s.team k).pptto = 0 → asked (.preemptCooperative p n core slot) false 0)) ∧
    (∀ p n, s.expired p n = some k → (s.team k).preempt = none → asked (.sliceExpiry p n) false 0) ∧
    ((s.team k).preempt = none → s.stuckOnFault k = true → 64 ≤ (s.team k).stuck → asked (.faultSave k) false 2)

/-- R53, R56: the control thread of a team that is being preempted halts between its packets; past PPTTO, a cooperative
preemption with a group that has not halted becomes urgent. -/
def Sys2Proof.Claims.StreamsHalt : Prop :=
  ∀ (s : State) (k : Nat) (p : Preempt), (s.team k).preempt = some p →
    let halts (i : Instr) : Prop :=
      ∃ t, exec i s = .next t ∧ s.onlyOf t k ∧ (t.team k).ctl.halted = true ∧
        { (t.team k).ctl with halted := (s.team k).ctl.halted, light := (s.team k).ctl.light } = (s.team k).ctl
    ((s.team k).ctl.pkt = none → (s.team k).ctl.live ≠ 0 →
      (p.coop = false → halts (.urgentPreempt k)) ∧ (p.coop = true → halts (.cooperativePreempt k))) ∧
    (p.coop = true → p.since + (s.team k).pptto.toNat ≤ s.now → (s.team k).grps.any (fun e => e.2.live != 0 && !e.2.halted) = true →
      ∃ t, exec (.pptTimeout k) s = .next t ∧ s.onlyOf t k ∧
        t.team k = { s.team k with preempt := some { p with coop := false, reason := 0, at_ := s.clkOf k } })

/-- R54, R107, R120, R232, R364: with its streams halted, its requests freeze; quiet then, and with room for its frame, a team is saved:
its frame, with version 1 and the reason, stands in the save area of its partition, its core keeps no matrix step of it, and BUSY of
PREEMPT that stood for it is 0. Till it is quiet nothing but its requests changes. -/
def Sys2Proof.Claims.TeamSaved : Prop :=
  ∀ (s : State) (k o : Nat) (p : Preempt), s.sound → (s.team k).preempt = some p → p.coop = false → p.reason < 256 →
    (s.team k).place = .resident → (s.team k).standing = true →
    let x := s.team k
    let iced := s.freezeRequests k
    (iced.saveReady k = false → exec (.teamSave k) s = .next iced) ∧
    (iced.saveReady k = true →
    let frozen := (iced.forgetReplies k).setTeam k { x with ctl := x.ctl.freeze, grps := x.grps.map (fun e => (e.1, e.2.freeze)) }
    let len := (frozen.frameImage k p (x.ctl.hold.isSome && x.ctl.handler.isNone)).length
    let base := ((place (s.part x.port x.part).saveExt o).getD (0, false)).1
    x.errs = [] → (s.part x.port x.part).frameAt len = some o →
    ∃ t, exec (.teamSave k) s = .next t ∧ (t.team k).place = .saved o p.reason ∧ (t.team k).preempt = none ∧
      (t.part x.port x.part).frames = (s.part x.port x.part).frames ++ [(o, len, k)] ∧
      (t.core x.core).mq = (s.core x.core).mq.filter (fun e => e.team != k) ∧
      (t.team k).mats = (s.core x.core).mq.filter (fun e => e.team == k) ∧
      t.byte (.near x.port base) = 1 ∧ t.byte (.near x.port (base + 4)) = BitVec.ofNat 8 p.reason ∧
      (t.pkg x.port).preemptBusy = (if (s.pkg x.port).preemptBusy = some k then none else (s.pkg x.port).preemptBusy) ∧
      (∀ i, (s.xfer i).team = k → (t.xfer i).req = (s.xfer i).req.map (fun r =>
        if r.state = .active then { r with state := .frozen, frozenAt := s.now, deferred := false } else r)) ∧
      ∀ z, (∀ a, z ≠ .near x.port a) → t.byte z = s.byte z)

/-- R53, R54, R56, R58, R107, R120, R232, R364: requests to preempt a team, its halt and its save. That an urgent request takes the place
of a cooperative one, that a team has one preemption at a time, and that a group whose code line is missing does not qualify are the
model's (log entry 24). -/
def Obligations.Preemption : Prop := Claims.PreemptionRequested ∧ Claims.StreamsHalt ∧ Claims.TeamSaved

/-! ## Faults, fences, code lines, errors -/

/-- R144, R167, R183: the record of the oldest event that waits goes to the free place at the tail of its fault queue, with the time,
in the queue and in host memory. Where no place is free, a correctable record is dropped and counted, one of a held access waits,
and a fatal one takes the place of the oldest correctable one between head and tail. -/
def Sys2Proof.Claims.FaultRecorded : Prop :=
  ∀ (s : State) (p n : Nat) (r : FaultRec) (rest : List FaultRec), s.sound →
    let x := s.part p n
    let y : FaultRec := { r with time := s.now }
    let written (k : Nat) (t : State) : Prop :=
      exec (.faultRecordWrite p n) s = .next t ∧ (t.part p n).fqWait = rest ∧ Map.find (t.part p n).fqRecs k = some y ∧
      ∀ z, t.byte z = match z with
        | .host a => if x.fqBase.toNat + 64 * k ≤ a ∧ a < x.fqBase.toNat + 64 * k + 64 then y.bytes.getD (a - (x.fqBase.toNat + 64 * k)) 0
            else s.byte z
        | _ => s.byte z
    (x.fqWait = [] → exec (.faultRecordWrite p n) s = .next s) ∧
    (x.fqWait = r :: rest → x.tailFree = true →
      ∃ t, written (x.fqTail.toNat % 256) t ∧ (t.part p n).fqTail = x.fqTail + 1) ∧
    (x.fqWait = r :: rest → x.tailFree = false → r.correctable = true →
      ∃ t, exec (.faultRecordWrite p n) s = .next t ∧ s.onlyPart t p n ∧
        t.part p n = { x.count cntFaultDropped with fqWait := rest }) ∧
    (x.fqWait = [r] → x.tailFree = false → r.correctable = false → r.held ≠ none ∨ x.oldestCorrectable = none →
      exec (.faultRecordWrite p n) s = .next s) ∧
    (∀ k, x.fqWait = r :: rest → x.tailFree = false → r.correctable = false → r.held = none → x.oldestCorrectable = some k →
      ∃ t, written k t ∧ (t.part p n).fqTail = x.fqTail)

/-- R144, R146, R183, R362: a head moves forward up to the tail; a write that would move it elsewhere is counted; an OVERFLOW
record gives the time and the number of lost events. -/
def Sys2Proof.Claims.HeadsMove : Prop :=
  ∀ (s : State) (p n : Nat) (v : Word),
    let x := s.part p n
    let counted (i : Instr) : Prop := ∃ t, exec i s = .next t ∧ s.onlyPart t p n ∧ t.part p n = x.count cntHeadIgnored
    let fq : Prop := (v - x.fqHead).toNat ≤ (x.fqTail - x.fqHead).toNat
    let er : Prop := (v - x.erHead).toNat ≤ (x.erTail - x.erHead).toNat
    let base := x.erBase.toNat + 32 * (x.erTail.toNat % 256)
    (fq → ∃ t, exec (.faultQueueHeadWrite p n v) s = .next t ∧ s.onlyPart t p n ∧ t.part p n = { x with fqHead := v }) ∧
    (¬ fq → counted (.faultQueueHeadWrite p n v)) ∧
    (er → x.erLost = 0 →
      ∃ t, exec (.eventRingHeadWrite p n v) s = .next t ∧ s.onlyPart t p n ∧ t.part p n = { x with erHead := v }) ∧
    (er → x.erLost ≠ 0 → 256 ≤ (x.erTail - v).toNat →
      ∃ t, exec (.eventRingHeadWrite p n v) s = .next t ∧ s.onlyPart t p n ∧ t.part p n = { x with erHead := v }) ∧
    (er → x.erLost ≠ 0 → (x.erTail - v).toNat < 256 → s.sound →
      ∃ t, exec (.eventRingHeadWrite p n v) s = .next t ∧ (t.part p n).erHead = v ∧ (t.part p n).erLost = 0 ∧
        (t.part p n).erTail = x.erTail + 1 ∧ t.host.read base = 8 ∧ t.host.num (base + 16) 8 = s.now % 2 ^ 64 ∧
        t.host.num (base + 24) 8 = x.erLost % 2 ^ 64) ∧
    (¬ er → counted (.eventRingHeadWrite p n v))

/-- R58, R127, R145, R183: a replay or a failure that names no held record is counted. A failed command takes status TRANSLATION,
the grid of a failed far atomic or code fetch ends FAULTED, and the record is held no more. A replay that faults again raises the
count of its record, and at 4 the grid ends FAULTED; that of a fetch which translates goes on with its chunks. -/
def Sys2Proof.Claims.HeldAccesses : Prop :=
  ∀ (s : State) (p n i : Nat) (w : Walk),
    let x := s.part p n
    (x.heldAt i = none → ∀ a ∈ [Instr.replayControlReplay p n i w, Instr.replayControlFail p n i],
      ∃ t, exec a s = .next t ∧ s.onlyPart t p n ∧ t.part p n = x.count cntReplayIgnored) ∧
    (∀ r k, x.heldAt i = some (r, .command k) → (s.xfer k).done = false → (s.xfer k).status = none →
      ∃ t, exec (.replayControlFail p n i) s = .next t ∧ (t.xfer k).status = some xsTranslation ∧
        Map.find (t.part p n).fqRecs (i % 256) = some { r with held := none }) ∧
    (∀ r k st, x.heldAt i = some (r, .command k) → (s.xfer k).done = false → (s.xfer k).status = none →
      s.unitVerdict k r.page w = .fault st → r.count + 1 < 4 →
      ∃ t, exec (.replayControlReplay p n i w) s = .next t ∧ t.xfer k = s.xfer k ∧
        Map.find (t.part p n).fqRecs (i % 256) = some { r with count := r.count + 1 }) ∧
    (∀ r k f, x.heldAt i = some (r, .far k) → Map.find s.fars k = some f → (s.grid f.grid).retired = false →
      ∃ t, exec (.replayControlFail p n i) s = .next t ∧ Map.find t.fars k = none ∧
        Map.find (t.part p n).fqRecs (i % 256) = some { r with held := none } ∧
        (t.grid f.grid).status = some ((s.grid f.grid).status.getD stFaulted)) ∧
    (∀ r k c line m ten sec, x.heldAt i = some (r, .code k c line m ten sec) → (s.grid k).retired = false →
      ∃ t, exec (.replayControlFail p n i) s = .next t ∧ Map.find (t.part p n).fqRecs (i % 256) = some { r with held := none } ∧
        (t.grid k).status = some ((s.grid k).status.getD stFaulted)) ∧
    (∀ r k st, x.heldAt i = some (r, .command k) → (s.xfer k).done = false → (s.xfer k).status = none →
      s.unitVerdict k r.page w = .fault st → 4 ≤ r.count + 1 → (s.grid (s.xfer k).grid).retired = false →
      ∃ t, exec (.replayControlReplay p n i w) s = .next t ∧
        Map.find (t.part p n).fqRecs (i % 256) = some { r with count := r.count + 1, held := none } ∧
        (t.grid (s.xfer k).grid).status = some ((s.grid (s.xfer k).grid).status.getD stFaulted)) ∧
    (∀ r k pa, x.heldAt i = some (r, .command k) → (s.xfer k).kind = .fetch → (s.xfer k).done = false → (s.xfer k).status = none →
      s.unitVerdict k r.page w = .ok pa → (∀ j ∈ (s.core (s.team (s.xfer k).team).core).eq_, (s.xfer j).started = true) →
      ∃ t, exec (.replayControlReplay p n i w) s = .next t ∧ Map.find (t.part p n).fqRecs (i % 256) = some { r with held := none } ∧
        (t.xfer k).held = (s.xfer k).held.filter (fun h => h.2 != r.page) ∧
        ∀ j, j ∈ (t.xfer k).todo ↔
          j ∈ (s.xfer k).todo ∨ ((j, r.page) ∈ (s.xfer k).held ∧ ∀ u, (j, u) ∈ (s.xfer k).held → u = r.page))

/-- R215, R216: a fence of the host begins over the modules that it names, if any; a write while one is busy is ignored and counted. A fence stands while a far atomic that happens before it at its modules is not performed; then
it is gone, its modules translate for its partition from the tables as they stand, with nothing cached, and BUSY that stood for it is 0. -/
def Sys2Proof.Claims.FenceEvents : Prop :=
  ∀ (s : State) (p n : Nat),
    let begun (i : Instr) (ms : List Nat) : Prop :=
      ∃ t, exec i s = .next t ∧ s.sameBytes t ∧ (t.pkg p).tfBusy = some s.nextId ∧
        t.fences = s.fences ++ [{ id := s.nextId, port := p, part := n, mods := ms, team := none }]
    (∀ lm e, s.fencing p = false → (s.part p n).module lm = some e → begun (.tfencectlModule p n lm) [e.1]) ∧
    (s.fencing p = false → (s.part p n).modules ≠ [] →
      begun (.tfencectlDomain p n) ((s.part p n).modules.map (fun e => e.2.1))) ∧
    (∀ lm, s.fencing p = true → ∀ i ∈ [Instr.tfencectlModule p n lm, Instr.tfencectlDomain p n],
      ∃ t, exec i s = .next t ∧ s.onlyPkg t p ∧ t.fences = s.fences ∧
        Map.get (t.pkg p).counts cntRegIgnored 0 = min (Map.get (s.pkg p).counts cntRegIgnored 0 + 1) 0xFFFFFFFF) ∧
    (∀ lm, s.fencing p = false → (s.part p n).module lm = none → exec (.tfencectlModule p n lm) s = .next s) ∧
    (s.fencing p = false → (s.part p n).modules = [] → exec (.tfencectlDomain p n) s = .next s) ∧
    (∀ i, (∀ f ∈ s.fences, f.id = i → s.fenceReady f = false) → exec (.fenceComplete i) s = .next s) ∧
    (∀ i f, s.fences.find? (fun f => f.id = i) = some f → s.fenceReady f = true →
      ∃ t, exec (.fenceComplete i) s = .next t ∧ s.sameBytes t ∧ (∀ g ∈ t.fences, g.id ≠ i) ∧
        (t.pkg f.port).tfBusy = (if (s.pkg f.port).tfBusy = some i then none else (s.pkg f.port).tfBusy) ∧
        ∀ m ∈ f.mods, (t.mod m).mem = (s.mod m).mem ∧ (t.mod m).past = (s.mod m).past ∧
          Map.get (t.mod m).fenceAt (32 * f.port + f.part) 0 = (s.mod m).past.length ∧
          ∀ e ∈ (t.mod m).tlb, ¬(e.port = f.port ∧ e.part = f.part))

/-- R119, R121, R122, R127: a line fill brings a line as stored to the core that has a team of the grid: of a near segment where at
most one bit of its unit is wrong, of a far segment where it translates. More wrong bits and a permission or world failure end the
grid FAULTED; a translation fault enters a record that holds the fetch. -/
def Sys2Proof.Claims.LineFilled : Prop :=
  ∀ (s : State) (k c line a : Nat) (sec : Bool) (w : Walk),
    let g := s.grid k
    let filled (bytes : List Byte) : Prop :=
      ∃ t, exec (.codeFetch k c line w) s = .next t ∧ s.sameBytes t ∧ (k, line, bytes) ∈ (t.core c).icache ∧
        (∀ j, j ≠ c → t.core j = s.core j) ∧ t.teams = s.teams
    let faulted : Prop := ∃ t, exec (.codeFetch k c line w) s = .next t ∧ (t.grid k).status = some (g.status.getD stFaulted)
    g.retired = false → (s.teamsAt c).any (fun t => (s.team t).grid == k) = true → 64 * line < g.segLen →
    (s.core c).icache.any (fun e => e.1 == k && e.2.1 == line) = false → s.codeHeld k c line = false →
    (g.far = false → (s.part g.port g.part).near (g.segBase + 64 * line) = some (a, sec) →
      ((s.pkg g.port).errCount (a / 64) < 2 → filled (s.nearLatest g.port none a 64)) ∧
      (2 ≤ (s.pkg g.port).errCount (a / 64) → faulted)) ∧
    (g.far = true →
      (∀ m pa, s.codeWalk k c line w = .ok m pa → bits (s.mod m).hotctl 7 7 = 0 → filled ((s.mod m).mem.readN pa 64)) ∧
      (∀ world, s.codeWalk k c line w = .perm world → faulted) ∧
      (s.codeWalk k c line w = .nothing → exec (.codeFetch k c line w) s = .next s) ∧
      ∀ st m, s.codeWalk k c line w = .fault st m → ∃ t r, exec (.codeFetch k c line w) s = .next t ∧ s.onlyPart t g.port g.part ∧
        (t.part g.port g.part).fqWait = (s.part g.port g.part).fqWait ++ [r] ∧ r.cause = st ∧ (∃ ten, r.held = some (.code k c line m ten (s.codeAs k c ten).secure)) ∧
        r.addr = g.segBase + 64 * line ∧ r.count = 0)

/-- R114, R117, R119, R260: a soft error flips one bit of a codeword of scratchpad, accumulators, tiles or near memory: a right bit is
wrong from then on, a wrong one right again, and nothing else changes. -/
def Sys2Proof.Claims.BitsFlip : Prop :=
  ∀ (s : State) (k i b : Nat),
    (∀ u row col, ∀ e ∈ [(ErrSite.scratch k i b, (0, i, b)), (ErrSite.acc k i b, (1, i, b)),
        (ErrSite.tile k u row col b, (2, (u * 32 + row) * 256 + col, b))],
      ∃ t, exec (.softError e.1) s = .next t ∧ s.onlyOf t k ∧ { t.team k with errs := (s.team k).errs } = s.team k ∧
        ∀ z, z ∈ (t.team k).errs ↔ if z = e.2 then z ∉ (s.team k).errs else z ∈ (s.team k).errs) ∧
    (∃ t, exec (.softError (.near k i b)) s = .next t ∧ s.onlyPkg t k ∧ { t.pkg k with errs := (s.pkg k).errs } = s.pkg k ∧
      ∀ z, z ∈ (t.pkg k).errs ↔ if z = (i, b) then z ∉ (s.pkg k).errs else z ∈ (s.pkg k).errs)

/-- R58, R114, R119, R121, R127, R144 to R146, R215, R216, R260: fault records, heads, replays, fences, line fills and soft errors. The model's are
a line fill in one event (log entry 31), a wrong bit made right again (log entry 39), a line filled whatever its world and an unheld record of
PERMISSION or WORLD taken as fatal (log entry 46). -/
def Obligations.FaultsAndRepair : Prop :=
  Claims.FaultRecorded ∧ Claims.HeadsMove ∧ Claims.HeldAccesses ∧ Claims.FenceEvents ∧ Claims.LineFilled ∧ Claims.BitsFlip

/-! ## Grants -/

/-- R139, R174, R232, R233: a request to send of a transfer without an entry gets one, with its length, its class and its tick, where one
is free; else its source asks again after 16 µs, with the class that its window has then. One of a transfer with an entry gives it its
class; the frozen request of a re-armed put is active again, with a new age, its expiries in a row as they were. That an entry for a team that is away, or has halted to be
saved, is FROZEN is the model's reading (log entry 28). -/
def Sys2Proof.Claims.RequestsToSend : Prop :=
  ∀ (s : State) (e : End) (i p n len : Nat),
    let x := s.xfer i
    (∀ c own, s.message e (fun m => match m with | .rts j _ _ _ => j == i && x.receiver == e | _ => false) = some (p, n, .rts i len c own) →
      x.done = false → len ≠ 0 →
      (∀ r, x.req = some r → r.state = .frozen → x.kind = .put → x.rearmed = true → s.leaving x = false →
        ∃ t, exec (.rtsArrival e i) s = .next t ∧ s.sameBytes t ∧
          t.xfer i = { x with
            cls := c
            req := if r.remaining = 0 ∧ r.tokens = [] then none else
              some { r with state := .active, born := s.now / 1000, deferred := false } }) ∧
      (∀ r, x.req = some r → r.state ≠ .frozen →
        ∃ t, exec (.rtsArrival e i) s = .next t ∧ s.sameBytes t ∧ t.xfer i = { x with cls := c }) ∧
      (x.req = none → (x.kind = .put → (s.mod x.pmod).tenantOk x.tenant = true) →
      (s.entryFree i = true → ∃ t, exec (.rtsArrival e i) s = .next t ∧ s.sameBytes t ∧ i ∈ t.tableOf x.receiver ∧
        (t.xfer i).cls = c ∧
        (t.xfer i).req = some { state := if s.leaving x then .frozen else .active, remaining := len, born := s.now / 1000,
                                tokens := [], expiries := 0, frozenAt := s.now, deferred := false }) ∧
      (s.entryFree i = false → ∃ t, exec (.rtsArrival e i) s = .next t ∧ s.sameBytes t ∧
        t.xfer i = { x with rts := some (s.now + 16000) }))) ∧
    (∀ t0, x.rts = some t0 → x.done = false → t0 ≤ s.now →
      ∃ t, exec (.rtsRetry i) s = .next t ∧ s.sameBytes t ∧ t.xfer i = { x with rts := none } ∧ s.sends t x.dataLink
        (.rts i x.owed (if x.kind = .put then ((s.team x.team).wins.getD x.win Window.blank).cls else x.cls) true))

/-- R228 to R232: a token of at most 8,192 bytes of what remains goes to the request that is picked; an expired one gives its
bytes back and its source is told, which drops it and asks anew; at the third in a row the transfer of an active request ends, and
the request is purged; those of a team that has halted to be saved do not count (log entry 28). -/
def Sys2Proof.Claims.Tokens : Prop :=
  ∀ (s : State) (e : End) (i : Nat) (r : Req),
    let x := s.xfer i
    (s.pick (s.candidates e) = some i → x.req = some r →
      let k : Token := { id := s.nextId, bytes := min 8192 r.remaining, start := s.now }
      ∃ t, exec (.tokenIssue e) s = .next t ∧ s.sameBytes t ∧ t.nextId = s.nextId + 1 ∧ s.sends t x.backLink (.token i k) ∧
        (t.xfer i).req = some { r with remaining := r.remaining - k.bytes, tokens := r.tokens ++ [k] }) ∧
    (∀ k t0, x.req = some r → r.tokens.find? (fun t => t.id = k) = some t0 → x.receiver = e → s.timersRun x = true →
      t0.start + 16000 ≤ s.now →
      let counts : Prop := r.state = .active ∧ s.leaving x = false
      let n := if r.state = .active ∧ s.leaving x = false then r.expiries + 1 else r.expiries
      let back := { r with tokens := r.tokens.filter (fun u => u.id != k), remaining := r.remaining + t0.bytes, expiries := n }
      (¬ (counts ∧ 3 ≤ n) → ∃ t, exec (.tokenExpiry e i k) s = .next t ∧ s.sameBytes t ∧ s.sends t x.backLink (.expiry i k) ∧
        (t.xfer i).req = some back) ∧
      (counts → 3 ≤ n → ∃ t, exec (.tokenExpiry e i k) s = .next t ∧ (t.xfer i).done = true ∧ .expiry i k ∈ (t.link x.backLink).outq ∧
        (t.xfer i).req = some { back with state := .purging, frozenAt := s.now })) ∧
    (∀ p n k, s.message e (fun m => match m with | .expiry j _ => j == i && x.source == e | _ => false) = some (p, n, .expiry i k) →
      x.done = false →
      let y := { x with tokens := x.tokens.filter (fun t => t.id != k) }
      ∃ t, exec (.expiryNoticeReceive e i) s = .next t ∧ s.sameBytes t ∧ t.xfer i = y ∧ s.sends t x.dataLink
        (.rts i y.owed (if x.kind = .put then ((s.team x.team).wins.getD x.win Window.blank).cls else x.cls) true))

/-- R232, R233: after 1 ms a frozen entry tells the source, which frees its state of a transfer whose team is away; a purged
entry is free once no chunk is in flight or 16 µs have passed. -/
def Sys2Proof.Claims.FrozenAndPurged : Prop :=
  ∀ (s : State) (e : End) (i : Nat) (r : Req),
    let x := s.xfer i
    (x.req = some r → x.receiver = e → r.state = .frozen → r.deferred = false → r.frozenAt + 1000000 ≤ s.now →
      ∃ t, exec (.frozenTimeout e i) s = .next t ∧ s.sameBytes t ∧ t.xfer i = { x with req := some { r with deferred := true } } ∧
        s.sends t x.backLink (.deferred i)) ∧
    (∀ y, s.message e (fun m => m == .deferred i && x.source == e) = some y → x.done = false → s.leaving x = true →
      ∃ t, exec (.deferredReceive e i) s = .next t ∧ s.sameBytes t ∧ t.xfer i = { x with atSource := false, tokens := [] }) ∧
    (x.req = some r → x.receiver = e → r.state = .purging → s.inFlight i = false ∨ r.frozenAt + 16000 ≤ s.now →
      ∃ t, exec (.purgeComplete e i) s = .next t ∧ s.sameBytes t ∧ t.xfer i = { x with req := none })

/-- R139, R228 to R234: requests to send, tokens, frozen and purged requests. That the new entry of a request whose team is away begins FROZEN,
where the row of R232 gives ACTIVE, is the model's reading (log entry 28). -/
def Obligations.GrantScheduling : Prop := Claims.RequestsToSend ∧ Claims.Tokens ∧ Claims.FrozenAndPurged

/-! ## The link layer -/

/-- R178, R179, R225, R235, R384: a new chunk takes the next number and one credit and stays in the retry buffer; a replay sends
again what the buffer holds, and the trace of a resume counts it. -/
def Sys2Proof.Claims.ChunksSent : Prop :=
  ∀ (s : State) (l : LinkId) (c : Choice), s.moving l = true →
    let k := s.link l
    (∀ m rest, k.sendFrom = k.next → k.open_ = true → k.outq = m :: rest →
      ∃ t, exec (.chunkSend l .message) s = .next t ∧ s.onlyLink t l ∧
        let y := t.link l
        y.outq = rest ∧ y.next = seqNext k.next ∧ y.sendFrom = y.next ∧ y.used = (k.used + 1) % 2 ^ 32 ∧
        y.retry = k.retry ++ [(k.next, m)] ∧ y.flights = k.flights ++ [(s.planeOf l k.next, k.next, m, none)]) ∧
    (∀ e, k.sendFrom ≠ k.next → k.retry.find? (fun e => e.1 = k.sendFrom) = some e →
      ∃ t, exec (.chunkSend l c) s = .next t ∧ s.onlyLink t l ∧
        t.link l = { k with
          sendFrom := seqNext k.sendFrom
          flights := k.flights ++ [(s.planeOf l e.1, e.1, e.2, k.replay)]
          trace := k.trace.map (fun x => if k.replay = some x.num then { x with replayed := x.replayed + 1 } else x) })

/-- R179, R235: a chunk that was accepted before is discarded; a reply that is next in sequence reaches the inbox of its package, and its slot
counts as used, unless the USED that the receiver adopted counts it already. -/
def Sys2Proof.Claims.ChunksReceived : Prop :=
  ∀ (s : State) (l : LinkId) (i : Nat) (e : Nat × Nat × Msg × Option Nat) (w : Walk),
    let k := s.link l
    k.flights.find? (fun e => e.2.1 = i) = some e → s.mayLand e.2.2.1 = true →
    (2 ^ 47 ≤ seqSub i k.expect →
      ∃ t, exec (.chunkReceive l i w) s = .next t ∧ s.onlyLink t l ∧
        { t.link l with trace := k.trace } = { k with flights := k.flights.erase e }) ∧
    (∀ j, e.2.2.1 = .farRep j → l.up = false → i = k.expect → i < 2 ^ 48 → k.heldBack = [] →
      ∃ t, exec (.chunkReceive l i w) s = .next t ∧ s.sameBytes t ∧
        (t.pkg l.port).inbox = (s.pkg l.port).inbox ++ [(l.pmod, l.part, .farRep j)] ∧
        (t.link l).expect = seqNext k.expect ∧ (t.link l).heldBack = [] ∧ (t.link l).offered = (k.offered + 1) % 2 ^ 32 ∧
        (t.link l).rxUsed = (if 0 < k.ahead then k.rxUsed else (k.rxUsed + 1) % 2 ^ 32) ∧ (t.link l).ahead = k.ahead - 1)

/-- R178, R179, R235: a flit carries the number that the receiver expects and the slots that it has offered and counted as used; a NAK goes out
256 ns after a gap; the sender frees what is acknowledged and takes the new credit, and replays from ACK after 1 µs. -/
def Sys2Proof.Claims.Acknowledgement : Prop :=
  ∀ (s : State) (l : LinkId),
    let k := s.link l
    let flit (i : Instr) (nak : Bool) : Prop :=
      ∃ t f, exec i s = .next t ∧ s.onlyLink t l ∧ (t.link l).flits = k.flits ++ [f] ∧ f.ack = k.expect ∧ f.freed = (t.link l).offered ∧
        f.used = k.rxUsed ∧ f.nak = nak ∧ (t.link l).flitAt = s.now ∧ (t.link l).offered = (k.offered + s.moreSlots l) % 2 ^ 32
    (s.canFlit l = true → flit (.ackFlitSend l) false) ∧
    (∀ t0, k.gapAt = some t0 → s.canFlit l = true → t0 + 256 ≤ s.now → flit (.nakSend l) true) ∧
    (∀ i f, k.flits[i]? = some f → f.nak = false → s.inRetrain l = false →
      k.retry.all (fun e => match e.2 with | .data _ _ _ _ _ => false | .farReq _ => false | _ => true) = true →
      let d := seqSub f.ack k.ack
      ∃ t, exec (.ackFlitReceive l i) s = .next t ∧ s.onlyLink t l ∧ (t.link l).flits = k.flits.eraseIdx i ∧
        (t.link l).freed = (if credSub f.freed k.freed < 2 ^ 31 then f.freed else k.freed) ∧
        (1 ≤ d → d ≤ seqSub k.next k.ack →
          (t.link l).ack = f.ack ∧ (t.link l).retry = k.retry.filter (fun e => d ≤ seqSub e.1 k.ack))) ∧
    (s.moving l = true → k.next ≠ k.ack → k.ackAt + 1000 ≤ s.now →
      ∃ t, exec (.replayTimeout l) s = .next t ∧ s.onlyLink t l ∧ (t.link l).sendFrom = k.ack ∧ (t.link l).ackAt = s.now ∧
        (t.link l).retry = k.retry)

/-- R111, R224, R235, R339, R342, R344: a chunk of a transfer carries the bytes of its elements, in their order: a put reads them at their
local addresses, a fetch at the module, through the translation of each 64 KiB unit, and a reduction sends its values. At the package the chunk lands as
soon as it is accepted, each byte at the local address of its element, in scratchpad or near memory; at the module a put chunk that is next in
sequence is performed, each byte at its far address; elements that share a byte are written in their order. No other byte changes. -/
def Sys2Proof.Claims.ChunksLand : Prop :=
  ∀ (s : State) (l : LinkId) (i j : Nat) (w : Walk) (pa : Nat → Nat),
    let k := s.link l
    let x := s.xfer i
    let m := s.mod x.pmod
    let es := x.elementsOf (256 * j) (x.chunkLen j)
    let far (n : Nat) : Nat := pa (x.farAddr n / 65536) + x.farAddr n % 65536
    let unit (need : Need) (how : Walk) (n : Nat) : Prop :=
      m.judge x.ctx (x.farAddr n / 65536 * 65536 % 2 ^ 50) need how = .ok (pa (x.farAddr n / 65536))
    let quiet := x.held = [] ∧ bits m.hotctl 7 7 = 0
    l = x.dataLink → x.done = false →
    (∀ n ∈ (s.core (s.team x.team).core).eq_, (s.xfer n).started = true) →
    (∀ tok, s.moving l = true → k.sendFrom = k.next → k.open_ = true → x.started = true → x.atSource = true → s.present x = true →
      x.status = none → x.nextChunk = some (j, tok) →
      let sends (b : List Byte) : Prop :=
        ∃ t, exec (.chunkSend l (.data i)) s = .next t ∧ s.sameBytes t ∧ (t.xfer i).todo = x.todo.filter (fun n => n != j) ∧
          (t.link l).retry = k.retry ++ [(k.next, .data i j b tok (x.rtsOf j (s.clsNow x)))]
      (x.kind = .put → (s.team x.team).errs = [] → (s.pkg (s.team x.team).port).errs = [] →
        sends (es.flatMap (fun n => s.localRead x.team (x.localAddr n) x.esize))) ∧
      ((x.chunkLen j : Int) ≤ (m.bucket x.tenant).level →
        (x.kind = .fetch → quiet → (∀ n ∈ es, unit .read .cached n) → sends (es.flatMap (fun n => m.mem.readN (far n) x.esize))) ∧
        (x.kind = .fetchr → sends (((x.vals.drop (64 * j)).take (x.chunkLen j / 4)).flatMap (bytesOf 4))))) ∧
    (∀ (e : Nat × Nat × Msg × Option Nat) (q : Nat) (b : List Byte) (tok : Option Nat) (rts : Option (Nat × Nat)),
      k.flights.find? (fun e => e.2.1 = q) = some e → e.2.2.1 = .data i j b tok rts → seqSub q k.expect < 2 ^ 47 →
      (∀ f ∈ k.heldBack, f.1 ≠ q) → (∀ r, x.req = some r → r.state ≠ .purging) →
      let lands (f : Nat → Nat → Place) : Prop :=
        ∃ t, exec (.chunkReceive l q w) s = .next t ∧ (t.xfer i).landed = x.landed ++ [j] ∧
          ∀ z, t.byte z =
            overwritten (es.mapIdx (fun n c => bytesAt (f c) ((b.drop (n * x.esize)).take x.esize))).flatten s.byte z
      (x.fromModule = true → s.present x = true →
        (∀ n ∈ es, s.localOut x.team (x.localAddr n) (extentAt (x.localAddr n) x.esize) = none) →
        lands (fun n c => s.localPlace x.team (x.localAddr n + c))) ∧
      (x.kind = .put → x.status = none → quiet → q = k.expect → q < 2 ^ 48 → k.heldBack = [] → m.head x.port x.part = none →
        (∀ n ∈ es, unit .write w n) →
        lands (fun n c => .far x.pmod (far n + c))))

/-- R111, R178, R179, R224, R225, R235, R339, R342, R344, R384: sending, receiving and acknowledging chunks, and what they carry and write. That
the receiver offers `moreSlots` with every flit, and that a chunk goes as one item, is the model's choice (log entry 27). -/
def Obligations.LinkLayer : Prop := Claims.ChunksSent ∧ Claims.ChunksReceived ∧ Claims.Acknowledgement ∧ Claims.ChunksLand

/-! ## Optics -/

/-- R20, R237, R238: a lane that loses its light locks on a free spare, the lowest one (the model's choice: log entry 46), or is dead, and what was on its plane is lost;
a spare locks within 50 µs, or is given up; a spare that fails while it locks is out of service. At a dark port no lane fails and no spare locks (R17; the
model's choice: log entry 48). -/
def Sys2Proof.Claims.LanesFail : Prop :=
  ∀ (s : State) (p m : Nat) (up : Bool) (k : Nat),
    (k < 16 → (s.pkg p).up = true → s.lane p m k up = .ok →
      (s.attached p m up = false → exec (.wavelengthFail p m up [k]) s = .next s) ∧
      (s.attached p m up = true → ∃ t, exec (.wavelengthFail p m up [k]) s = .next t ∧
        t.lane p m k up = (match s.freeSpare p m k up with | some j => .locking j s.now (bandA p m up) | none => .dead (bandA p m up)) ∧
        ∀ n, n < 33 → ∀ f ∈ (t.link ⟨p, n, m, up⟩).flights, f.1 ≠ k)) ∧
    (∀ j since f, s.lane p m k up = .locking j since f →
      (s.now ≤ since + 50000 → s.attached p m up = true → ∃ t, exec (.laneSubst p m up k) s = .next t ∧ t.lane p m k up = .spare j) ∧
      (since + 50000 ≤ s.now → ∃ t, exec (.spareLockTimeout p m up k) s = .next t ∧ t.lane p m k up = .dead f) ∧
      (∃ t, exec (.spareLockFail p m up k) s = .next t ∧ (t.laserAt p m up k (64 + j)).out = true ∧
        t.lane p m k up = (match (s.spareOut p m k up j).freeSpare p m k up with | some i => .locking i s.now f | none => .dead f)))

/-- R238, R384: a resume ends with the numbers and credits of the receiver and the used slots of the sender, and leaves its entry in
the trace of its direction; a retrain stops the channel, and ends within 100 µs in a
resume where its lanes suffice. That what is under way at a retrain is lost is the model's (log entry 27). -/
def Sys2Proof.Claims.ResumesAndRetrains : Prop :=
  ∀ (s : State) (l : LinkId),
    let k := s.link l
    (∀ t0, k.resume = some t0 → s.live l ≠ [] → k.retry = [] →
      ∃ t, exec (.resumeComplete l) s = .next t ∧ s.sameBytes t ∧
        let y := t.link l
        y.resume = none ∧ y.freed = k.offered ∧ y.rxUsed = k.used ∧ y.sendFrom = y.ack ∧ y.q0 = y.ack ∧ y.ackAt = s.now ∧
        y.resumes = k.resumes + 1 ∧ y.replay = some y.resumes ∧
        ∃ e rest, y.trace = e :: rest ∧ e.num = y.resumes ∧ e.time = t0 ∧ e.why = k.why ∧ e.ack = y.ack ∧ e.q0 = y.ack ∧ e.adopted = (k.offered, k.used) ∧
          e.live = s.live l ∧ e.upTo = some k.next ∧ e.replayed = 0 ∧ e.discarded = 0 ∧ y.ahead = seqSub k.next k.expect) ∧
    (∀ n, l.part ≠ mgmt → (s.pkg l.port).up = true → k.down = false → k.retrain = none →
      16 ≤ (k.replays.filter (fun t => s.now < t + 100000)).length ∨ n = true →
      ∃ t, exec (.retrain l n) s = .next t ∧ (t.link l).retrain = some s.now ∧ (t.link l).flights = [] ∧ (t.link l).resume = none ∧
        (t.link (backOf l)).flits = []) ∧
    (∀ t0, k.retrain = some t0 → s.now ≤ t0 + 100000 → k.down = false → (s.pkg l.port).allocWait = [] →
      downLimit (s.planes l.port l.part l.pmod).length ≤ (s.live l).length →
      ∃ t, exec (.retrainEnd l []) s = .next t ∧ (t.link l).retrain = none ∧ (t.link l).resume = some s.now ∧ (t.link l).down = false)

/-- R153: with nothing waiting, a write of the channel allocation table that may take effect sets its entry, another waits, for the
requests to the module that are active now for the partition that the plane is taken from. -/
def Sys2Proof.Claims.PlanesAllocated : Prop :=
  ∀ (s : State) (p m k : Nat) (v : BitVec 16), m < 64 → k < 16 → (s.pkg p).allocWait = [] →
    let wait := s.holders p m k
    (∀ n, s.planeOwner p m k = some n → ∀ i, i ∈ wait.getD [] ↔ ∃ x r, (i, x) ∈ s.xfers ∧ x.port = p ∧ x.part = n ∧ x.pmod = m ∧
      x.req = some r ∧ r.state = .active) ∧
    (s.allocReady p m k v wait = true → ∃ t, exec (.channelAllocWrite p m k v) s = .next t ∧
      Map.get (t.pkg p).alloc (16 * m + k) 0 = v &&& 0x801F#16 ∧ (t.pkg p).allocWait = [] ∧
      ∀ j, j ≠ 16 * m + k → Map.get (t.pkg p).alloc j 0 = Map.get (s.pkg p).alloc j 0) ∧
    (s.allocReady p m k v wait = false → ∃ t, exec (.channelAllocWrite p m k v) s = .next t ∧ s.onlyPkg t p ∧
      t.pkg p = { s.pkg p with allocWait := [(m, k, v, wait)] })

/-- R236, R238, R366, R389: CHANCTL takes a channel that is DOWN, and sends its control message on the management channel; once that
has come to the module, re-commissioned without a dead lane, its lanes are OK, its numbers and credits start afresh, but not the trace of
its resumes, and it is up. -/
def Sys2Proof.Claims.Recommissioned : Prop :=
  ∀ (s : State) (p n m : Nat),
    ((s.pkg p).chanBusy = none → s.isDown p n m = true →
      ∃ t, exec (.chanctlRecommission p n m) s = .next t ∧ s.sameBytes t ∧ t.pkg p = { s.pkg p with chanBusy := some (n, m) } ∧
        s.sends t ⟨p, mgmt, m, true⟩ (.recommission n)) ∧
    ((s.pkg p).chanBusy = some (n, m) → (s.mod m).inbox.contains (p, mgmt, .recommission n) = false →
      exec (.recommissionComplete p []) s = .next s) ∧
    ((s.pkg p).chanBusy = some (n, m) → n < 32 → (s.mod m).inbox.contains (p, mgmt, .recommission n) = true →
      s.attached p m true = true → s.attached p m false = true →
      ∃ t, exec (.recommissionComplete p []) s = .next t ∧ (t.pkg p).chanBusy = none ∧ t.isDown p n m = false ∧
        (∀ up, let l : LinkId := ⟨p, n, m, up⟩
          t.link l = { Link.blank (s.reserve l) with
            resumes := (s.link l).resumes, trace := (s.link l).trace.map (fun e => { e with upTo := none }) }) ∧
        ∀ k ∈ s.planes p n m, t.lane p m k true = .ok ∧ t.lane p m k false = .ok)

/-- R181: a laser that is lit ages by a second at a tick, and is marked at 180,000,000 seconds or a drift of 100. -/
def Sys2Proof.Claims.LasersAge : Prop :=
  ∀ (s : State) (x : Bool) (i k q p m : Nat) (d : Int), k < 16 → q < 68 → s.litLane x i k q = some (p, m) → (s.pkg p).up = true →
    let y := s.laserAt p m (!x) k q
    let on := min (y.ontime + 1) 0xFFFFFFFF
    let drift := max (-32768) (min 32767 d)
    ∃ t, exec (.laserAgeTick x i k q d) s = .next t ∧
      t.laserAt p m (!x) k q = { y with ontime := on, drift := drift, aged := y.aged || decide (180000000 ≤ on) || decide (100 ≤ drift) }

/-- R20, R153, R181, R237, R238, R366: lanes, resumes, retrains, planes, re-commissioning and ageing. The model's are the lowest free spare
(log entry 46) and that a retrain loses what is in flight (log entry 27). -/
def Obligations.OpticalEvents : Prop :=
  Claims.LanesFail ∧ Claims.ResumesAndRetrains ∧ Claims.PlanesAllocated ∧ Claims.Recommissioned ∧ Claims.LasersAge

/-! ## Work at the modules and pieces that land locally -/

/-- R213, R226, R241, R345, R346: the module takes a fetch at the head of its channel and begins to send; a GCREATE makes a
group under a free number, the lowest (the model's choice: log entry 23), and answers OK with its handle; an answer ends its command, and gives the control register of a GCREATE
its handle; a group whose members are late is in
error. -/
def Sys2Proof.Claims.ModuleCommands : Prop :=
  ∀ (s : State) (m i : Nat) (w : Walk),
    let x := s.xfer i
    (x.pmod = m → (s.mod m).head x.port x.part = some (.readReq i) → x.kind = .fetch → x.done = false →
      ∃ t, exec (.moduleReadRequest m i w) s = .next t ∧ s.sameBytes t ∧ (t.xfer i).atSource = true) ∧
    (∀ k, x.pmod = m → (s.mod m).head x.port x.part = some (.engm i) → x.kind = .gcreate → x.done = false →
      (s.mod m).revoked.contains (x.port, x.part, x.pasid) = false → (s.mod m).tenantOk x.tenant = true → (s.mod m).freeGroup = some k →
      ∃ t g, exec (.moduleEngineCommand m i w) s = .next t ∧ s.sameBytes t ∧ Map.find (t.mod m).groups k = some g ∧ g.pasid = x.pasid ∧
        g.n = ofBytes (x.rec0.take 1) ∧ g.ready = [] ∧ g.born = s.now ∧ g.err = false ∧ (t.xfer i).status = some xsOk ∧
        s.sends t ⟨x.port, x.part, m, false⟩ (.engmDone i xsOk (BitVec.ofNat 64 (x.lmod * 2 ^ 50 + k)))) ∧
    (∀ p e st h, (s.pkg p).inbox.find? (fun e => match e.2.2 with | .engmDone y _ _ => y == i | _ => false) = some e →
      e.2.2 = .engmDone i st h → x.done = false →
      ∃ t, exec (.moduleEngineCompletion p i) s = .next t ∧ (t.xfer i).done = true ∧ (t.pkg p).inbox = (s.pkg p).inbox.erase e ∧
        let c := (s.team x.team).ctl
        (x.kind = .gcreate → x.dest ≤ 31 → c.n = 1 → c.wasKilled x.pkt x.insn x.dest 0 = false →
          (∀ j ∈ (s.core (s.team x.team).core).eq_, j = i) → (t.team x.team).ctl.reg x.dest 0 = h)) ∧
    (∀ k g, Map.find (s.mod m).groups k = some g → g.err = false → g.stopped = none → g.ready.length ≠ g.n →
      g.born + 1000 * g.tmo ≤ s.now →
      ∃ t, exec (.groupTimeout m k) s = .next t ∧ s.sameBytes t ∧ (Map.find (t.mod m).groups k).any (fun g => g.err) = true)

/-- R150, R168: at a boundary of 1 µs what was written to the buckets takes effect, every level rises by RATE up to BURST, and
the world map that was written applies. -/
def Sys2Proof.Claims.BucketsRefill : Prop :=
  ∀ (s : State) (m : Nat), (s.mod m).refillAt + 1000 ≤ s.now →
    ∃ t, exec (.bucketRefill m) s = .next t ∧ s.onlyMod t m ∧ s.sameBytes t ∧
      (t.mod m).wmAct = (s.mod m).wmbase ∧ (t.mod m).wmMem = (s.mod m).mem ∧ (t.mod m).refillAt = (s.mod m).refillAt + 1000 ∧
      ∀ k, (t.mod m).bucket k =
        let b := (s.mod m).bucket k
        { b with rate := b.newRate, burst := b.newBurst, port := b.newPort, part := b.newPart, flags := b.newFlags,
                 level := min (b.level + b.newRate) b.newBurst }

/-- R111, R343: a 16-byte piece of a COPYL inside the scratchpad, not the last, moves its bytes and no other byte. -/
def Sys2Proof.Claims.CopyPiece : Prop :=
  ∀ (s : State) (i p e : Nat) (rest : List Nat), s.sound →
    let x := s.xfer i
    let y := s.team x.team
    x.kind = .copyl → x.done = false → x.started = true → y.place = .resident → x.local_ = p :: rest → x.esize = 16 →
    x.elementsOf (16 * p) (min 16 (x.streamLen - 16 * p)) = [e] → min 16 (x.streamLen - 16 * p) < x.unacct →
    x.farAddr e % 16 = 0 → x.localAddr e % 16 = 0 → x.farAddr e < 0x40000000 → x.localAddr e < 0x40000000 → y.errs = [] →
    (s.core y.core).eq_ = [i] →
    ∃ t, exec (.localPiecePerformed i) s = .next t ∧ (t.xfer i).local_ = rest ∧
      ∀ z, t.byte z = match z with
        | .scratch k a => if k = x.team ∧ x.localAddr e ≤ a ∧ a < x.localAddr e + 16 then
            y.scratch.read (x.farAddr e + (a - x.localAddr e)) else s.byte z
        | _ => s.byte z

/-- R222, R240, R241, R344 to R346: FILL gives every element of record 1 its pattern; COPYF copies the elements in their order, each read
after the earlier ones are written; and a FETCHR whose group is ready has for each element inside LEN the sum of its members by the tree of
R240. The pages of all elements translate and permit the access, and no earlier module command of the team still has to write there. -/
def Sys2Proof.Claims.ModuleData : Prop :=
  ∀ (s : State) (m i : Nat) (w : Walk) (pa : Nat → Nat),
    let x := s.xfer i
    let k := s.mod m
    let phys (a : Nat) : Nat := pa (a / 65536) + a % 65536
    let unit (y : Module) (need : Need) (a : Nat) : Prop := y.judge x.ctx (a / 65536 * 65536 % 2 ^ 50) need w = .ok (pa (a / 65536))
    let src (n : Nat) : Nat := ((x.x1.toNat : Int) + x.r0.offset n).toNat
    let dst (n : Nat) : Nat := ((x.x2.toNat : Int) + x.r1.offset n).toNat
    x.pmod = m → x.done = false → k.revoked.contains (x.port, x.part, x.pasid) = false → k.tenantOk x.tenant = true →
    bits k.hotctl 7 7 = 0 →
    (k.head x.port x.part = some (.engm i) →
      let answers (t : State) : Prop :=
        exec (.moduleEngineCommand m i w) s = .next t ∧ (t.xfer i).status = some xsOk ∧
          s.sends t ⟨x.port, x.part, m, false⟩ (.engmDone i xsOk 0)
      (x.kind = .fill → s.behindWrite i x.farWrites = false → x.r1.esz = 4 → (∀ n c, n < x.r1.count → c < 4 → unit k .write (dst n + c)) →
        ∃ t, answers t ∧ ∀ z, t.byte z =
          overwritten ((List.range x.r1.count).flatMap
            (fun n => bytesAt (fun c => .far m (phys (dst n + c))) (bytesOf 4 x.x1.toNat))) s.byte z) ∧
      (x.kind = .copyf → s.behindWrite i (x.r0.extent x.x1.toNat :: x.farWrites) = false →
        let e := x.r1.esz
        let k1 := (unitsOfElements ((List.range x.r0.count).map src) e).foldl (fun y u => y.after x.ctx (u * 65536 % 2 ^ 50) w) k
        (∀ n c, n < x.r0.count → c < e → unit k .read (src n + c) ∧ unit k1 .write (dst n + c)) →
        ∃ (t : State) (mem : Nat → Place → Byte), answers t ∧ mem 0 = s.byte ∧
          (∀ n z, n < x.r0.count → mem (n + 1) z =
            overwritten ((List.range e).map (fun c => (.far m (phys (dst n + c)), mem n (.far m (phys (src n + c)))))) (mem n) z) ∧
          ∀ z, t.byte z = mem x.r0.count z)) ∧
    (∀ g, x.kind = .fetchr → k.head x.port x.part = some (.readReq i) → Map.find k.groups (x.x2.toNat % 65536) = some g →
      g.pasid = x.pasid → bits x.x2.toNat 21 16 < g.n → g.n ≤ g.bases.length → g.err = false → g.n ≤ g.ready.length →
      s.behindWrite i ((g.bases.take g.n).map (fun b => extentAt b g.len)) = false →
      (∀ n ∈ (s.core (s.team x.team).core).eq_, (s.xfer n).started = true) →
      let f := groupFmt g.ifmt
      let keep := (List.range x.r0.count).filter (fun n => decide (0 ≤ x.r0.offset n ∧ x.r0.offset n + f.2 ≤ g.len))
      let at_ (n r c : Nat) : Nat := g.bases.getD r 0 + (x.r0.offset n).toNat + c
      let value (n r : Nat) : Nat :=
        fF32.near (f.1.val (ofBytes ((List.range f.2).map (fun c => s.byte (.far m (phys (at_ n r c)))))))
      (∀ n r c, n ∈ keep → r < g.n → c < f.2 → unit k .read (at_ n r c)) →
      ∃ t, exec (.moduleReadRequest m i w) s = .next t ∧ s.sameBytes t ∧ (t.xfer i).sent = keep ∧
        (t.xfer i).vals = keep.map (fun n => (treeSum 7 0 g.n ((List.range g.n).map (fun r => some (value n r)))).getD 0) ∧
        (keep.length = x.r0.count → (t.xfer i).atSource = true ∧ (t.xfer i).pend = xsOk ∧
          (t.xfer i).todo = List.range ((4 * keep.length + 255) / 256)))

/-- R111, R150, R168, R222, R226, R240, R241, R343 to R346: what modules do for commands, and pieces that land locally. The model's choices are
that GCREATE takes the lowest free number (log entry 23), and that a member below its region is out of range and the members have the size of the
group's format (log entry 46). -/
def Obligations.ModuleEvents : Prop := Claims.ModuleCommands ∧ Claims.BucketsRefill ∧ Claims.ModuleData ∧ Claims.CopyPiece

/-! ## Contexts and virtual functions -/

/-- R234, R356, R357: revoking a context that is in use sets REVOKE and BUSY of its entry, tells every module of the map of its
partition, and ends its grids ABORTED. -/
def Sys2Proof.Claims.ContextRevoked : Prop :=
  ∀ (s : State) (p i : Nat),
    let e := (s.pkg p).pasidEntry i
    let part := bits e.toNat 36 32
    let pasid := bits e.toNat 19 0
    e.getLsbD 61 = false → e.getLsbD 63 = true →
    ∃ t, exec (.pasidRevoke p i) s = .next t ∧ (t.pkg p).pasidEntry i = (e ||| 0x6000000000000000#64) ∧
      Map.get (t.pkg p).pasidWait i 0 = (s.part p part).modules.length ∧
      (∀ x ∈ (s.part p part).modules, s.sendsAmong t ⟨p, mgmt, x.2.1, true⟩ (.revoke part pasid i)) ∧
      (∀ q ∈ (t.part p part).queue, q.pasid ≠ pasid) ∧
      ∀ k ∈ s.contextGrids p part pasid, (s.grid k).retired = false → (s.grid k).status = none → (t.grid k).status = some stAborted

/-- R357: a write that makes a free entry valid sets its fields and BUSY, and tells every module; BUSY clears once all modules
have answered and, for a revocation, nothing of the context is left. -/
def Sys2Proof.Claims.ContextEnabled : Prop :=
  ∀ (s : State) (p i : Nat) (v : DWord),
    let e := (s.pkg p).pasidEntry i
    let part := bits v.toNat 36 32
    (v.getLsbD 62 = false → v.getLsbD 63 = true → e.getLsbD 61 = false → e.getLsbD 63 = false →
      ∃ t, exec (.pasidEnable p i v) s = .next t ∧ s.sameBytes t ∧
        (t.pkg p).pasidEntry i = ((v &&& 0x8000001FFFEFFFFF#64) ||| 0x2000000000000000#64) ∧
        Map.get (t.pkg p).pasidWait i 0 = (s.part p part).modules.length ∧
        ∀ x ∈ (s.part p part).modules, s.sendsAmong t ⟨p, mgmt, x.2.1, true⟩ (.enable part (bits v.toNat 19 0) i)) ∧
    (e.getLsbD 61 = true → Map.get (s.pkg p).pasidWait i 0 ≤ ((s.pkg p).inbox.filter (fun m => m.2.2.answers i)).length →
      (e.getLsbD 62 = false ∨ e.getLsbD 63 = false ∨ s.contextGone p (bits e.toNat 36 32) (bits e.toNat 19 0) = true) →
      ∃ t, exec (.pasidBusyClear p i) s = .next t ∧ s.onlyPkg t p ∧ (t.pkg p).pasidEntry i = (e &&& ~~~0x2000000000000000#64) ∧
        ∀ j, j ≠ i → (t.pkg p).pasidEntry j = (s.pkg p).pasidEntry j)

/-- R158, R234, R357: a module that takes the message of a context answers its PASID with REVOKED, or no longer, and reports
it. -/
def Sys2Proof.Claims.ContextAtModule : Prop :=
  ∀ (s : State) (m i n part pasid idx : Nat),
    (s.message (.mod m) (fun x => match x with | .revoke _ _ _ => true | _ => false) = some (i, n, .revoke part pasid idx) → idx < 4096 →
      ∃ t, exec (.contextRevokeMessage m i) s = .next t ∧ s.sameBytes t ∧ (i, part, pasid) ∈ (t.mod m).revoked ∧
        s.sends t ⟨i, mgmt, m, false⟩ (.revokeDone idx)) ∧
    (s.message (.mod m) (fun x => match x with | .enable _ _ _ => true | _ => false) = some (i, n, .enable part pasid idx) →
      ∃ t, exec (.contextEnableMessage m i) s = .next t ∧ s.sameBytes t ∧ (i, part, pasid) ∉ (t.mod m).revoked ∧
        s.sends t ⟨i, mgmt, m, false⟩ (.enableDone idx))

/-- R148, R359, R360: a function that is off, paused or descheduled runs and delivers its pending vectors in ascending order;
a running one pauses; one that is descheduled asks its teams off their cores. -/
def Sys2Proof.Claims.FunctionStates : Prop :=
  ∀ (s : State) (p v : Nat), 1 ≤ v → v ≤ 1024 →
    let x := s.vf p v
    (x.state = .off ∨ x.state = .paused ∨ x.state = .descheduled →
      ∃ t, exec (.vfRun p v) s = .next t ∧ s.sameBytes t ∧ t.vf p v = { x with state := .running, pending := 0 } ∧
        t.msix = s.msix ++ ((List.range 64).filter (fun b => x.pending.getLsbD b)).map (fun b => (p, v, b))) ∧
    (x.state = .running →
      ∃ t, exec (.vfPause p v) s = .next t ∧ s.onlyPkg t p ∧ t.vf p v = { x with state := .paused } ∧ ∀ k, k ≠ v → t.vf p k = s.vf p k) ∧
    (x.state = .running ∨ x.state = .paused →
      ∃ t, exec (.vfDeschedule p v) s = .next t ∧ s.sameBytes t ∧ t.vf p v = { x with state := .descheduled } ∧
        ∀ k ∈ s.vfTeams p v, (t.team k).listed = false ∧
          ((s.team k).place = .resident → (t.team k).preempt.isSome = true))

/-- R361: a teardown of a function that is up, by a write or a function-level reset, starts a new generation without pending
vectors; its packets are gone and its grids end; it is off when nothing of it is left. -/
def Sys2Proof.Claims.FunctionTeardown : Prop :=
  ∀ (s : State) (p v : Nat), 1 ≤ v → v ≤ 1024 →
    let x := s.vf p v
    ((s.vf p v).up = true → ∀ i ∈ [Instr.vfDrain p v, Instr.flr p v],
      ∃ t, exec i s = .next t ∧ (t.vf p v).state = .draining ∧ (t.vf p v).gen = x.gen + 1 ∧ (t.vf p v).pending = 0 ∧ (t.vf p v).since = s.now ∧
        (∀ n, n < 32 → ∀ q ∈ (t.part p n).queue, q.fn ≠ v) ∧
        ∀ k ∈ s.vfGrids p v, (s.grid k).retired = false → (s.grid k).status = none → (t.grid k).status = some stAborted) ∧
    (x.state = .draining → s.vfGrids p v = [] →
      s.xfers.all (fun e => !((s.grid e.2.grid).port == p && (s.grid e.2.grid).fn == v && e.2.req.isSome)) = true →
      s.fars.all (fun e => !((s.grid e.2.grid).port == p && (s.grid e.2.grid).fn == v && e.2.ret)) = true →
      ∃ t, exec (.vfTeardownComplete p v) s = .next t ∧ s.onlyPkg t p ∧ t.vf p v = { x with state := .off })

/-- R148, R158, R234, R356, R357, R359 to R361: contexts and virtual functions. -/
def Obligations.ContextsAndFunctions : Prop :=
  Claims.ContextRevoked ∧ Claims.ContextEnabled ∧ Claims.ContextAtModule ∧ Claims.FunctionStates ∧ Claims.FunctionTeardown

/-! ## The host and the management processor -/

/-- R351, R352, R214: the host writes and reads near memory by package near address; what it has written is seen by what acquires at
system scope from then on. -/
def Sys2Proof.Claims.HostNear : Prop :=
  ∀ (s : State) (p a n : Nat) (b : List Byte), s.sound →
    (a + b.length ≤ 0x40000000 →
      ∃ t, exec (.hostNearAccess p a (.write b)) s = .next t ∧ (t.pkg p).hostPos = (t.pkg p).pos ∧
        ∀ z, t.byte z = match z with
          | .near q x => if q = p ∧ a ≤ x ∧ x < a + b.length then b.getD (x - a) 0 else s.byte z
          | _ => s.byte z) ∧
    (a + n ≤ 0x40000000 → (s.pkg p).errs = [] →
      ∃ t, exec (.hostNearAccess p a (.read n)) s = .next t ∧ s.sameBytes t ∧ t.hostRead = s.nearLatest p none a n)

/-- R354: through a valid far window on a channel that is up, the host writes and reads, inside one page unit, the bytes that
its context may access; through an invalid one a read gives ones, and the access is counted. -/
def Sys2Proof.Claims.HostFar : Prop :=
  ∀ (s : State) (p k o n : Nat) (b : List Byte) (w : Walk), s.sound →
    let e := (Map.get (s.pkg p).farwin k 0).toNat
    let part := bits e 42 38
    let a := bits e 37 32 * 2 ^ 50 + bits e 17 0 * 2 ^ 32 + o
    (∀ m tenant pa, bits e 63 63 = 1 → (s.part p part).module (bits e 37 32) = some (m, tenant) → s.reaches p part m = true →
      bits (s.mod m).hotctl 7 7 = 0 →
      let c : FarCtx := { port := p, part := part, pasid := bits e 62 43, tenant := tenant, secure := false }
      (b ≠ [] → o + b.length ≤ 2 ^ 32 → a % 65536 + b.length ≤ 65536 →
        (s.mod m).judge c (a / 65536 * 65536 % 2 ^ 50) .write w = .ok pa →
        ∃ t, exec (.hostFarAccess p k o (.write b) w) s = .next t ∧
          ∀ z, t.byte z = match z with
            | .far q x => if q = m ∧ pa + a % 65536 ≤ x ∧ x < pa + a % 65536 + b.length then b.getD (x - (pa + a % 65536)) 0 else s.byte z
            | _ => s.byte z) ∧
      (n ≠ 0 → o + n ≤ 2 ^ 32 → a % 65536 + n ≤ 65536 →
        (s.mod m).judge c (a / 65536 * 65536 % 2 ^ 50) .read w = .ok pa →
        ∃ t, exec (.hostFarAccess p k o (.read n) w) s = .next t ∧ s.sameBytes t ∧
          t.hostRead = (List.range n).map (fun i => (s.mod m).mem.read (pa + (a + i) % 65536)))) ∧
    (bits e 63 63 = 0 → n ≠ 0 → o + n ≤ 2 ^ 32 →
      ∃ t, exec (.hostFarAccess p k o (.read n) w) s = .next t ∧ s.sameBytes t ∧ t.hostRead = copies n 0xFF ∧
        Map.get (t.pkg p).counts cntFarWindow 0 = min (Map.get (s.pkg p).counts cntFarWindow 0 + 1) 0xFFFFFFFF)

/-- R150, R158, R168, R358, R389: an aligned 8-byte write to the management aperture by a package that manages the module sets the
stage-2 and stage-1 roots of a context, or what its bucket takes at the next boundary; one by another package is dropped and
counted; a read gives the bytes of the register. Each goes over the management channel, and waits where that cannot carry it. -/
def Sys2Proof.Claims.Apertures : Prop :=
  ∀ (s : State) (p m o : Nat) (v : DWord) (fw : Bool),
    let x := s.mod m
    let write : HostAccess := .write (bytesOf 8 v.toNat)
    let written (f : Module → Prop) : Prop := s.apertureOpen p m write = true →
      ∃ t, exec (.mgmtApertureAccess p m o write fw) s = .next t ∧ s.sameBytes t ∧ (∀ q, q ≠ m → t.mod q = s.mod q) ∧
        { t with mods := s.mods, links := s.links } = s ∧ f (t.mod m)
    (x.managers.getLsbD p = true → 0x3000 ≤ o → o < 0xB000 →
      (o % 16 = 0 → written (fun y => Map.get y.roots ((o - 0x3000) / 16) (0, 0) =
        (v &&& 0x0003FFFFFFFC0001#64, (Map.get x.roots ((o - 0x3000) / 16) (0, 0)).2))) ∧
      (o % 16 = 8 → written (fun y => Map.get y.roots ((o - 0x3000) / 16) (0, 0) =
        ((Map.get x.roots ((o - 0x3000) / 16) (0, 0)).1, v &&& 0x0003FFFFFFFFF03F#64)))) ∧
    (x.managers.getLsbD p = true → o < 0x1000 → o % 16 = 0 →
      written (fun y => y.bucket (o / 16) = { x.bucket (o / 16) with newRate := bits v.toNat 31 0, newBurst := bits v.toNat 63 32 })) ∧
    (x.managers.getLsbD p = false → written (fun y => y = x.count cntMgmtDropped)) ∧
    (o % 8 = 0 → s.apertureOpen p m (.read 8) = true →
      ∃ t, exec (.mgmtApertureAccess p m o (.read 8) fw) s = .next t ∧
        { t with links := s.links } = { s with hostRead := bytesOf 8 (x.mgRead o).toNat }) ∧
    (∀ a, s.apertureOpen p m a = false → exec (.mgmtApertureAccess p m o a fw) s = .next s)

/-- R5, R142, R155, R353, R362: BAR0 writes reach their registers; the secure region takes none from the host. What the host reads
of a package that is up: the register at a listed offset, 0 at a write-only one, an unlisted one and in a notify page. -/
def Sys2Proof.Claims.Bar0 : Prop :=
  ∀ (s : State) (p n : Nat) (v : DWord) (fw : Bool),
    (n < 32 → ∃ t, exec (.registerWrite p (0x100000 + n * 0x10000) v fw) s = .next t ∧ s.onlyPart t p n ∧
      t.part p n = { s.part p n with pctl := v &&& 0xFF01#64 }) ∧
    (n < 8256 → ∃ t, exec (.registerWrite p (0x80000 + 8 * n) v fw) s = .next t ∧ s.onlyPkg t p ∧
      t.pkg p = { s.pkg p with irt := Map.set (s.pkg p).irt n (v &&& 0x8000FFFF0001FFFF#64) }) ∧
    (n < 0x404 → exec (.registerWrite p (0x400000 + n) v false) s = .next s) ∧
    ((s.pkg p).up = true →
      let read (bar o : Nat) : List Byte := (s.hostReads p bar 0 o 4).hostRead
      (n < 32 → read 0 (0x100000 + n * 0x10000) = bytesOf 4 ((s.part p n).pctl.toNat % 2 ^ 32) ∧
        read 0 (0x100000 + n * 0x10000 + 0x20C) = bytesOf 4 (s.part p n).fqTail.toNat ∧
        read 0 (0x100000 + n * 0x10000 + 0x220) = copies 4 0) ∧
      (n < 4096 → read 0 (0x10000 + 32 * n + 20) = bytesOf 4 (s.qi p n).head.toNat) ∧
      read 0 0x30000 = copies 4 0 ∧ (∀ o, read 2 o = copies 4 0))

/-- R151, R152, R177, R183, R363: a counter is loaded, and at 0 releases its packets; an extent is set while its partition is idle,
where it is legal; the remap table is written by firmware while the owner of the slice, and the one that it gets (log entry 47), are
idle, else the write is counted. -/
def Sys2Proof.Claims.TableWrites : Prop :=
  ∀ (s : State) (p n : Nat),
    (∀ c v, ∃ t, exec (.counterLoad p n c v) s = .next t ∧ s.onlyPart t p n ∧
      (∀ j, Map.get (t.part p n).depc j 0 = if j = c % 256 then v.setWidth 16 else Map.get (s.part p n).depc j 0) ∧
      (v.toNat % 2 ^ 16 = 0 → ∀ q ∈ (t.part p n).queue, q.held ≠ some (c % 256))) ∧
    (∀ i v, i < 4 → s.idlePart p n = true → (s.pkg p).badExtent n true i (v &&& 0x80000007007F003F#64) = false →
      ∃ t, exec (.nearMapWrite p n true i v false) s = .next t ∧ s.onlyPart t p n ∧
        t.part p n = { s.part p n with saveMap := Map.set (s.part p n).saveMap i (v &&& 0x80000007007F003F#64) }) ∧
    (∀ save i v fw, i < 4 → s.idlePart p n = false →
      ∃ t, exec (.nearMapWrite p n save i v fw) s = .next t ∧ s.onlyPart t p n ∧ t.part p n = (s.part p n).count cntPartIgnored) ∧
    (∀ k v, k < 32 → v.length = 16 →
      exec (.remapWrite p k v false) s = .next s ∧
      (let old := ((Map.get (s.pkg p).remap k []).getD 12 0xFF).toNat
       let new := (v.getD 12 0xFF).toNat
       (s.idlePart p old = true → s.idlePart p new = true →
        ∃ t, exec (.remapWrite p k v true) s = .next t ∧ s.onlyPkg t p ∧ (t.pkg p).remap = Map.set (s.pkg p).remap k v ∧
          { t.pkg p with remap := (s.pkg p).remap, clash := (s.pkg p).clash, parts := (s.pkg p).parts } = s.pkg p ∧
          ∀ j, { t.part p j with depc := (s.part p j).depc } = s.part p j) ∧
       (s.idlePart p old = false ∨ s.idlePart p new = false →
        ∃ t, exec (.remapWrite p k v true) s = .next t ∧ s.onlyPkg t p ∧ t.pkg p = (s.pkg p).count cntRemapIgnored)))

/-- R150 to R155, R158, R167, R168, R177, R214, R352 to R354, R358, R362, R363: what the host and firmware write and read. Each access is one
event of the model; a near read gives the newest byte of each place, and an aperture access passes whole or waits (log entry 32). -/
def Obligations.HostAndFirmware : Prop :=
  Claims.HostNear ∧ Claims.HostFar ∧ Claims.Apertures ∧ Claims.Bar0 ∧ Claims.TableWrites

/-! ## Attestation and power -/

/-- R182, R367, R368: a snapshot goes into GBUF with its chain value, the SHA-384 of the chain value before it and its bytes;
only firmware clears the meters that a mask names. -/
def Sys2Proof.Claims.Garnet : Prop :=
  ∀ (s : State) (p n : Nat), n < 32 →
    let x := s.part p n
    (∃ t, exec (.garnetSnapshot p n) s = .next t ∧ s.onlyPkg t p ∧
      let b := x.snapshot n s.now
      let h := sha384 (x.chain ++ b)
      (t.pkg p).gbuf = b ++ h ∧ b.length = 1144 ∧
      t.part p n = { x with snap := b, chain := h, snapNo := x.snapNo + 1, resetMask := 0, resetSeen := false }) ∧
    (∀ mask : BitVec 256, exec (.garnetReset p n mask false) s = .next s ∧
      ∃ t, exec (.garnetReset p n mask true) s = .next t ∧ s.onlyPart t p n ∧ (t.part p n).resetSeen = true ∧
        ∀ k, k < 135 → Map.get (t.part p n).meters k 0 = if mask.getLsbD k then 0 else Map.get x.meters k 0)

/-- R369: every SPDM request is answered, by bytes that this model leaves free (log entry 7); the measurement of a partition
takes a snapshot and carries it with its chain value. -/
def Sys2Proof.Claims.Spdm : Prop :=
  ∀ (s : State) (p i : Nat),
    (∀ e ∈ [(Instr.getVersion p, 0), (Instr.getCapabilities p, 1), (Instr.negotiateAlgorithms p, 2), (Instr.getDigests p, 3),
            (Instr.getCertificate p, 4), (Instr.challenge p, 5)],
      exec e.1 s = .next { s with spdm := Config.spdmReply e.2 s.freeCount, freeCount := s.freeCount + 1 }) ∧
    (0x10 ≤ i → i ≤ 0x2F → ∃ t a b, exec (.getMeasurements p i) s = .next t ∧ t.spdm = a ++ (t.pkg p).gbuf ++ b ∧
      (t.part p (i - 0x10)).snapNo = (s.part p (i - 0x10)).snapNo + 1 ∧
      (t.part p (i - 0x10)).snap = (s.part p (i - 0x10)).snapshot (i - 0x10) s.now)

/-- R370, R371: the arbiter sets clocks between FLOOR and the nominal; power-good brings a package up with its reset values and
its channels commissioned; values that no rule gives, and near memory that reads 0, are log entries 5 to 7. -/
def Sys2Proof.Claims.Power : Prop :=
  ∀ (s : State) (p : Nat),
    (∀ clocks : List Nat, clocks.length = 8 → (∀ c ∈ clocks, (s.pkg p).floor ≤ c ∧ c ≤ 21) →
      ∃ t, exec (.powerArbiterTick p clocks) s = .next t ∧ s.onlyPkg t p ∧ t.pkg p = { s.pkg p with clocks := clocks }) ∧
    ((s.pkg p).up = false → s.dark.contains p = false →
      ∃ t, exec (.powerGood p) s = .next t ∧ (t.pkg p).up = true ∧
        t.pkg p = { Pkg.blank with up := true, fused := (s.pkg p).fused, lasers := (s.pkg p).lasers } ∧
        (∀ q, q ≠ p → t.pkg q = s.pkg q) ∧ ∀ l, l.port = p → (t.link l).down = false ∧ (t.link l).next = 0 ∧ (t.link l).expect = 0)

/-- R182, R367 to R371: Garnet, SPDM and power. What a package holds after power-good where no rule gives it are the model's choices (log entries 5
to 7). -/
def Obligations.AttestationAndPower : Prop := Claims.Garnet ∧ Claims.Spdm ∧ Claims.Power

/-! ## The machine as a whole -/

/-- R15, R353, R356 to R371: after reset and before power-good nothing is placed and nothing is commissioned: no package is up,
no partition is enabled, no context is valid, every function is off, GRID counts from 1, CAP, FLOOR and the clocks are nominal,
every memory reads 0 (log entries 5 and 6: where the spec gives no value, the value is this model's), and the invariant holds. -/
def Obligations.ResetState : Prop :=
  let s := State.reset
  s.sound = true ∧ s.now = 0 ∧ s.agenda = [] ∧ (∀ z, s.byte z = 0) ∧
  (∀ t, (s.team t).place = .retired ∧ (s.team t).ctl.live = 0) ∧
  ∀ p, (s.pkg p).up = false ∧ (s.pkg p).cap = 3600 ∧ (s.pkg p).floor = 12 ∧ (s.pkg p).clocks = copies 8 21 ∧
    (∀ n, (s.part p n).enabled = false ∧ (s.part p n).gridCtr = 1 ∧ (s.part p n).queue = [] ∧ (s.part p n).chain = copies 48 0) ∧
    (∀ i, ((s.pkg p).pasidEntry i).getLsbD 63 = false) ∧ (∀ q, (s.qi p q).en = false) ∧ (∀ v, (s.vf p v).state = .off) ∧
    (∀ m, (s.mod m).managers = BitVec.allOnes 64 ∧ (s.mod m).mail = [] ∧ (s.mod m).gNext = 1)

/-- R25, R67, R84, R90 to R97, R131, R171, R173, R175: every step keeps the invariant: the byte memories are canonical, every
stream has its lanes and its registers, its results in flight stand in the order of their cycles, and every team has its
queues, flags, points, shapes, timelines, windows and barriers. -/
def Obligations.InvariantKept : Prop :=
  ∀ s t : State, s.sound = true → step s = .next t → t.sound = true

/-- R64, R74, R82: the word of every instruction, with every operand at every value that its fields admit, decodes to that
instruction. -/
def Obligations.RoundTrip : Prop := ∀ (i : Instr) (w : Word), encode i = some w → decodeWord w.toNat = .ok i

/-- R64, R76: a word that decodes is the word of its instruction, but for the C bit: every bit of it is used or zero; a NOP
with any bit of 23:0 set is ILLEGAL_OPERAND. -/
def Obligations.CanonicalWords : Prop :=
  (∀ (w : Nat) (i : Instr), decodeWord w = .ok i → encode i = some (BitVec.ofNat 32 (w % 2 ^ 31))) ∧
  ∀ w, w < 2 ^ 32 → w / 2 ^ 24 % 128 = 0 → decodeWord w = if w % 2 ^ 24 = 0 then .ok .nop else .illegalOperand

/-- R267 to R350: words of the spec decode to the instructions that they stand for, one for each family. -/
def Obligations.DecodedWords : Prop :=
  decodeWord 0x01060840 = .ok (.add false 3 1 2 0) ∧
  decodeWord 0x1A0A2FFD = .ok (.addi false 5 5 0x7FD#11) ∧
  decodeWord 0x24211083 = .ok (.icmp 4 .lt .and 2 3) ∧
  decodeWord 0x27122005 = .ok (.lredAdd false 9 4) ∧
  decodeWord 0x2E0C1080 = .ok (.fadd64 false 6 2 4 0) ∧
  decodeWord 0x370E1803 = .ok (.frsq false 7 3) ∧
  decodeWord 0x3A064BA4 = .ok (.cvt false 3 9 .bf16 .f32 .rto) ∧
  decodeWord 0x400C3A02 = .ok (.lds false 6 7 .b32 2) ∧
  decodeWord 0x470DC41A = .ok (.atfd .add 55 4 6 .rel) ∧
  decodeWord 0x4B0A08C9 = .ok (.mmaTe8 40 2 3 4 true) ∧
  decodeWord 0x50000012 = .ok (.phase .system .acq) ∧
  decodeWord 0x5813FFF8 = .ok (.bra 2 0x3FFF8#18) ∧
  decodeWord 0x66000023 = .ok (.rvwait true 3) ∧
  decodeWord 0x6D008000 = .ok (.launch 8) ∧
  decodeWord 0x74000001 = .ok (.tret true) ∧
  decodeWord 0x76106191 = .ok (.fetch 4 6 3 2 1) ∧
  decodeWord 0x7E0C7000 = .ok (.waitt 3 7 0)

/-- R81, R83: a reserved major, 0x7F and the reserved codes of every FN, CND, CMB, SZ, AOP, DF, SF and RND field are ILLEGAL_OPCODE; a
slot that holds such a word, or a word that is not valid in its stream, traps, as the PRED forms of lanes do in the control stream. -/
def Obligations.ReservedEncodings : Prop :=
  (∀ w, w / 2 ^ 24 % 128 ∈ [0x3D, 0x3E, 0x3F, 0x54, 0x55, 0x56, 0x57, 0x62, 0x63, 0x6B, 0x7F] → decodeWord w = .illegalOpcode) ∧
  (∀ w, w / 2 ^ 24 % 128 = 0x22 → 11 ≤ w % 32 → decodeWord w = .illegalOpcode) ∧
  (∀ w, w / 2 ^ 24 % 128 = 0x23 → 4 ≤ w % 32 → decodeWord w = .illegalOpcode) ∧
  (∀ w, w / 2 ^ 24 % 128 = 0x26 → 11 ≤ w % 32 → decodeWord w = .illegalOpcode) ∧
  (∀ w, w / 2 ^ 24 % 128 = 0x27 → 10 ≤ w % 32 → decodeWord w = .illegalOpcode) ∧
  (∀ w, w / 2 ^ 24 % 128 = 0x37 → 14 ≤ w % 32 → decodeWord w = .illegalOpcode) ∧
  (∀ w, w / 2 ^ 24 % 128 = 0x60 → 3 ≤ w % 32 → decodeWord w = .illegalOpcode) ∧
  (∀ w, w / 2 ^ 24 % 128 = 0x53 → 5 ≤ w / 2 ^ 5 % 32 ∨ 5 ≤ w / 2 ^ 2 % 8 → decodeWord w = .illegalOpcode) ∧
  (∀ w, w / 2 ^ 24 % 128 ∈ [0x3B, 0x3C] → 5 ≤ w / 2 ^ 2 % 8 → decodeWord w = .illegalOpcode) ∧
  (∀ w, w / 2 ^ 24 % 128 ∈ [0x24, 0x25] → 10 ≤ w / 2 ^ 15 % 16 ∨ 6 ≤ w / 2 ^ 12 % 8 → decodeWord w = .illegalOpcode) ∧
  (∀ w, w / 2 ^ 24 % 128 ∈ [0x38, 0x39] → 8 ≤ w / 2 ^ 15 % 16 ∨ 6 ≤ w / 2 ^ 12 % 8 → decodeWord w = .illegalOpcode) ∧
  (∀ w, w / 2 ^ 24 % 128 ∈ [0x40, 0x41, 0x42, 0x43] → 5 ≤ w / 2 ^ 8 % 8 → decodeWord w = .illegalOpcode) ∧
  (∀ w, w / 2 ^ 24 % 128 ∈ [0x44, 0x45, 0x46, 0x47, 0x48] → w / 2 ^ 20 % 16 = 15 → decodeWord w = .illegalOpcode) ∧
  (∀ w, w / 2 ^ 24 % 128 = 0x3A → 14 ≤ w / 2 ^ 7 % 16 ∨ 14 ≤ w / 2 ^ 3 % 16 ∨ 5 ≤ w % 8 → decodeWord w = .illegalOpcode) ∧
  ∀ s : State,
    let w := s.codeWord s.curTeam (s.onCur fun _ st => st.pc)
    (decodeWord w = .illegalOpcode ∨ streamWord s.inLane w = false → s.runSlot = .next (s.trap .illegalOpcode)) ∧
    (decodeWord w = .illegalOperand → streamWord s.inLane w = true → s.runSlot = .next (s.trap .illegalOperand)) ∧
    ∀ (n : Bool) (d a : Reg), s.inLane = false →
      ∀ i ∈ [Instr.ptov n d, .vtop a, .ballot n d a, .pany d a, .pall d a], exec i s = .next (s.trap .illegalOpcode)

/-- What a step leaves of a slot that did not wait: a slot that completed is held no more. -/
def Sys2Proof.Claims.landed (t : State) : State :=
  if t.slotEnd = .none then t.modCur (fun _ st => { st with hold := none }) else t

/-- R30, R43, R65, R66, R72, R73: with an empty agenda the step issues what is due on the current core; what a stream issues whose word
decodes to an instruction is the meaning of that instruction on the state at that slot, for a packet in flight whose DIST has elapsed
and for a packet that begins and passes its checks; and an event of the agenda is the meaning of that event (log entry 1), but that one
whose result would make the rest of a packet in flight fault comes later (R73, R191; the model's reading: log entry 3): none is so while no
packet is in flight. After each, what comes to pass of itself has come to pass (R153, R229). -/
def Obligations.StepRunsInstruction : Prop :=
  (∀ (s : State) (k : Nat) (x : Candidate), s.agenda = [] → s.due s.curT.core = some (k, x) →
    step s = settled (s.portDone s.curT.core k x) ∧ s.tryIssue x.t x.q = some x.out) ∧
  (∀ (s : State) (b t : State) (i : Instr), s.slotEnd = .none → s.curT.place = .resident →
    s.onCur (fun _ st => st.halted = false ∧ st.stalled = false) →
    let w := b.codeWord b.curTeam (b.onCur fun _ st => st.pc)
    ((s.onCur (fun _ st => st.pkt.isSome) = true ∧ s.slotDue = true ∧ b = (s.modCur (fun _ st => st.restart)).beginSlot false) ∨
     (s.onCur (fun _ st => st.pkt.isSome) = false ∧ ∃ pc ex, s.onCur (fun _ st => st.issuePoint) = some (pc, ex) ∧
      s.issuePacket pc ex = issued (runChain 3 b))) →
    b.chains = false → streamWord b.inLane w = true → decodeWord w = .ok i → exec i b = .next t →
    (∀ o, t.slotEnd ≠ .held ∧ t.slotEnd ≠ .waits ∧ t.slotEnd ≠ .noLine o) →
    s.tryIssue s.curTeam s.curSel = some (.next (Claims.landed t))) ∧
  (∀ (s : State) (pc : Nat) (ex : Word),
    let k := s.curTeam
    let cw := s.codeWord k (pc / 16 * 16)
    let ws := s.slotWords k pc
    let now := s.modCur (fun _ st => st.settle (s.clkOf k) false)
    let b := (now.modCur (fun _ st => st.beginPacket pc cw ex)).beginSlot false
    s.codeHere k pc = true → pc < (s.gridOf k).segLen →
    now.onCur (fun _ st => st.packetReady (s.clkOf k) cw pc ws) = true →
    (s.onCur (fun _ st => st.started) = true ∨ s.targetOk k pc = true) →
    malformed cw (ws.getD 0 0) (ws.getD 1 0) (ws.getD 2 0) = false →
    b.check = .pass → s.issuePacket pc ex = issued (runChain 3 b)) ∧
  (∀ (s t : State) (i : Instr) (rest : List Act), s.agenda = .event i :: rest →
    let b : State := { s with agenda := rest, slotEnd := .none }
    exec i b = .next t → step s = settled (.next (if b.untimely t then b else t))) ∧
  (∀ s t : State, (∀ e ∈ s.teams, e.2.place = .resident → e.2.ctl.pkt = none ∧ ∀ g ∈ e.2.grps, g.2.pkt = none) → s.untimely t = false)

/-- R71, R72: a malformed packet that qualifies traps as a whole, at its entry, before any slot commits; each case of the rule is
malformed, and three slots without a literal or a bad SET, chained at most on pipes that differ, are not; a stream that has run past its segment, or is entered
at a bad entry point, traps BAD_TARGET; a packet that does not qualify does not issue. -/
def Obligations.PacketChecks : Prop :=
  (∀ cw s1 s2 s3 : Nat,
    let set (q : Nat) : Nat := bits cw (23 - 4 * q) (20 - 4 * q)
    let dist (q : Nat) : Nat := bits cw (9 - 2 * q) (8 - 2 * q)
    let lit2 := bits cw 0 0 = 1
    let lit3 := bits cw 1 1 = 1
    ((∃ q, 1 ≤ q ∧ q ≤ 3 ∧ 12 ≤ set q ∧ set q ≤ 14) → malformed cw s1 s2 s3 = true) ∧
    (lit2 → set 2 ≠ 15 ∨ dist 2 ≠ 0 ∨ namesLit s1 = false ∨ chainBit s1 = true → malformed cw s1 s2 s3 = true) ∧
    (lit3 → set 3 ≠ 15 ∨ dist 3 ≠ 0 ∨ lit2 ∨ namesLit s2 = false ∨ chainBit s2 = true → malformed cw s1 s2 s3 = true) ∧
    (¬ lit2 → namesLit s1 = true → malformed cw s1 s2 s3 = true) ∧
    (¬ lit2 → ¬ lit3 → namesLit s2 = true → malformed cw s1 s2 s3 = true) ∧
    (¬ lit3 → namesLit s3 = true ∨ chainBit s3 = true → malformed cw s1 s2 s3 = true) ∧
    let share (a b : Nat) : Prop := ∃ p, pipeOf (bits a 30 24) = some p ∧ pipeOf (bits b 30 24) = some p
    (chainBit s1 = true → share s1 s2 → malformed cw s1 s2 s3 = true) ∧
    (¬ lit2 → chainBit s2 = true → share s2 s3 ∨ (chainBit s1 = true ∧ share s1 s3) → malformed cw s1 s2 s3 = true) ∧
    (¬ lit2 → ¬ lit3 → (∀ q, 1 ≤ q → q ≤ 3 → set q ≤ 11 ∨ set q = 15) → (∀ x ∈ [s1, s2, s3], namesLit x = false) →
      chainBit s3 = false → (chainBit s1 = true → ¬ share s1 s2) → (chainBit s2 = true → ¬ share s2 s3) →
      (chainBit s1 = true → chainBit s2 = true → ¬ share s1 s3) → malformed cw s1 s2 s3 = false)) ∧
  (∀ (s : State) (pc : Nat) (ex : Word), s.codeHere s.curTeam pc = true → s.vectorHere = true →
    let k := s.curTeam
    let len := (s.gridOf k).segLen
    let cw := s.codeWord k (pc / 16 * 16)
    let ws := s.slotWords k pc
    let settled := s.modCur (fun _ st => st.settle (s.clkOf k) false)
    let ready := settled.onCur (fun _ st => st.packetReady (s.clkOf k) cw pc ws)
    let bad := malformed cw (ws.getD 0 0) (ws.getD 1 0) (ws.getD 2 0)
    (len ≤ pc → s.issuePacket pc ex = some (.next (s.trapPacket .badTarget pc 0 ex))) ∧
    (pc < len → ready = true → bad = true → s.issuePacket pc ex = some (.next (settled.trapPacket .illegalPacket pc cw ex))) ∧
    (pc < len → ready = true → bad = false → s.onCur (fun _ st => st.started) = false → s.targetOk k pc = false →
      s.issuePacket pc ex = some (.next (settled.trapPacket .badTarget pc cw ex))) ∧
    (pc < len → ready = false → s.issuePacket pc ex = none))

/-- R34: MMA, TLD, TST, ACCOP and TXEXP complete only when all 32 lanes execute; otherwise, valid and with legal operands, they
trap ILLEGAL_CONVERGENCE, and no register, predicate, mask, flag, tile, accumulator or timeline of the team changes. -/
def Obligations.CollectiveInstructions : Prop :=
  ∀ (s : State),
    let x : Use := { laneUse with pauses := true, mem := true }
    let tile (k : BitVec 4) : Prop := s.hasTile k.toNat = true
    let collective (i : Instr) (u : Use) : Prop :=
      (∀ t, exec i s = .next t → t.slotEnd = .none → s.executing = BitVec.allOnes 32) ∧
      (s.executing ≠ BitVec.allOnes 32 → s.ready u 0 →
        exec i s = .next (s.trap .illegalConvergence) ∧
        let t := s.trap .illegalConvergence
        (t.curT.tiles = s.curT.tiles ∧ t.curT.acc = s.curT.acc ∧ t.curT.tls = s.curT.tls) ∧
        s.rel t (fun _ st st' => st'.regs = st.regs ∧ st'.preds = st.preds ∧ st'.masks = st.masks ∧ st'.flags = st.flags))
    (∀ (a : BitVec 10) (t u : BitVec 4) (v : BitVec 5) (k r : Bool), tile t → tile u →
      collective (.mmaBf16 a t u k) x ∧ collective (.mmaF16 a t u k) x ∧ collective (.mmaF32 a t u k) x ∧
      (v.toNat ≤ 23 → pairOk s.blocks (2 * v.toNat) = true → collective (.mmaTe8 a t u v k) x ∧ collective (.mmaTe4 a t u v k) x) ∧
      (∀ b c : Reg, collective (.tld t b c r) { x with srcs := [b, c] } ∧ collective (.tst t b c r) { x with srcs := [b, c] }) ∧
      (∀ m, collective (.accrd a t m k) x) ∧ collective (.accwr a t) x ∧ collective (.accadd a t) x ∧ collective (.tzero t) x) ∧
    (∀ (a : BitVec 10) (t : BitVec 4), collective (.accz a t) x) ∧
    (∀ (n : Bool) (d a : Reg) (r : Rnd) (e : Bool), (resultDst s.inLane s.blocks n d).isSome = true →
      collective (.txexp n d a r e) { laneUse with srcs := [a] })

/-- R47: LAUNCH queues a child of its own grid on its own partition's launch queue, one level deeper than the parent, when it comes to
its end, and it does so on the try that reads its descriptor where that is legal; a packet of the host has depth 1; the grid of a packet
has its depth; LAUNCH by a thread whose grid has depth 10 traps DEPTH_EXCEEDED on the try that reads its descriptor, where no earlier
check fails, and nothing is queued. -/
def Obligations.NestingDepth : Prop :=
  (∀ (s : State) (a : Reg), s.curT.errs = [] → (s.pkg s.curT.port).errs = [] →
    let p := s.curT.port
    let n := s.curT.part
    let s0 := s.publish s.curTeam s.curSel true allDies
    let b := s0.localRead s.curTeam (s.ctlValue a) 64
    let queues (t : State) : Prop := ∃ q, (t.part p n).queue = (s.part p n).queue ++ [q] ∧ q.parent = some s.curT.grid ∧
      q.depth = (s.gridOf s.curTeam).depth + 1
    (∀ t, exec (.launch a) s = .next t → t.slotEnd = .none → queues t) ∧
    (s.ready { ctlUse with srcs := [a], mem := true } 0 → s.onCur (fun _ st => st.accBefore) = false → s.keptPair 64 = none →
      s.ctlValue a % 64 = 0 → s.localBad s.curTeam (s.ctlValue a) 64 = none →
      (s.launchFault b = none → s.releasable .package = true → (s.part p n).enabled = true → (s.part p n).queue.length < 512 →
        ∃ t, exec (.launch a) s = .next t ∧ t.slotEnd = .none ∧ queues t) ∧
      (10 ≤ (s.gridOf s.curTeam).depth → s.launchFault b ≠ none ∧
        (s.launchFault b = some (.depthExceeded, 0) → exec (.launch a) s = .next (s0.trapAt .depthExceeded [0]) ∧
          (s0.part p n).queue = (s.part p n).queue)))) ∧
  (∀ s : State, ∀ p n, ∀ q ∈ (((s.trapAt .depthExceeded [0]).part p n).queue), q ∈ (s.part p n).queue) ∧
  (∀ (s : State) (p q : Nat), s.mayFetch p q = true →
    ∃ t y, exec (.qiPacketFetch p q) s = .next t ∧ (t.part p (s.qi p q).part).queue = (s.part p (s.qi p q).part).queue ++ [y] ∧ y.depth = 1) ∧
  (∀ (s : State) (p n : Nat) (q : Queued), (s.part p n).front = some q → s.refusal p n q = none → bits (pk q.packet 24 4) 17 12 = 0 →
    ∃ t, exec (.gridDispatch p n) s = .next t ∧ (t.grid s.nextGrid).depth = q.depth ∧ (t.grid s.nextGrid).parent = q.parent)

/-- R32: a WAITM that would leave every lane of its group in mask-wait traps MASK_DEADLOCK; a lane that waits for a reply or at a
rendezvous prevents it. -/
def Obligations.MaskDeadlock : Prop :=
  ∀ (s : State) (k : BitVec 4), s.sound → k.toNat < 12 → s.ready laneUse 0 → s.handling = false →
    s.onCur (fun _ st => st.ex &&& st.mask k.toNat ≠ 0 ∧
      ∃ l, l < st.n ∧ (st.mask k.toNat).getLsbD l = true ∧ st.laneState l ≠ .exited ∧ st.ex.getLsbD l = false ∧
        (st.parkedOn k.toNat l = false ∨ st.pcOf l ≠ st.pc)) →
    (s.onCur (fun _ st => ∀ l, l < st.n → st.laneState l = .exited ∨ st.laneState l = .maskWait ∨
        (st.ex &&& st.mask k.toNat).getLsbD l = true) →
      exec (.waitm k) s = .next (s.trap .maskDeadlock)) ∧
    (s.onCur (fun _ st => ∃ l, l < st.n ∧ (st.ex &&& st.mask k.toNat).getLsbD l = false ∧
        (st.laneState l = .replyWait ∨ st.laneState l = .rvWait)) →
      ∃ t, exec (.waitm k) s = .next t ∧ t.slotEnd = .none ∧
        s.rel t (fun _ st st' => ∀ l, l < st.n → (st.ex &&& st.mask k.toNat).getLsbD l = true → st'.parkedOn k.toNat l = true))

/-- R49, R324, R325, R327: a trap of a stream without a handler, or in handler mode, ends its grid FAULTED: its teams are
retired, its queued children are discarded, and the resident children end ABORTED with their teams; a status that was
there before stands. -/
def Obligations.UnhandledTrap : Prop :=
  ∀ e ∈ [Instr.trap, Instr.brk], ∀ (s : State) (i : BitVec 12), s.ready { both with pauses := true } 0 →
    s.onCur (fun _ st => st.specFault.isNone) = true →
    (s.handling = true ∨ (if s.inLane then s.curT.ltrapvec else s.curT.ctrapvec).toNat % 2 ^ 32 = 0xFFFFFFFF) →
    let g := s.curT.grid
    (s.grid g).retired = false →
    ∃ t, exec (e i) s = .next t ∧ (t.grid g).status = some ((s.grid g).status.getD stFaulted) ∧
      (∀ k ∈ s.teamsOf g, (t.team k).place = .retired ∧ (t.team k).ctl.live = 0) ∧
      (∀ q ∈ (t.part (s.grid g).port (s.grid g).part).queue, q.parent ≠ some g) ∧
      ∀ c, c ≠ g → (s.grid c).parent = some g → (s.grid c).retired = false →
        (t.grid c).status = some ((s.grid c).status.getD stAborted) ∧ ∀ k ∈ s.teamsOf c, (t.team k).place = .retired
end

