-- ==== Sys2Proof/Laws/State.lean ====
section
/-! SUPPORT. One lemma for each field of each update of the state: what the update leaves alone, and what it changes. All are true
by unfolding, and simp uses them, so that no proof about a meaning unfolds a record. -/
namespace Sys2Proof.Laws
open Sys2Proof Sys2Proof.Machine


/-! ## State.setTeam -/

@[simp] theorem setTeam_now (s : State) (k : Nat) (x : Team) : (s.setTeam k x).now = s.now := rfl
@[simp] theorem setTeam_agenda (s : State) (k : Nat) (x : Team) : (s.setTeam k x).agenda = s.agenda := rfl
@[simp] theorem setTeam_curTeam (s : State) (k : Nat) (x : Team) : (s.setTeam k x).curTeam = s.curTeam := rfl
@[simp] theorem setTeam_curSel (s : State) (k : Nat) (x : Team) : (s.setTeam k x).curSel = s.curSel := rfl
@[simp] theorem setTeam_slotEnd (s : State) (k : Nat) (x : Team) : (s.setTeam k x).slotEnd = s.slotEnd := rfl
@[simp] theorem setTeam_freeCount (s : State) (k : Nat) (x : Team) : (s.setTeam k x).freeCount = s.freeCount := rfl
@[simp] theorem setTeam_teams (s : State) (k : Nat) (x : Team) : (s.setTeam k x).teams = Map.set s.teams k x := rfl
@[simp] theorem setTeam_grids (s : State) (k : Nat) (x : Team) : (s.setTeam k x).grids = s.grids := rfl
@[simp] theorem setTeam_cores (s : State) (k : Nat) (x : Team) : (s.setTeam k x).cores = s.cores := rfl
@[simp] theorem setTeam_pkgs (s : State) (k : Nat) (x : Team) : (s.setTeam k x).pkgs = s.pkgs := rfl
@[simp] theorem setTeam_mods (s : State) (k : Nat) (x : Team) : (s.setTeam k x).mods = s.mods := rfl
@[simp] theorem setTeam_links (s : State) (k : Nat) (x : Team) : (s.setTeam k x).links = s.links := rfl
@[simp] theorem setTeam_lanes (s : State) (k : Nat) (x : Team) : (s.setTeam k x).lanes = s.lanes := rfl
@[simp] theorem setTeam_xfers (s : State) (k : Nat) (x : Team) : (s.setTeam k x).xfers = s.xfers := rfl
@[simp] theorem setTeam_fars (s : State) (k : Nat) (x : Team) : (s.setTeam k x).fars = s.fars := rfl
@[simp] theorem setTeam_fences (s : State) (k : Nat) (x : Team) : (s.setTeam k x).fences = s.fences := rfl
@[simp] theorem setTeam_nextTeam (s : State) (k : Nat) (x : Team) : (s.setTeam k x).nextTeam = s.nextTeam := rfl
@[simp] theorem setTeam_nextGrid (s : State) (k : Nat) (x : Team) : (s.setTeam k x).nextGrid = s.nextGrid := rfl
@[simp] theorem setTeam_nextXfer (s : State) (k : Nat) (x : Team) : (s.setTeam k x).nextXfer = s.nextXfer := rfl
@[simp] theorem setTeam_nextFar (s : State) (k : Nat) (x : Team) : (s.setTeam k x).nextFar = s.nextFar := rfl
@[simp] theorem setTeam_nextId (s : State) (k : Nat) (x : Team) : (s.setTeam k x).nextId = s.nextId := rfl
@[simp] theorem setTeam_host (s : State) (k : Nat) (x : Team) : (s.setTeam k x).host = s.host := rfl
@[simp] theorem setTeam_dma (s : State) (k : Nat) (x : Team) : (s.setTeam k x).dma = s.dma := rfl
@[simp] theorem setTeam_msix (s : State) (k : Nat) (x : Team) : (s.setTeam k x).msix = s.msix := rfl
@[simp] theorem setTeam_dark (s : State) (k : Nat) (x : Team) : (s.setTeam k x).dark = s.dark := rfl
@[simp] theorem setTeam_hostRead (s : State) (k : Nat) (x : Team) : (s.setTeam k x).hostRead = s.hostRead := rfl
@[simp] theorem setTeam_spdm (s : State) (k : Nat) (x : Team) : (s.setTeam k x).spdm = s.spdm := rfl

/-! ## State.setGrid -/

@[simp] theorem setGrid_now (s : State) (k : Nat) (x : Grid) : (s.setGrid k x).now = s.now := rfl
@[simp] theorem setGrid_agenda (s : State) (k : Nat) (x : Grid) : (s.setGrid k x).agenda = s.agenda := rfl
@[simp] theorem setGrid_curTeam (s : State) (k : Nat) (x : Grid) : (s.setGrid k x).curTeam = s.curTeam := rfl
@[simp] theorem setGrid_curSel (s : State) (k : Nat) (x : Grid) : (s.setGrid k x).curSel = s.curSel := rfl
@[simp] theorem setGrid_slotEnd (s : State) (k : Nat) (x : Grid) : (s.setGrid k x).slotEnd = s.slotEnd := rfl
@[simp] theorem setGrid_freeCount (s : State) (k : Nat) (x : Grid) : (s.setGrid k x).freeCount = s.freeCount := rfl
@[simp] theorem setGrid_teams (s : State) (k : Nat) (x : Grid) : (s.setGrid k x).teams = s.teams := rfl
@[simp] theorem setGrid_grids (s : State) (k : Nat) (x : Grid) : (s.setGrid k x).grids = Map.set s.grids k x := rfl
@[simp] theorem setGrid_cores (s : State) (k : Nat) (x : Grid) : (s.setGrid k x).cores = s.cores := rfl
@[simp] theorem setGrid_pkgs (s : State) (k : Nat) (x : Grid) : (s.setGrid k x).pkgs = s.pkgs := rfl
@[simp] theorem setGrid_mods (s : State) (k : Nat) (x : Grid) : (s.setGrid k x).mods = s.mods := rfl
@[simp] theorem setGrid_links (s : State) (k : Nat) (x : Grid) : (s.setGrid k x).links = s.links := rfl
@[simp] theorem setGrid_lanes (s : State) (k : Nat) (x : Grid) : (s.setGrid k x).lanes = s.lanes := rfl
@[simp] theorem setGrid_xfers (s : State) (k : Nat) (x : Grid) : (s.setGrid k x).xfers = s.xfers := rfl
@[simp] theorem setGrid_fars (s : State) (k : Nat) (x : Grid) : (s.setGrid k x).fars = s.fars := rfl
@[simp] theorem setGrid_fences (s : State) (k : Nat) (x : Grid) : (s.setGrid k x).fences = s.fences := rfl
@[simp] theorem setGrid_nextTeam (s : State) (k : Nat) (x : Grid) : (s.setGrid k x).nextTeam = s.nextTeam := rfl
@[simp] theorem setGrid_nextGrid (s : State) (k : Nat) (x : Grid) : (s.setGrid k x).nextGrid = s.nextGrid := rfl
@[simp] theorem setGrid_nextXfer (s : State) (k : Nat) (x : Grid) : (s.setGrid k x).nextXfer = s.nextXfer := rfl
@[simp] theorem setGrid_nextFar (s : State) (k : Nat) (x : Grid) : (s.setGrid k x).nextFar = s.nextFar := rfl
@[simp] theorem setGrid_nextId (s : State) (k : Nat) (x : Grid) : (s.setGrid k x).nextId = s.nextId := rfl
@[simp] theorem setGrid_host (s : State) (k : Nat) (x : Grid) : (s.setGrid k x).host = s.host := rfl
@[simp] theorem setGrid_dma (s : State) (k : Nat) (x : Grid) : (s.setGrid k x).dma = s.dma := rfl
@[simp] theorem setGrid_msix (s : State) (k : Nat) (x : Grid) : (s.setGrid k x).msix = s.msix := rfl
@[simp] theorem setGrid_dark (s : State) (k : Nat) (x : Grid) : (s.setGrid k x).dark = s.dark := rfl
@[simp] theorem setGrid_hostRead (s : State) (k : Nat) (x : Grid) : (s.setGrid k x).hostRead = s.hostRead := rfl
@[simp] theorem setGrid_spdm (s : State) (k : Nat) (x : Grid) : (s.setGrid k x).spdm = s.spdm := rfl

/-! ## State.setCore -/

@[simp] theorem setCore_now (s : State) (k : Nat) (x : Core) : (s.setCore k x).now = s.now := rfl
@[simp] theorem setCore_agenda (s : State) (k : Nat) (x : Core) : (s.setCore k x).agenda = s.agenda := rfl
@[simp] theorem setCore_curTeam (s : State) (k : Nat) (x : Core) : (s.setCore k x).curTeam = s.curTeam := rfl
@[simp] theorem setCore_curSel (s : State) (k : Nat) (x : Core) : (s.setCore k x).curSel = s.curSel := rfl
@[simp] theorem setCore_slotEnd (s : State) (k : Nat) (x : Core) : (s.setCore k x).slotEnd = s.slotEnd := rfl
@[simp] theorem setCore_freeCount (s : State) (k : Nat) (x : Core) : (s.setCore k x).freeCount = s.freeCount := rfl
@[simp] theorem setCore_teams (s : State) (k : Nat) (x : Core) : (s.setCore k x).teams = s.teams := rfl
@[simp] theorem setCore_grids (s : State) (k : Nat) (x : Core) : (s.setCore k x).grids = s.grids := rfl
@[simp] theorem setCore_cores (s : State) (k : Nat) (x : Core) : (s.setCore k x).cores = Map.set s.cores k x := rfl
@[simp] theorem setCore_pkgs (s : State) (k : Nat) (x : Core) : (s.setCore k x).pkgs = s.pkgs := rfl
@[simp] theorem setCore_mods (s : State) (k : Nat) (x : Core) : (s.setCore k x).mods = s.mods := rfl
@[simp] theorem setCore_links (s : State) (k : Nat) (x : Core) : (s.setCore k x).links = s.links := rfl
@[simp] theorem setCore_lanes (s : State) (k : Nat) (x : Core) : (s.setCore k x).lanes = s.lanes := rfl
@[simp] theorem setCore_xfers (s : State) (k : Nat) (x : Core) : (s.setCore k x).xfers = s.xfers := rfl
@[simp] theorem setCore_fars (s : State) (k : Nat) (x : Core) : (s.setCore k x).fars = s.fars := rfl
@[simp] theorem setCore_fences (s : State) (k : Nat) (x : Core) : (s.setCore k x).fences = s.fences := rfl
@[simp] theorem setCore_nextTeam (s : State) (k : Nat) (x : Core) : (s.setCore k x).nextTeam = s.nextTeam := rfl
@[simp] theorem setCore_nextGrid (s : State) (k : Nat) (x : Core) : (s.setCore k x).nextGrid = s.nextGrid := rfl
@[simp] theorem setCore_nextXfer (s : State) (k : Nat) (x : Core) : (s.setCore k x).nextXfer = s.nextXfer := rfl
@[simp] theorem setCore_nextFar (s : State) (k : Nat) (x : Core) : (s.setCore k x).nextFar = s.nextFar := rfl
@[simp] theorem setCore_nextId (s : State) (k : Nat) (x : Core) : (s.setCore k x).nextId = s.nextId := rfl
@[simp] theorem setCore_host (s : State) (k : Nat) (x : Core) : (s.setCore k x).host = s.host := rfl
@[simp] theorem setCore_dma (s : State) (k : Nat) (x : Core) : (s.setCore k x).dma = s.dma := rfl
@[simp] theorem setCore_msix (s : State) (k : Nat) (x : Core) : (s.setCore k x).msix = s.msix := rfl
@[simp] theorem setCore_dark (s : State) (k : Nat) (x : Core) : (s.setCore k x).dark = s.dark := rfl
@[simp] theorem setCore_hostRead (s : State) (k : Nat) (x : Core) : (s.setCore k x).hostRead = s.hostRead := rfl
@[simp] theorem setCore_spdm (s : State) (k : Nat) (x : Core) : (s.setCore k x).spdm = s.spdm := rfl

/-! ## State.setPkg -/

@[simp] theorem setPkg_now (s : State) (k : Nat) (x : Pkg) : (s.setPkg k x).now = s.now := rfl
@[simp] theorem setPkg_agenda (s : State) (k : Nat) (x : Pkg) : (s.setPkg k x).agenda = s.agenda := rfl
@[simp] theorem setPkg_curTeam (s : State) (k : Nat) (x : Pkg) : (s.setPkg k x).curTeam = s.curTeam := rfl
@[simp] theorem setPkg_curSel (s : State) (k : Nat) (x : Pkg) : (s.setPkg k x).curSel = s.curSel := rfl
@[simp] theorem setPkg_slotEnd (s : State) (k : Nat) (x : Pkg) : (s.setPkg k x).slotEnd = s.slotEnd := rfl
@[simp] theorem setPkg_freeCount (s : State) (k : Nat) (x : Pkg) : (s.setPkg k x).freeCount = s.freeCount := rfl
@[simp] theorem setPkg_teams (s : State) (k : Nat) (x : Pkg) : (s.setPkg k x).teams = s.teams := rfl
@[simp] theorem setPkg_grids (s : State) (k : Nat) (x : Pkg) : (s.setPkg k x).grids = s.grids := rfl
@[simp] theorem setPkg_cores (s : State) (k : Nat) (x : Pkg) : (s.setPkg k x).cores = s.cores := rfl
@[simp] theorem setPkg_pkgs (s : State) (k : Nat) (x : Pkg) : (s.setPkg k x).pkgs = Map.set s.pkgs k x := rfl
@[simp] theorem setPkg_mods (s : State) (k : Nat) (x : Pkg) : (s.setPkg k x).mods = s.mods := rfl
@[simp] theorem setPkg_links (s : State) (k : Nat) (x : Pkg) : (s.setPkg k x).links = s.links := rfl
@[simp] theorem setPkg_lanes (s : State) (k : Nat) (x : Pkg) : (s.setPkg k x).lanes = s.lanes := rfl
@[simp] theorem setPkg_xfers (s : State) (k : Nat) (x : Pkg) : (s.setPkg k x).xfers = s.xfers := rfl
@[simp] theorem setPkg_fars (s : State) (k : Nat) (x : Pkg) : (s.setPkg k x).fars = s.fars := rfl
@[simp] theorem setPkg_fences (s : State) (k : Nat) (x : Pkg) : (s.setPkg k x).fences = s.fences := rfl
@[simp] theorem setPkg_nextTeam (s : State) (k : Nat) (x : Pkg) : (s.setPkg k x).nextTeam = s.nextTeam := rfl
@[simp] theorem setPkg_nextGrid (s : State) (k : Nat) (x : Pkg) : (s.setPkg k x).nextGrid = s.nextGrid := rfl
@[simp] theorem setPkg_nextXfer (s : State) (k : Nat) (x : Pkg) : (s.setPkg k x).nextXfer = s.nextXfer := rfl
@[simp] theorem setPkg_nextFar (s : State) (k : Nat) (x : Pkg) : (s.setPkg k x).nextFar = s.nextFar := rfl
@[simp] theorem setPkg_nextId (s : State) (k : Nat) (x : Pkg) : (s.setPkg k x).nextId = s.nextId := rfl
@[simp] theorem setPkg_host (s : State) (k : Nat) (x : Pkg) : (s.setPkg k x).host = s.host := rfl
@[simp] theorem setPkg_dma (s : State) (k : Nat) (x : Pkg) : (s.setPkg k x).dma = s.dma := rfl
@[simp] theorem setPkg_msix (s : State) (k : Nat) (x : Pkg) : (s.setPkg k x).msix = s.msix := rfl
@[simp] theorem setPkg_dark (s : State) (k : Nat) (x : Pkg) : (s.setPkg k x).dark = s.dark := rfl
@[simp] theorem setPkg_hostRead (s : State) (k : Nat) (x : Pkg) : (s.setPkg k x).hostRead = s.hostRead := rfl
@[simp] theorem setPkg_spdm (s : State) (k : Nat) (x : Pkg) : (s.setPkg k x).spdm = s.spdm := rfl

/-! ## State.setMod -/

@[simp] theorem setMod_now (s : State) (k : Nat) (x : Module) : (s.setMod k x).now = s.now := rfl
@[simp] theorem setMod_agenda (s : State) (k : Nat) (x : Module) : (s.setMod k x).agenda = s.agenda := rfl
@[simp] theorem setMod_curTeam (s : State) (k : Nat) (x : Module) : (s.setMod k x).curTeam = s.curTeam := rfl
@[simp] theorem setMod_curSel (s : State) (k : Nat) (x : Module) : (s.setMod k x).curSel = s.curSel := rfl
@[simp] theorem setMod_slotEnd (s : State) (k : Nat) (x : Module) : (s.setMod k x).slotEnd = s.slotEnd := rfl
@[simp] theorem setMod_freeCount (s : State) (k : Nat) (x : Module) : (s.setMod k x).freeCount = s.freeCount := rfl
@[simp] theorem setMod_teams (s : State) (k : Nat) (x : Module) : (s.setMod k x).teams = s.teams := rfl
@[simp] theorem setMod_grids (s : State) (k : Nat) (x : Module) : (s.setMod k x).grids = s.grids := rfl
@[simp] theorem setMod_cores (s : State) (k : Nat) (x : Module) : (s.setMod k x).cores = s.cores := rfl
@[simp] theorem setMod_pkgs (s : State) (k : Nat) (x : Module) : (s.setMod k x).pkgs = s.pkgs := rfl
@[simp] theorem setMod_mods (s : State) (k : Nat) (x : Module) : (s.setMod k x).mods = Map.set s.mods k x := rfl
@[simp] theorem setMod_links (s : State) (k : Nat) (x : Module) : (s.setMod k x).links = s.links := rfl
@[simp] theorem setMod_lanes (s : State) (k : Nat) (x : Module) : (s.setMod k x).lanes = s.lanes := rfl
@[simp] theorem setMod_xfers (s : State) (k : Nat) (x : Module) : (s.setMod k x).xfers = s.xfers := rfl
@[simp] theorem setMod_fars (s : State) (k : Nat) (x : Module) : (s.setMod k x).fars = s.fars := rfl
@[simp] theorem setMod_fences (s : State) (k : Nat) (x : Module) : (s.setMod k x).fences = s.fences := rfl
@[simp] theorem setMod_nextTeam (s : State) (k : Nat) (x : Module) : (s.setMod k x).nextTeam = s.nextTeam := rfl
@[simp] theorem setMod_nextGrid (s : State) (k : Nat) (x : Module) : (s.setMod k x).nextGrid = s.nextGrid := rfl
@[simp] theorem setMod_nextXfer (s : State) (k : Nat) (x : Module) : (s.setMod k x).nextXfer = s.nextXfer := rfl
@[simp] theorem setMod_nextFar (s : State) (k : Nat) (x : Module) : (s.setMod k x).nextFar = s.nextFar := rfl
@[simp] theorem setMod_nextId (s : State) (k : Nat) (x : Module) : (s.setMod k x).nextId = s.nextId := rfl
@[simp] theorem setMod_host (s : State) (k : Nat) (x : Module) : (s.setMod k x).host = s.host := rfl
@[simp] theorem setMod_dma (s : State) (k : Nat) (x : Module) : (s.setMod k x).dma = s.dma := rfl
@[simp] theorem setMod_msix (s : State) (k : Nat) (x : Module) : (s.setMod k x).msix = s.msix := rfl
@[simp] theorem setMod_dark (s : State) (k : Nat) (x : Module) : (s.setMod k x).dark = s.dark := rfl
@[simp] theorem setMod_hostRead (s : State) (k : Nat) (x : Module) : (s.setMod k x).hostRead = s.hostRead := rfl
@[simp] theorem setMod_spdm (s : State) (k : Nat) (x : Module) : (s.setMod k x).spdm = s.spdm := rfl

/-! ## State.setPart -/

@[simp] theorem setPart_now (s : State) (p n : Nat) (x : Part) : (s.setPart p n x).now = s.now := rfl
@[simp] theorem setPart_agenda (s : State) (p n : Nat) (x : Part) : (s.setPart p n x).agenda = s.agenda := rfl
@[simp] theorem setPart_curTeam (s : State) (p n : Nat) (x : Part) : (s.setPart p n x).curTeam = s.curTeam := rfl
@[simp] theorem setPart_curSel (s : State) (p n : Nat) (x : Part) : (s.setPart p n x).curSel = s.curSel := rfl
@[simp] theorem setPart_slotEnd (s : State) (p n : Nat) (x : Part) : (s.setPart p n x).slotEnd = s.slotEnd := rfl
@[simp] theorem setPart_freeCount (s : State) (p n : Nat) (x : Part) : (s.setPart p n x).freeCount = s.freeCount := rfl
@[simp] theorem setPart_teams (s : State) (p n : Nat) (x : Part) : (s.setPart p n x).teams = s.teams := rfl
@[simp] theorem setPart_grids (s : State) (p n : Nat) (x : Part) : (s.setPart p n x).grids = s.grids := rfl
@[simp] theorem setPart_cores (s : State) (p n : Nat) (x : Part) : (s.setPart p n x).cores = s.cores := rfl
@[simp] theorem setPart_mods (s : State) (p n : Nat) (x : Part) : (s.setPart p n x).mods = s.mods := rfl
@[simp] theorem setPart_links (s : State) (p n : Nat) (x : Part) : (s.setPart p n x).links = s.links := rfl
@[simp] theorem setPart_lanes (s : State) (p n : Nat) (x : Part) : (s.setPart p n x).lanes = s.lanes := rfl
@[simp] theorem setPart_xfers (s : State) (p n : Nat) (x : Part) : (s.setPart p n x).xfers = s.xfers := rfl
@[simp] theorem setPart_fars (s : State) (p n : Nat) (x : Part) : (s.setPart p n x).fars = s.fars := rfl
@[simp] theorem setPart_fences (s : State) (p n : Nat) (x : Part) : (s.setPart p n x).fences = s.fences := rfl
@[simp] theorem setPart_nextTeam (s : State) (p n : Nat) (x : Part) : (s.setPart p n x).nextTeam = s.nextTeam := rfl
@[simp] theorem setPart_nextGrid (s : State) (p n : Nat) (x : Part) : (s.setPart p n x).nextGrid = s.nextGrid := rfl
@[simp] theorem setPart_nextXfer (s : State) (p n : Nat) (x : Part) : (s.setPart p n x).nextXfer = s.nextXfer := rfl
@[simp] theorem setPart_nextFar (s : State) (p n : Nat) (x : Part) : (s.setPart p n x).nextFar = s.nextFar := rfl
@[simp] theorem setPart_nextId (s : State) (p n : Nat) (x : Part) : (s.setPart p n x).nextId = s.nextId := rfl
@[simp] theorem setPart_host (s : State) (p n : Nat) (x : Part) : (s.setPart p n x).host = s.host := rfl
@[simp] theorem setPart_dma (s : State) (p n : Nat) (x : Part) : (s.setPart p n x).dma = s.dma := rfl
@[simp] theorem setPart_msix (s : State) (p n : Nat) (x : Part) : (s.setPart p n x).msix = s.msix := rfl
@[simp] theorem setPart_dark (s : State) (p n : Nat) (x : Part) : (s.setPart p n x).dark = s.dark := rfl
@[simp] theorem setPart_hostRead (s : State) (p n : Nat) (x : Part) : (s.setPart p n x).hostRead = s.hostRead := rfl
@[simp] theorem setPart_spdm (s : State) (p n : Nat) (x : Part) : (s.setPart p n x).spdm = s.spdm := rfl

/-! ## State.setQi -/

@[simp] theorem setQi_now (s : State) (p n : Nat) (x : Qi) : (s.setQi p n x).now = s.now := rfl
@[simp] theorem setQi_agenda (s : State) (p n : Nat) (x : Qi) : (s.setQi p n x).agenda = s.agenda := rfl
@[simp] theorem setQi_curTeam (s : State) (p n : Nat) (x : Qi) : (s.setQi p n x).curTeam = s.curTeam := rfl
@[simp] theorem setQi_curSel (s : State) (p n : Nat) (x : Qi) : (s.setQi p n x).curSel = s.curSel := rfl
@[simp] theorem setQi_slotEnd (s : State) (p n : Nat) (x : Qi) : (s.setQi p n x).slotEnd = s.slotEnd := rfl
@[simp] theorem setQi_freeCount (s : State) (p n : Nat) (x : Qi) : (s.setQi p n x).freeCount = s.freeCount := rfl
@[simp] theorem setQi_teams (s : State) (p n : Nat) (x : Qi) : (s.setQi p n x).teams = s.teams := rfl
@[simp] theorem setQi_grids (s : State) (p n : Nat) (x : Qi) : (s.setQi p n x).grids = s.grids := rfl
@[simp] theorem setQi_cores (s : State) (p n : Nat) (x : Qi) : (s.setQi p n x).cores = s.cores := rfl
@[simp] theorem setQi_mods (s : State) (p n : Nat) (x : Qi) : (s.setQi p n x).mods = s.mods := rfl
@[simp] theorem setQi_links (s : State) (p n : Nat) (x : Qi) : (s.setQi p n x).links = s.links := rfl
@[simp] theorem setQi_lanes (s : State) (p n : Nat) (x : Qi) : (s.setQi p n x).lanes = s.lanes := rfl
@[simp] theorem setQi_xfers (s : State) (p n : Nat) (x : Qi) : (s.setQi p n x).xfers = s.xfers := rfl
@[simp] theorem setQi_fars (s : State) (p n : Nat) (x : Qi) : (s.setQi p n x).fars = s.fars := rfl
@[simp] theorem setQi_fences (s : State) (p n : Nat) (x : Qi) : (s.setQi p n x).fences = s.fences := rfl
@[simp] theorem setQi_nextTeam (s : State) (p n : Nat) (x : Qi) : (s.setQi p n x).nextTeam = s.nextTeam := rfl
@[simp] theorem setQi_nextGrid (s : State) (p n : Nat) (x : Qi) : (s.setQi p n x).nextGrid = s.nextGrid := rfl
@[simp] theorem setQi_nextXfer (s : State) (p n : Nat) (x : Qi) : (s.setQi p n x).nextXfer = s.nextXfer := rfl
@[simp] theorem setQi_nextFar (s : State) (p n : Nat) (x : Qi) : (s.setQi p n x).nextFar = s.nextFar := rfl
@[simp] theorem setQi_nextId (s : State) (p n : Nat) (x : Qi) : (s.setQi p n x).nextId = s.nextId := rfl
@[simp] theorem setQi_host (s : State) (p n : Nat) (x : Qi) : (s.setQi p n x).host = s.host := rfl
@[simp] theorem setQi_dma (s : State) (p n : Nat) (x : Qi) : (s.setQi p n x).dma = s.dma := rfl
@[simp] theorem setQi_msix (s : State) (p n : Nat) (x : Qi) : (s.setQi p n x).msix = s.msix := rfl
@[simp] theorem setQi_dark (s : State) (p n : Nat) (x : Qi) : (s.setQi p n x).dark = s.dark := rfl
@[simp] theorem setQi_hostRead (s : State) (p n : Nat) (x : Qi) : (s.setQi p n x).hostRead = s.hostRead := rfl
@[simp] theorem setQi_spdm (s : State) (p n : Nat) (x : Qi) : (s.setQi p n x).spdm = s.spdm := rfl

/-! ## State.setVf -/

@[simp] theorem setVf_now (s : State) (p n : Nat) (x : Vf) : (s.setVf p n x).now = s.now := rfl
@[simp] theorem setVf_agenda (s : State) (p n : Nat) (x : Vf) : (s.setVf p n x).agenda = s.agenda := rfl
@[simp] theorem setVf_curTeam (s : State) (p n : Nat) (x : Vf) : (s.setVf p n x).curTeam = s.curTeam := rfl
@[simp] theorem setVf_curSel (s : State) (p n : Nat) (x : Vf) : (s.setVf p n x).curSel = s.curSel := rfl
@[simp] theorem setVf_slotEnd (s : State) (p n : Nat) (x : Vf) : (s.setVf p n x).slotEnd = s.slotEnd := rfl
@[simp] theorem setVf_freeCount (s : State) (p n : Nat) (x : Vf) : (s.setVf p n x).freeCount = s.freeCount := rfl
@[simp] theorem setVf_teams (s : State) (p n : Nat) (x : Vf) : (s.setVf p n x).teams = s.teams := rfl
@[simp] theorem setVf_grids (s : State) (p n : Nat) (x : Vf) : (s.setVf p n x).grids = s.grids := rfl
@[simp] theorem setVf_cores (s : State) (p n : Nat) (x : Vf) : (s.setVf p n x).cores = s.cores := rfl
@[simp] theorem setVf_mods (s : State) (p n : Nat) (x : Vf) : (s.setVf p n x).mods = s.mods := rfl
@[simp] theorem setVf_links (s : State) (p n : Nat) (x : Vf) : (s.setVf p n x).links = s.links := rfl
@[simp] theorem setVf_lanes (s : State) (p n : Nat) (x : Vf) : (s.setVf p n x).lanes = s.lanes := rfl
@[simp] theorem setVf_xfers (s : State) (p n : Nat) (x : Vf) : (s.setVf p n x).xfers = s.xfers := rfl
@[simp] theorem setVf_fars (s : State) (p n : Nat) (x : Vf) : (s.setVf p n x).fars = s.fars := rfl
@[simp] theorem setVf_fences (s : State) (p n : Nat) (x : Vf) : (s.setVf p n x).fences = s.fences := rfl
@[simp] theorem setVf_nextTeam (s : State) (p n : Nat) (x : Vf) : (s.setVf p n x).nextTeam = s.nextTeam := rfl
@[simp] theorem setVf_nextGrid (s : State) (p n : Nat) (x : Vf) : (s.setVf p n x).nextGrid = s.nextGrid := rfl
@[simp] theorem setVf_nextXfer (s : State) (p n : Nat) (x : Vf) : (s.setVf p n x).nextXfer = s.nextXfer := rfl
@[simp] theorem setVf_nextFar (s : State) (p n : Nat) (x : Vf) : (s.setVf p n x).nextFar = s.nextFar := rfl
@[simp] theorem setVf_nextId (s : State) (p n : Nat) (x : Vf) : (s.setVf p n x).nextId = s.nextId := rfl
@[simp] theorem setVf_host (s : State) (p n : Nat) (x : Vf) : (s.setVf p n x).host = s.host := rfl
@[simp] theorem setVf_dma (s : State) (p n : Nat) (x : Vf) : (s.setVf p n x).dma = s.dma := rfl
@[simp] theorem setVf_msix (s : State) (p n : Nat) (x : Vf) : (s.setVf p n x).msix = s.msix := rfl
@[simp] theorem setVf_dark (s : State) (p n : Nat) (x : Vf) : (s.setVf p n x).dark = s.dark := rfl
@[simp] theorem setVf_hostRead (s : State) (p n : Nat) (x : Vf) : (s.setVf p n x).hostRead = s.hostRead := rfl
@[simp] theorem setVf_spdm (s : State) (p n : Nat) (x : Vf) : (s.setVf p n x).spdm = s.spdm := rfl

/-! ## State.setLink -/

@[simp] theorem setLink_now (s : State) (l : LinkId) (x : Link) : (s.setLink l x).now = s.now := rfl
@[simp] theorem setLink_agenda (s : State) (l : LinkId) (x : Link) : (s.setLink l x).agenda = s.agenda := rfl
@[simp] theorem setLink_curTeam (s : State) (l : LinkId) (x : Link) : (s.setLink l x).curTeam = s.curTeam := rfl
@[simp] theorem setLink_curSel (s : State) (l : LinkId) (x : Link) : (s.setLink l x).curSel = s.curSel := rfl
@[simp] theorem setLink_slotEnd (s : State) (l : LinkId) (x : Link) : (s.setLink l x).slotEnd = s.slotEnd := rfl
@[simp] theorem setLink_freeCount (s : State) (l : LinkId) (x : Link) : (s.setLink l x).freeCount = s.freeCount := rfl
@[simp] theorem setLink_teams (s : State) (l : LinkId) (x : Link) : (s.setLink l x).teams = s.teams := rfl
@[simp] theorem setLink_grids (s : State) (l : LinkId) (x : Link) : (s.setLink l x).grids = s.grids := rfl
@[simp] theorem setLink_cores (s : State) (l : LinkId) (x : Link) : (s.setLink l x).cores = s.cores := rfl
@[simp] theorem setLink_pkgs (s : State) (l : LinkId) (x : Link) : (s.setLink l x).pkgs = s.pkgs := rfl
@[simp] theorem setLink_mods (s : State) (l : LinkId) (x : Link) : (s.setLink l x).mods = s.mods := rfl
@[simp] theorem setLink_lanes (s : State) (l : LinkId) (x : Link) : (s.setLink l x).lanes = s.lanes := rfl
@[simp] theorem setLink_xfers (s : State) (l : LinkId) (x : Link) : (s.setLink l x).xfers = s.xfers := rfl
@[simp] theorem setLink_fars (s : State) (l : LinkId) (x : Link) : (s.setLink l x).fars = s.fars := rfl
@[simp] theorem setLink_fences (s : State) (l : LinkId) (x : Link) : (s.setLink l x).fences = s.fences := rfl
@[simp] theorem setLink_nextTeam (s : State) (l : LinkId) (x : Link) : (s.setLink l x).nextTeam = s.nextTeam := rfl
@[simp] theorem setLink_nextGrid (s : State) (l : LinkId) (x : Link) : (s.setLink l x).nextGrid = s.nextGrid := rfl
@[simp] theorem setLink_nextXfer (s : State) (l : LinkId) (x : Link) : (s.setLink l x).nextXfer = s.nextXfer := rfl
@[simp] theorem setLink_nextFar (s : State) (l : LinkId) (x : Link) : (s.setLink l x).nextFar = s.nextFar := rfl
@[simp] theorem setLink_nextId (s : State) (l : LinkId) (x : Link) : (s.setLink l x).nextId = s.nextId := rfl
@[simp] theorem setLink_host (s : State) (l : LinkId) (x : Link) : (s.setLink l x).host = s.host := rfl
@[simp] theorem setLink_dma (s : State) (l : LinkId) (x : Link) : (s.setLink l x).dma = s.dma := rfl
@[simp] theorem setLink_msix (s : State) (l : LinkId) (x : Link) : (s.setLink l x).msix = s.msix := rfl
@[simp] theorem setLink_dark (s : State) (l : LinkId) (x : Link) : (s.setLink l x).dark = s.dark := rfl
@[simp] theorem setLink_hostRead (s : State) (l : LinkId) (x : Link) : (s.setLink l x).hostRead = s.hostRead := rfl
@[simp] theorem setLink_spdm (s : State) (l : LinkId) (x : Link) : (s.setLink l x).spdm = s.spdm := rfl

/-! ## State.setLane -/

@[simp] theorem setLane_now (s : State) (p m k : Nat) (u : Bool) (x : Lane) : (s.setLane p m k u x).now = s.now := rfl
@[simp] theorem setLane_agenda (s : State) (p m k : Nat) (u : Bool) (x : Lane) : (s.setLane p m k u x).agenda = s.agenda := rfl
@[simp] theorem setLane_curTeam (s : State) (p m k : Nat) (u : Bool) (x : Lane) : (s.setLane p m k u x).curTeam = s.curTeam := rfl
@[simp] theorem setLane_curSel (s : State) (p m k : Nat) (u : Bool) (x : Lane) : (s.setLane p m k u x).curSel = s.curSel := rfl
@[simp] theorem setLane_slotEnd (s : State) (p m k : Nat) (u : Bool) (x : Lane) : (s.setLane p m k u x).slotEnd = s.slotEnd := rfl
@[simp] theorem setLane_freeCount (s : State) (p m k : Nat) (u : Bool) (x : Lane) : (s.setLane p m k u x).freeCount = s.freeCount := rfl
@[simp] theorem setLane_teams (s : State) (p m k : Nat) (u : Bool) (x : Lane) : (s.setLane p m k u x).teams = s.teams := rfl
@[simp] theorem setLane_grids (s : State) (p m k : Nat) (u : Bool) (x : Lane) : (s.setLane p m k u x).grids = s.grids := rfl
@[simp] theorem setLane_cores (s : State) (p m k : Nat) (u : Bool) (x : Lane) : (s.setLane p m k u x).cores = s.cores := rfl
@[simp] theorem setLane_pkgs (s : State) (p m k : Nat) (u : Bool) (x : Lane) : (s.setLane p m k u x).pkgs = s.pkgs := rfl
@[simp] theorem setLane_mods (s : State) (p m k : Nat) (u : Bool) (x : Lane) : (s.setLane p m k u x).mods = s.mods := rfl
@[simp] theorem setLane_links (s : State) (p m k : Nat) (u : Bool) (x : Lane) : (s.setLane p m k u x).links = s.links := rfl
@[simp] theorem setLane_xfers (s : State) (p m k : Nat) (u : Bool) (x : Lane) : (s.setLane p m k u x).xfers = s.xfers := rfl
@[simp] theorem setLane_fars (s : State) (p m k : Nat) (u : Bool) (x : Lane) : (s.setLane p m k u x).fars = s.fars := rfl
@[simp] theorem setLane_fences (s : State) (p m k : Nat) (u : Bool) (x : Lane) : (s.setLane p m k u x).fences = s.fences := rfl
@[simp] theorem setLane_nextTeam (s : State) (p m k : Nat) (u : Bool) (x : Lane) : (s.setLane p m k u x).nextTeam = s.nextTeam := rfl
@[simp] theorem setLane_nextGrid (s : State) (p m k : Nat) (u : Bool) (x : Lane) : (s.setLane p m k u x).nextGrid = s.nextGrid := rfl
@[simp] theorem setLane_nextXfer (s : State) (p m k : Nat) (u : Bool) (x : Lane) : (s.setLane p m k u x).nextXfer = s.nextXfer := rfl
@[simp] theorem setLane_nextFar (s : State) (p m k : Nat) (u : Bool) (x : Lane) : (s.setLane p m k u x).nextFar = s.nextFar := rfl
@[simp] theorem setLane_nextId (s : State) (p m k : Nat) (u : Bool) (x : Lane) : (s.setLane p m k u x).nextId = s.nextId := rfl
@[simp] theorem setLane_host (s : State) (p m k : Nat) (u : Bool) (x : Lane) : (s.setLane p m k u x).host = s.host := rfl
@[simp] theorem setLane_dma (s : State) (p m k : Nat) (u : Bool) (x : Lane) : (s.setLane p m k u x).dma = s.dma := rfl
@[simp] theorem setLane_msix (s : State) (p m k : Nat) (u : Bool) (x : Lane) : (s.setLane p m k u x).msix = s.msix := rfl
@[simp] theorem setLane_dark (s : State) (p m k : Nat) (u : Bool) (x : Lane) : (s.setLane p m k u x).dark = s.dark := rfl
@[simp] theorem setLane_hostRead (s : State) (p m k : Nat) (u : Bool) (x : Lane) : (s.setLane p m k u x).hostRead = s.hostRead := rfl
@[simp] theorem setLane_spdm (s : State) (p m k : Nat) (u : Bool) (x : Lane) : (s.setLane p m k u x).spdm = s.spdm := rfl

/-! ## Team.setGrp -/

@[simp] theorem setGrp_grid (x : Team) (k : Nat) (y : Stream 32) : (x.setGrp k y).grid = x.grid := rfl
@[simp] theorem setGrp_tid (x : Team) (k : Nat) (y : Stream 32) : (x.setGrp k y).tid = x.tid := rfl
@[simp] theorem setGrp_port (x : Team) (k : Nat) (y : Stream 32) : (x.setGrp k y).port = x.port := rfl
@[simp] theorem setGrp_part (x : Team) (k : Nat) (y : Stream 32) : (x.setGrp k y).part = x.part := rfl
@[simp] theorem setGrp_core (x : Team) (k : Nat) (y : Stream 32) : (x.setGrp k y).core = x.core := rfl
@[simp] theorem setGrp_slot (x : Team) (k : Nat) (y : Stream 32) : (x.setGrp k y).slot = x.slot := rfl
@[simp] theorem setGrp_place (x : Team) (k : Nat) (y : Stream 32) : (x.setGrp k y).place = x.place := rfl
@[simp] theorem setGrp_since (x : Team) (k : Nat) (y : Stream 32) : (x.setGrp k y).since = x.since := rfl
@[simp] theorem setGrp_ctl (x : Team) (k : Nat) (y : Stream 32) : (x.setGrp k y).ctl = x.ctl := rfl
@[simp] theorem setGrp_grps (x : Team) (k : Nat) (y : Stream 32) : (x.setGrp k y).grps = Map.set x.grps k y := rfl
@[simp] theorem setGrp_queues (x : Team) (k : Nat) (y : Stream 32) : (x.setGrp k y).queues = x.queues := rfl
@[simp] theorem setGrp_sigs (x : Team) (k : Nat) (y : Stream 32) : (x.setGrp k y).sigs = x.sigs := rfl
@[simp] theorem setGrp_rvs (x : Team) (k : Nat) (y : Stream 32) : (x.setGrp k y).rvs = x.rvs := rfl
@[simp] theorem setGrp_tiles (x : Team) (k : Nat) (y : Stream 32) : (x.setGrp k y).tiles = x.tiles := rfl
@[simp] theorem setGrp_tsh (x : Team) (k : Nat) (y : Stream 32) : (x.setGrp k y).tsh = x.tsh := rfl
@[simp] theorem setGrp_acc (x : Team) (k : Nat) (y : Stream 32) : (x.setGrp k y).acc = x.acc := rfl
@[simp] theorem setGrp_accDecl (x : Team) (k : Nat) (y : Stream 32) : (x.setGrp k y).accDecl = x.accDecl := rfl
@[simp] theorem setGrp_scratch (x : Team) (k : Nat) (y : Stream 32) : (x.setGrp k y).scratch = x.scratch := rfl
@[simp] theorem setGrp_lrbase (x : Team) (k : Nat) (y : Stream 32) : (x.setGrp k y).lrbase = x.lrbase := rfl
@[simp] theorem setGrp_pptto (x : Team) (k : Nat) (y : Stream 32) : (x.setGrp k y).pptto = x.pptto := rfl
@[simp] theorem setGrp_ltrapvec (x : Team) (k : Nat) (y : Stream 32) : (x.setGrp k y).ltrapvec = x.ltrapvec := rfl
@[simp] theorem setGrp_ctrapvec (x : Team) (k : Nat) (y : Stream 32) : (x.setGrp k y).ctrapvec = x.ctrapvec := rfl
@[simp] theorem setGrp_mxerr (x : Team) (k : Nat) (y : Stream 32) : (x.setGrp k y).mxerr = x.mxerr := rfl
@[simp] theorem setGrp_mxOld (x : Team) (k : Nat) (y : Stream 32) : (x.setGrp k y).mxOld = x.mxOld := rfl
@[simp] theorem setGrp_mxErrs (x : Team) (k : Nat) (y : Stream 32) : (x.setGrp k y).mxErrs = x.mxErrs := rfl
@[simp] theorem setGrp_chansel (x : Team) (k : Nat) (y : Stream 32) : (x.setGrp k y).chansel = x.chansel := rfl
@[simp] theorem setGrp_lagesel (x : Team) (k : Nat) (y : Stream 32) : (x.setGrp k y).lagesel = x.lagesel := rfl
@[simp] theorem setGrp_tls (x : Team) (k : Nat) (y : Stream 32) : (x.setGrp k y).tls = x.tls := rfl
@[simp] theorem setGrp_wins (x : Team) (k : Nat) (y : Stream 32) : (x.setGrp k y).wins = x.wins := rfl
@[simp] theorem setGrp_abs (x : Team) (k : Nat) (y : Stream 32) : (x.setGrp k y).abs = x.abs := rfl
@[simp] theorem setGrp_specCounts (x : Team) (k : Nat) (y : Stream 32) : (x.setGrp k y).specCounts = x.specCounts := rfl
@[simp] theorem setGrp_evMask (x : Team) (k : Nat) (y : Stream 32) : (x.setGrp k y).evMask = x.evMask := rfl
@[simp] theorem setGrp_evs (x : Team) (k : Nat) (y : Stream 32) : (x.setGrp k y).evs = x.evs := rfl
@[simp] theorem setGrp_evCycle (x : Team) (k : Nat) (y : Stream 32) : (x.setGrp k y).evCycle = x.evCycle := rfl
@[simp] theorem setGrp_preempt (x : Team) (k : Nat) (y : Stream 32) : (x.setGrp k y).preempt = x.preempt := rfl
@[simp] theorem setGrp_listed (x : Team) (k : Nat) (y : Stream 32) : (x.setGrp k y).listed = x.listed := rfl
@[simp] theorem setGrp_stuck (x : Team) (k : Nat) (y : Stream 32) : (x.setGrp k y).stuck = x.stuck := rfl
@[simp] theorem setGrp_mats (x : Team) (k : Nat) (y : Stream 32) : (x.setGrp k y).mats = x.mats := rfl
@[simp] theorem setGrp_errs (x : Team) (k : Nat) (y : Stream 32) : (x.setGrp k y).errs = x.errs := rfl
@[simp] theorem setGrp_rels (x : Team) (k : Nat) (y : Stream 32) : (x.setGrp k y).rels = x.rels := rfl

/-! ## Counts -/

@[simp] theorem part_count_pctl (x : Part) (k : Nat) : (x.count k).pctl = x.pctl := rfl
@[simp] theorem part_count_weight (x : Part) (k : Nat) : (x.count k).weight = x.weight := rfl
@[simp] theorem part_count_quantum (x : Part) (k : Nat) : (x.count k).quantum = x.quantum := rfl
@[simp] theorem part_count_nearMap (x : Part) (k : Nat) : (x.count k).nearMap = x.nearMap := rfl
@[simp] theorem part_count_saveMap (x : Part) (k : Nat) : (x.count k).saveMap = x.saveMap := rfl
@[simp] theorem part_count_fqBase (x : Part) (k : Nat) : (x.count k).fqBase = x.fqBase := rfl
@[simp] theorem part_count_fqHead (x : Part) (k : Nat) : (x.count k).fqHead = x.fqHead := rfl
@[simp] theorem part_count_fqTail (x : Part) (k : Nat) : (x.count k).fqTail = x.fqTail := rfl
@[simp] theorem part_count_fqRecs (x : Part) (k : Nat) : (x.count k).fqRecs = x.fqRecs := rfl
@[simp] theorem part_count_fqWait (x : Part) (k : Nat) : (x.count k).fqWait = x.fqWait := rfl
@[simp] theorem part_count_erBase (x : Part) (k : Nat) : (x.count k).erBase = x.erBase := rfl
@[simp] theorem part_count_erHead (x : Part) (k : Nat) : (x.count k).erHead = x.erHead := rfl
@[simp] theorem part_count_erTail (x : Part) (k : Nat) : (x.count k).erTail = x.erTail := rfl
@[simp] theorem part_count_erLost (x : Part) (k : Nat) : (x.count k).erLost = x.erLost := rfl
@[simp] theorem part_count_depc (x : Part) (k : Nat) : (x.count k).depc = x.depc := rfl
@[simp] theorem part_count_modMap (x : Part) (k : Nat) : (x.count k).modMap = x.modMap := rfl
@[simp] theorem part_count_gridCtr (x : Part) (k : Nat) : (x.count k).gridCtr = x.gridCtr := rfl
@[simp] theorem part_count_queue (x : Part) (k : Nat) : (x.count k).queue = x.queue := rfl
@[simp] theorem part_count_placement (x : Part) (k : Nat) : (x.count k).placement = x.placement := rfl
@[simp] theorem part_count_frames (x : Part) (k : Nat) : (x.count k).frames = x.frames := rfl
@[simp] theorem part_count_meters (x : Part) (k : Nat) : (x.count k).meters = x.meters := rfl
@[simp] theorem part_count_resetMask (x : Part) (k : Nat) : (x.count k).resetMask = x.resetMask := rfl
@[simp] theorem part_count_resetSeen (x : Part) (k : Nat) : (x.count k).resetSeen = x.resetSeen := rfl
@[simp] theorem part_count_snapNo (x : Part) (k : Nat) : (x.count k).snapNo = x.snapNo := rfl
@[simp] theorem part_count_snap (x : Part) (k : Nat) : (x.count k).snap = x.snap := rfl
@[simp] theorem part_count_chain (x : Part) (k : Nat) : (x.count k).chain = x.chain := rfl
@[simp] theorem part_count_caphead (x : Part) (k : Nat) : (x.count k).caphead = x.caphead := rfl
@[simp] theorem part_count_got (x : Part) (k : Nat) : (x.count k).got = x.got := rfl
@[simp] theorem pkg_count_up (x : Pkg) (k : Nat) : (x.count k).up = x.up := rfl
@[simp] theorem pkg_count_near (x : Pkg) (k : Nat) : (x.count k).near = x.near := rfl
@[simp] theorem pkg_count_hist (x : Pkg) (k : Nat) : (x.count k).hist = x.hist := rfl
@[simp] theorem pkg_count_pos (x : Pkg) (k : Nat) : (x.count k).pos = x.pos := rfl
@[simp] theorem pkg_count_hostPos (x : Pkg) (k : Nat) : (x.count k).hostPos = x.hostPos := rfl
@[simp] theorem pkg_count_nearRels (x : Pkg) (k : Nat) : (x.count k).nearRels = x.nearRels := rfl
@[simp] theorem pkg_count_errs (x : Pkg) (k : Nat) : (x.count k).errs = x.errs := rfl
@[simp] theorem pkg_count_fused (x : Pkg) (k : Nat) : (x.count k).fused = x.fused := rfl
@[simp] theorem pkg_count_remap (x : Pkg) (k : Nat) : (x.count k).remap = x.remap := rfl
@[simp] theorem pkg_count_clash (x : Pkg) (k : Nat) : (x.count k).clash = x.clash := rfl
@[simp] theorem pkg_count_secSlices (x : Pkg) (k : Nat) : (x.count k).secSlices = x.secSlices := rfl
@[simp] theorem pkg_count_secQis (x : Pkg) (k : Nat) : (x.count k).secQis = x.secQis := rfl
@[simp] theorem pkg_count_alloc (x : Pkg) (k : Nat) : (x.count k).alloc = x.alloc := rfl
@[simp] theorem pkg_count_allocWait (x : Pkg) (k : Nat) : (x.count k).allocWait = x.allocWait := rfl
@[simp] theorem pkg_count_pasids (x : Pkg) (k : Nat) : (x.count k).pasids = x.pasids := rfl
@[simp] theorem pkg_count_irt (x : Pkg) (k : Nat) : (x.count k).irt = x.irt := rfl
@[simp] theorem pkg_count_qis (x : Pkg) (k : Nat) : (x.count k).qis = x.qis := rfl
@[simp] theorem pkg_count_vfs (x : Pkg) (k : Nat) : (x.count k).vfs = x.vfs := rfl
@[simp] theorem pkg_count_parts (x : Pkg) (k : Nat) : (x.count k).parts = x.parts := rfl
@[simp] theorem pkg_count_farwin (x : Pkg) (k : Nat) : (x.count k).farwin = x.farwin := rfl
@[simp] theorem pkg_count_tfBusy (x : Pkg) (k : Nat) : (x.count k).tfBusy = x.tfBusy := rfl
@[simp] theorem pkg_count_preemptBusy (x : Pkg) (k : Nat) : (x.count k).preemptBusy = x.preemptBusy := rfl
@[simp] theorem pkg_count_pasidWait (x : Pkg) (k : Nat) : (x.count k).pasidWait = x.pasidWait := rfl
@[simp] theorem pkg_count_aborts (x : Pkg) (k : Nat) : (x.count k).aborts = x.aborts := rfl
@[simp] theorem pkg_count_spansHeld (x : Pkg) (k : Nat) : (x.count k).spansHeld = x.spansHeld := rfl
@[simp] theorem pkg_count_chanBusy (x : Pkg) (k : Nat) : (x.count k).chanBusy = x.chanBusy := rfl
@[simp] theorem pkg_count_cap (x : Pkg) (k : Nat) : (x.count k).cap = x.cap := rfl
@[simp] theorem pkg_count_floor (x : Pkg) (k : Nat) : (x.count k).floor = x.floor := rfl
@[simp] theorem pkg_count_clocks (x : Pkg) (k : Nat) : (x.count k).clocks = x.clocks := rfl
@[simp] theorem pkg_count_pfDropped (x : Pkg) (k : Nat) : (x.count k).pfDropped = x.pfDropped := rfl
@[simp] theorem pkg_count_table (x : Pkg) (k : Nat) : (x.count k).table = x.table := rfl
@[simp] theorem pkg_count_round (x : Pkg) (k : Nat) : (x.count k).round = x.round := rfl
@[simp] theorem pkg_count_inbox (x : Pkg) (k : Nat) : (x.count k).inbox = x.inbox := rfl
@[simp] theorem pkg_count_lasers (x : Pkg) (k : Nat) : (x.count k).lasers = x.lasers := rfl
@[simp] theorem pkg_count_gbuf (x : Pkg) (k : Nat) : (x.count k).gbuf = x.gbuf := rfl
@[simp] theorem pkg_count_gridsOrder (x : Pkg) (k : Nat) : (x.count k).gridsOrder = x.gridsOrder := rfl
@[simp] theorem module_count_mem (x : Module) (k : Nat) : (x.count k).mem = x.mem := rfl
@[simp] theorem module_count_past (x : Module) (k : Nat) : (x.count k).past = x.past := rfl
@[simp] theorem module_count_fenceAt (x : Module) (k : Nat) : (x.count k).fenceAt = x.fenceAt := rfl
@[simp] theorem module_count_tlb (x : Module) (k : Nat) : (x.count k).tlb = x.tlb := rfl
@[simp] theorem module_count_roots (x : Module) (k : Nat) : (x.count k).roots = x.roots := rfl
@[simp] theorem module_count_revoked (x : Module) (k : Nat) : (x.count k).revoked = x.revoked := rfl
@[simp] theorem module_count_buckets (x : Module) (k : Nat) : (x.count k).buckets = x.buckets := rfl
@[simp] theorem module_count_wmbase (x : Module) (k : Nat) : (x.count k).wmbase = x.wmbase := rfl
@[simp] theorem module_count_wmAct (x : Module) (k : Nat) : (x.count k).wmAct = x.wmAct := rfl
@[simp] theorem module_count_wmMem (x : Module) (k : Nat) : (x.count k).wmMem = x.wmMem := rfl
@[simp] theorem module_count_hotctl (x : Module) (k : Nat) : (x.count k).hotctl = x.hotctl := rfl
@[simp] theorem module_count_rings (x : Module) (k : Nat) : (x.count k).rings = x.rings := rfl
@[simp] theorem module_count_ringIdx (x : Module) (k : Nat) : (x.count k).ringIdx = x.ringIdx := rfl
@[simp] theorem module_count_accCount (x : Module) (k : Nat) : (x.count k).accCount = x.accCount := rfl
@[simp] theorem module_count_managers (x : Module) (k : Nat) : (x.count k).managers = x.managers := rfl
@[simp] theorem module_count_inbox (x : Module) (k : Nat) : (x.count k).inbox = x.inbox := rfl
@[simp] theorem module_count_waiting (x : Module) (k : Nat) : (x.count k).waiting = x.waiting := rfl
@[simp] theorem module_count_groups (x : Module) (k : Nat) : (x.count k).groups = x.groups := rfl
@[simp] theorem module_count_table (x : Module) (k : Nat) : (x.count k).table = x.table := rfl
@[simp] theorem module_count_mail (x : Module) (k : Nat) : (x.count k).mail = x.mail := rfl
@[simp] theorem module_count_gNext (x : Module) (k : Nat) : (x.count k).gNext = x.gNext := rfl
@[simp] theorem module_count_mailDue (x : Module) (k : Nat) : (x.count k).mailDue = x.mailDue := rfl
@[simp] theorem module_count_lasers (x : Module) (k : Nat) : (x.count k).lasers = x.lasers := rfl
@[simp] theorem module_count_rels (x : Module) (k : Nat) : (x.count k).rels = x.rels := rfl
@[simp] theorem module_count_refillAt (x : Module) (k : Nat) : (x.count k).refillAt = x.refillAt := rfl

/-! ## Stream.setReg -/

@[simp] theorem setReg_n {w : Nat} (st : Stream w) (r : Nat) (v : List (Option (BitVec w))) : (st.setReg r v).n = st.n := rfl
@[simp] theorem setReg_blocks {w : Nat} (st : Stream w) (r : Nat) (v : List (Option (BitVec w))) : (st.setReg r v).blocks = st.blocks := rfl
@[simp] theorem setReg_preds {w : Nat} (st : Stream w) (r : Nat) (v : List (Option (BitVec w))) : (st.setReg r v).preds = st.preds := rfl
@[simp] theorem setReg_vpc {w : Nat} (st : Stream w) (r : Nat) (v : List (Option (BitVec w))) : (st.setReg r v).vpc = st.vpc := rfl
@[simp] theorem setReg_lst {w : Nat} (st : Stream w) (r : Nat) (v : List (Option (BitVec w))) : (st.setReg r v).lst = st.lst := rfl
@[simp] theorem setReg_waits {w : Nat} (st : Stream w) (r : Nat) (v : List (Option (BitVec w))) : (st.setReg r v).waits = st.waits := rfl
@[simp] theorem setReg_goesOn {w : Nat} (st : Stream w) (r : Nat) (v : List (Option (BitVec w))) : (st.setReg r v).goesOn = st.goesOn := rfl
@[simp] theorem setReg_masks {w : Nat} (st : Stream w) (r : Nat) (v : List (Option (BitVec w))) : (st.setReg r v).masks = st.masks := rfl
@[simp] theorem setReg_flags {w : Nat} (st : Stream w) (r : Nat) (v : List (Option (BitVec w))) : (st.setReg r v).flags = st.flags := rfl
@[simp] theorem setReg_latches {w : Nat} (st : Stream w) (r : Nat) (v : List (Option (BitVec w))) : (st.setReg r v).latches = st.latches := rfl
@[simp] theorem setReg_latchNew {w : Nat} (st : Stream w) (r : Nat) (v : List (Option (BitVec w))) : (st.setReg r v).latchNew = st.latchNew := rfl
@[simp] theorem setReg_pend {w : Nat} (st : Stream w) (r : Nat) (v : List (Option (BitVec w))) : (st.setReg r v).pend = st.pend := rfl
@[simp] theorem setReg_lastIssue {w : Nat} (st : Stream w) (r : Nat) (v : List (Option (BitVec w))) : (st.setReg r v).lastIssue = st.lastIssue := rfl
@[simp] theorem setReg_pktNo {w : Nat} (st : Stream w) (r : Nat) (v : List (Option (BitVec w))) : (st.setReg r v).pktNo = st.pktNo := rfl
@[simp] theorem setReg_pkt {w : Nat} (st : Stream w) (r : Nat) (v : List (Option (BitVec w))) : (st.setReg r v).pkt = st.pkt := rfl
@[simp] theorem setReg_hold {w : Nat} (st : Stream w) (r : Nat) (v : List (Option (BitVec w))) : (st.setReg r v).hold = st.hold := rfl
@[simp] theorem setReg_handler {w : Nat} (st : Stream w) (r : Nat) (v : List (Option (BitVec w))) : (st.setReg r v).handler = st.handler := rfl
@[simp] theorem setReg_acc {w : Nat} (st : Stream w) (r : Nat) (v : List (Option (BitVec w))) : (st.setReg r v).acc = st.acc := rfl
@[simp] theorem setReg_accNext {w : Nat} (st : Stream w) (r : Nat) (v : List (Option (BitVec w))) : (st.setReg r v).accNext = st.accNext := rfl
@[simp] theorem setReg_mOwner {w : Nat} (st : Stream w) (r : Nat) (v : List (Option (BitVec w))) : (st.setReg r v).mOwner = st.mOwner := rfl
@[simp] theorem setReg_killed {w : Nat} (st : Stream w) (r : Nat) (v : List (Option (BitVec w))) : (st.setReg r v).killed = st.killed := rfl
@[simp] theorem setReg_engPkt {w : Nat} (st : Stream w) (r : Nat) (v : List (Option (BitVec w))) : (st.setReg r v).engPkt = st.engPkt := rfl
@[simp] theorem setReg_view {w : Nat} (st : Stream w) (r : Nat) (v : List (Option (BitVec w))) : (st.setReg r v).view = st.view := rfl
@[simp] theorem setReg_stores {w : Nat} (st : Stream w) (r : Nat) (v : List (Option (BitVec w))) : (st.setReg r v).stores = st.stores := rfl
@[simp] theorem setReg_acqHeld {w : Nat} (st : Stream w) (r : Nat) (v : List (Option (BitVec w))) : (st.setReg r v).acqHeld = st.acqHeld := rfl
@[simp] theorem setReg_relFences {w : Nat} (st : Stream w) (r : Nat) (v : List (Option (BitVec w))) : (st.setReg r v).relFences = st.relFences := rfl
@[simp] theorem setReg_acqReads {w : Nat} (st : Stream w) (r : Nat) (v : List (Option (BitVec w))) : (st.setReg r v).acqReads = st.acqReads := rfl
@[simp] theorem setReg_spec {w : Nat} (st : Stream w) (r : Nat) (v : List (Option (BitVec w))) : (st.setReg r v).spec = st.spec := rfl
@[simp] theorem setReg_slot {w : Nat} (st : Stream w) (r : Nat) (v : List (Option (BitVec w))) : (st.setReg r v).slot = st.slot := rfl
@[simp] theorem setReg_started {w : Nat} (st : Stream w) (r : Nat) (v : List (Option (BitVec w))) : (st.setReg r v).started = st.started := rfl
@[simp] theorem setReg_halted {w : Nat} (st : Stream w) (r : Nat) (v : List (Option (BitVec w))) : (st.setReg r v).halted = st.halted := rfl
@[simp] theorem setReg_light {w : Nat} (st : Stream w) (r : Nat) (v : List (Option (BitVec w))) : (st.setReg r v).light = st.light := rfl
@[simp] theorem setReg_pptLive {w : Nat} (st : Stream w) (r : Nat) (v : List (Option (BitVec w))) : (st.setReg r v).pptLive = st.pptLive := rfl
@[simp] theorem setReg_bypass {w : Nat} (st : Stream w) (r : Nat) (v : List (Option (BitVec w))) : (st.setReg r v).bypass = st.bypass := rfl
@[simp] theorem setReg_mid {w : Nat} (st : Stream w) (r : Nat) (v : List (Option (BitVec w))) : (st.setReg r v).mid = st.mid := rfl
@[simp] theorem setReg_ready {w : Nat} (st : Stream w) (r : Nat) (v : List (Option (BitVec w))) : (st.setReg r v).ready = st.ready := rfl

/-! ## Stream.setPc -/

@[simp] theorem setPc_n {w : Nat} (st : Stream w) (m : Word) (n : Nat) : (st.setPc m n).n = st.n := rfl
@[simp] theorem setPc_regs {w : Nat} (st : Stream w) (m : Word) (n : Nat) : (st.setPc m n).regs = st.regs := rfl
@[simp] theorem setPc_blocks {w : Nat} (st : Stream w) (m : Word) (n : Nat) : (st.setPc m n).blocks = st.blocks := rfl
@[simp] theorem setPc_preds {w : Nat} (st : Stream w) (m : Word) (n : Nat) : (st.setPc m n).preds = st.preds := rfl
@[simp] theorem setPc_lst {w : Nat} (st : Stream w) (m : Word) (n : Nat) : (st.setPc m n).lst = st.lst := rfl
@[simp] theorem setPc_waits {w : Nat} (st : Stream w) (m : Word) (n : Nat) : (st.setPc m n).waits = st.waits := rfl
@[simp] theorem setPc_goesOn {w : Nat} (st : Stream w) (m : Word) (n : Nat) : (st.setPc m n).goesOn = st.goesOn := rfl
@[simp] theorem setPc_masks {w : Nat} (st : Stream w) (m : Word) (n : Nat) : (st.setPc m n).masks = st.masks := rfl
@[simp] theorem setPc_flags {w : Nat} (st : Stream w) (m : Word) (n : Nat) : (st.setPc m n).flags = st.flags := rfl
@[simp] theorem setPc_latches {w : Nat} (st : Stream w) (m : Word) (n : Nat) : (st.setPc m n).latches = st.latches := rfl
@[simp] theorem setPc_latchNew {w : Nat} (st : Stream w) (m : Word) (n : Nat) : (st.setPc m n).latchNew = st.latchNew := rfl
@[simp] theorem setPc_pend {w : Nat} (st : Stream w) (m : Word) (n : Nat) : (st.setPc m n).pend = st.pend := rfl
@[simp] theorem setPc_lastIssue {w : Nat} (st : Stream w) (m : Word) (n : Nat) : (st.setPc m n).lastIssue = st.lastIssue := rfl
@[simp] theorem setPc_pktNo {w : Nat} (st : Stream w) (m : Word) (n : Nat) : (st.setPc m n).pktNo = st.pktNo := rfl
@[simp] theorem setPc_pkt {w : Nat} (st : Stream w) (m : Word) (n : Nat) : (st.setPc m n).pkt = st.pkt := rfl
@[simp] theorem setPc_hold {w : Nat} (st : Stream w) (m : Word) (n : Nat) : (st.setPc m n).hold = st.hold := rfl
@[simp] theorem setPc_handler {w : Nat} (st : Stream w) (m : Word) (n : Nat) : (st.setPc m n).handler = st.handler := rfl
@[simp] theorem setPc_acc {w : Nat} (st : Stream w) (m : Word) (n : Nat) : (st.setPc m n).acc = st.acc := rfl
@[simp] theorem setPc_accNext {w : Nat} (st : Stream w) (m : Word) (n : Nat) : (st.setPc m n).accNext = st.accNext := rfl
@[simp] theorem setPc_mOwner {w : Nat} (st : Stream w) (m : Word) (n : Nat) : (st.setPc m n).mOwner = st.mOwner := rfl
@[simp] theorem setPc_killed {w : Nat} (st : Stream w) (m : Word) (n : Nat) : (st.setPc m n).killed = st.killed := rfl
@[simp] theorem setPc_engPkt {w : Nat} (st : Stream w) (m : Word) (n : Nat) : (st.setPc m n).engPkt = st.engPkt := rfl
@[simp] theorem setPc_view {w : Nat} (st : Stream w) (m : Word) (n : Nat) : (st.setPc m n).view = st.view := rfl
@[simp] theorem setPc_stores {w : Nat} (st : Stream w) (m : Word) (n : Nat) : (st.setPc m n).stores = st.stores := rfl
@[simp] theorem setPc_acqHeld {w : Nat} (st : Stream w) (m : Word) (n : Nat) : (st.setPc m n).acqHeld = st.acqHeld := rfl
@[simp] theorem setPc_relFences {w : Nat} (st : Stream w) (m : Word) (n : Nat) : (st.setPc m n).relFences = st.relFences := rfl
@[simp] theorem setPc_acqReads {w : Nat} (st : Stream w) (m : Word) (n : Nat) : (st.setPc m n).acqReads = st.acqReads := rfl
@[simp] theorem setPc_spec {w : Nat} (st : Stream w) (m : Word) (n : Nat) : (st.setPc m n).spec = st.spec := rfl
@[simp] theorem setPc_slot {w : Nat} (st : Stream w) (m : Word) (n : Nat) : (st.setPc m n).slot = st.slot := rfl
@[simp] theorem setPc_started {w : Nat} (st : Stream w) (m : Word) (n : Nat) : (st.setPc m n).started = st.started := rfl
@[simp] theorem setPc_halted {w : Nat} (st : Stream w) (m : Word) (n : Nat) : (st.setPc m n).halted = st.halted := rfl
@[simp] theorem setPc_light {w : Nat} (st : Stream w) (m : Word) (n : Nat) : (st.setPc m n).light = st.light := rfl
@[simp] theorem setPc_pptLive {w : Nat} (st : Stream w) (m : Word) (n : Nat) : (st.setPc m n).pptLive = st.pptLive := rfl
@[simp] theorem setPc_bypass {w : Nat} (st : Stream w) (m : Word) (n : Nat) : (st.setPc m n).bypass = st.bypass := rfl
@[simp] theorem setPc_mid {w : Nat} (st : Stream w) (m : Word) (n : Nat) : (st.setPc m n).mid = st.mid := rfl
@[simp] theorem setPc_ready {w : Nat} (st : Stream w) (m : Word) (n : Nat) : (st.setPc m n).ready = st.ready := rfl

/-! ## Stream.setState -/

@[simp] theorem setState_n {w : Nat} (st : Stream w) (m : Word) (x : LaneState) : (st.setState m x).n = st.n := rfl
@[simp] theorem setState_regs {w : Nat} (st : Stream w) (m : Word) (x : LaneState) : (st.setState m x).regs = st.regs := rfl
@[simp] theorem setState_blocks {w : Nat} (st : Stream w) (m : Word) (x : LaneState) : (st.setState m x).blocks = st.blocks := rfl
@[simp] theorem setState_preds {w : Nat} (st : Stream w) (m : Word) (x : LaneState) : (st.setState m x).preds = st.preds := rfl
@[simp] theorem setState_vpc {w : Nat} (st : Stream w) (m : Word) (x : LaneState) : (st.setState m x).vpc = st.vpc := rfl
@[simp] theorem setState_waits {w : Nat} (st : Stream w) (m : Word) (x : LaneState) : (st.setState m x).waits = st.waits := rfl
@[simp] theorem setState_goesOn {w : Nat} (st : Stream w) (m : Word) (x : LaneState) : (st.setState m x).goesOn = st.goesOn := rfl
@[simp] theorem setState_masks {w : Nat} (st : Stream w) (m : Word) (x : LaneState) : (st.setState m x).masks = st.masks := rfl
@[simp] theorem setState_flags {w : Nat} (st : Stream w) (m : Word) (x : LaneState) : (st.setState m x).flags = st.flags := rfl
@[simp] theorem setState_latches {w : Nat} (st : Stream w) (m : Word) (x : LaneState) : (st.setState m x).latches = st.latches := rfl
@[simp] theorem setState_latchNew {w : Nat} (st : Stream w) (m : Word) (x : LaneState) : (st.setState m x).latchNew = st.latchNew := rfl
@[simp] theorem setState_pend {w : Nat} (st : Stream w) (m : Word) (x : LaneState) : (st.setState m x).pend = st.pend := rfl
@[simp] theorem setState_lastIssue {w : Nat} (st : Stream w) (m : Word) (x : LaneState) : (st.setState m x).lastIssue = st.lastIssue := rfl
@[simp] theorem setState_pktNo {w : Nat} (st : Stream w) (m : Word) (x : LaneState) : (st.setState m x).pktNo = st.pktNo := rfl
@[simp] theorem setState_pkt {w : Nat} (st : Stream w) (m : Word) (x : LaneState) : (st.setState m x).pkt = st.pkt := rfl
@[simp] theorem setState_hold {w : Nat} (st : Stream w) (m : Word) (x : LaneState) : (st.setState m x).hold = st.hold := rfl
@[simp] theorem setState_handler {w : Nat} (st : Stream w) (m : Word) (x : LaneState) : (st.setState m x).handler = st.handler := rfl
@[simp] theorem setState_acc {w : Nat} (st : Stream w) (m : Word) (x : LaneState) : (st.setState m x).acc = st.acc := rfl
@[simp] theorem setState_accNext {w : Nat} (st : Stream w) (m : Word) (x : LaneState) : (st.setState m x).accNext = st.accNext := rfl
@[simp] theorem setState_mOwner {w : Nat} (st : Stream w) (m : Word) (x : LaneState) : (st.setState m x).mOwner = st.mOwner := rfl
@[simp] theorem setState_killed {w : Nat} (st : Stream w) (m : Word) (x : LaneState) : (st.setState m x).killed = st.killed := rfl
@[simp] theorem setState_engPkt {w : Nat} (st : Stream w) (m : Word) (x : LaneState) : (st.setState m x).engPkt = st.engPkt := rfl
@[simp] theorem setState_view {w : Nat} (st : Stream w) (m : Word) (x : LaneState) : (st.setState m x).view = st.view := rfl
@[simp] theorem setState_stores {w : Nat} (st : Stream w) (m : Word) (x : LaneState) : (st.setState m x).stores = st.stores := rfl
@[simp] theorem setState_acqHeld {w : Nat} (st : Stream w) (m : Word) (x : LaneState) : (st.setState m x).acqHeld = st.acqHeld := rfl
@[simp] theorem setState_relFences {w : Nat} (st : Stream w) (m : Word) (x : LaneState) : (st.setState m x).relFences = st.relFences := rfl
@[simp] theorem setState_acqReads {w : Nat} (st : Stream w) (m : Word) (x : LaneState) : (st.setState m x).acqReads = st.acqReads := rfl
@[simp] theorem setState_spec {w : Nat} (st : Stream w) (m : Word) (x : LaneState) : (st.setState m x).spec = st.spec := rfl
@[simp] theorem setState_slot {w : Nat} (st : Stream w) (m : Word) (x : LaneState) : (st.setState m x).slot = st.slot := rfl
@[simp] theorem setState_started {w : Nat} (st : Stream w) (m : Word) (x : LaneState) : (st.setState m x).started = st.started := rfl
@[simp] theorem setState_halted {w : Nat} (st : Stream w) (m : Word) (x : LaneState) : (st.setState m x).halted = st.halted := rfl
@[simp] theorem setState_light {w : Nat} (st : Stream w) (m : Word) (x : LaneState) : (st.setState m x).light = st.light := rfl
@[simp] theorem setState_pptLive {w : Nat} (st : Stream w) (m : Word) (x : LaneState) : (st.setState m x).pptLive = st.pptLive := rfl
@[simp] theorem setState_bypass {w : Nat} (st : Stream w) (m : Word) (x : LaneState) : (st.setState m x).bypass = st.bypass := rfl
@[simp] theorem setState_mid {w : Nat} (st : Stream w) (m : Word) (x : LaneState) : (st.setState m x).mid = st.mid := rfl
@[simp] theorem setState_ready {w : Nat} (st : Stream w) (m : Word) (x : LaneState) : (st.setState m x).ready = st.ready := rfl

/-! ## Stream.latch -/

@[simp] theorem latch_n {w : Nat} (st : Stream w) (p : Nat) (v : List (Option (BitVec w))) : (st.latch p v).n = st.n := rfl
@[simp] theorem latch_regs {w : Nat} (st : Stream w) (p : Nat) (v : List (Option (BitVec w))) : (st.latch p v).regs = st.regs := rfl
@[simp] theorem latch_blocks {w : Nat} (st : Stream w) (p : Nat) (v : List (Option (BitVec w))) : (st.latch p v).blocks = st.blocks := rfl
@[simp] theorem latch_preds {w : Nat} (st : Stream w) (p : Nat) (v : List (Option (BitVec w))) : (st.latch p v).preds = st.preds := rfl
@[simp] theorem latch_vpc {w : Nat} (st : Stream w) (p : Nat) (v : List (Option (BitVec w))) : (st.latch p v).vpc = st.vpc := rfl
@[simp] theorem latch_lst {w : Nat} (st : Stream w) (p : Nat) (v : List (Option (BitVec w))) : (st.latch p v).lst = st.lst := rfl
@[simp] theorem latch_waits {w : Nat} (st : Stream w) (p : Nat) (v : List (Option (BitVec w))) : (st.latch p v).waits = st.waits := rfl
@[simp] theorem latch_goesOn {w : Nat} (st : Stream w) (p : Nat) (v : List (Option (BitVec w))) : (st.latch p v).goesOn = st.goesOn := rfl
@[simp] theorem latch_masks {w : Nat} (st : Stream w) (p : Nat) (v : List (Option (BitVec w))) : (st.latch p v).masks = st.masks := rfl
@[simp] theorem latch_flags {w : Nat} (st : Stream w) (p : Nat) (v : List (Option (BitVec w))) : (st.latch p v).flags = st.flags := rfl
@[simp] theorem latch_latches {w : Nat} (st : Stream w) (p : Nat) (v : List (Option (BitVec w))) : (st.latch p v).latches = st.latches := rfl
@[simp] theorem latch_pend {w : Nat} (st : Stream w) (p : Nat) (v : List (Option (BitVec w))) : (st.latch p v).pend = st.pend := rfl
@[simp] theorem latch_lastIssue {w : Nat} (st : Stream w) (p : Nat) (v : List (Option (BitVec w))) : (st.latch p v).lastIssue = st.lastIssue := rfl
@[simp] theorem latch_pktNo {w : Nat} (st : Stream w) (p : Nat) (v : List (Option (BitVec w))) : (st.latch p v).pktNo = st.pktNo := rfl
@[simp] theorem latch_pkt {w : Nat} (st : Stream w) (p : Nat) (v : List (Option (BitVec w))) : (st.latch p v).pkt = st.pkt := rfl
@[simp] theorem latch_hold {w : Nat} (st : Stream w) (p : Nat) (v : List (Option (BitVec w))) : (st.latch p v).hold = st.hold := rfl
@[simp] theorem latch_handler {w : Nat} (st : Stream w) (p : Nat) (v : List (Option (BitVec w))) : (st.latch p v).handler = st.handler := rfl
@[simp] theorem latch_acc {w : Nat} (st : Stream w) (p : Nat) (v : List (Option (BitVec w))) : (st.latch p v).acc = st.acc := rfl
@[simp] theorem latch_accNext {w : Nat} (st : Stream w) (p : Nat) (v : List (Option (BitVec w))) : (st.latch p v).accNext = st.accNext := rfl
@[simp] theorem latch_mOwner {w : Nat} (st : Stream w) (p : Nat) (v : List (Option (BitVec w))) : (st.latch p v).mOwner = st.mOwner := rfl
@[simp] theorem latch_killed {w : Nat} (st : Stream w) (p : Nat) (v : List (Option (BitVec w))) : (st.latch p v).killed = st.killed := rfl
@[simp] theorem latch_engPkt {w : Nat} (st : Stream w) (p : Nat) (v : List (Option (BitVec w))) : (st.latch p v).engPkt = st.engPkt := rfl
@[simp] theorem latch_view {w : Nat} (st : Stream w) (p : Nat) (v : List (Option (BitVec w))) : (st.latch p v).view = st.view := rfl
@[simp] theorem latch_stores {w : Nat} (st : Stream w) (p : Nat) (v : List (Option (BitVec w))) : (st.latch p v).stores = st.stores := rfl
@[simp] theorem latch_acqHeld {w : Nat} (st : Stream w) (p : Nat) (v : List (Option (BitVec w))) : (st.latch p v).acqHeld = st.acqHeld := rfl
@[simp] theorem latch_relFences {w : Nat} (st : Stream w) (p : Nat) (v : List (Option (BitVec w))) : (st.latch p v).relFences = st.relFences := rfl
@[simp] theorem latch_acqReads {w : Nat} (st : Stream w) (p : Nat) (v : List (Option (BitVec w))) : (st.latch p v).acqReads = st.acqReads := rfl
@[simp] theorem latch_spec {w : Nat} (st : Stream w) (p : Nat) (v : List (Option (BitVec w))) : (st.latch p v).spec = st.spec := rfl
@[simp] theorem latch_slot {w : Nat} (st : Stream w) (p : Nat) (v : List (Option (BitVec w))) : (st.latch p v).slot = st.slot := rfl
@[simp] theorem latch_started {w : Nat} (st : Stream w) (p : Nat) (v : List (Option (BitVec w))) : (st.latch p v).started = st.started := rfl
@[simp] theorem latch_halted {w : Nat} (st : Stream w) (p : Nat) (v : List (Option (BitVec w))) : (st.latch p v).halted = st.halted := rfl
@[simp] theorem latch_light {w : Nat} (st : Stream w) (p : Nat) (v : List (Option (BitVec w))) : (st.latch p v).light = st.light := rfl
@[simp] theorem latch_pptLive {w : Nat} (st : Stream w) (p : Nat) (v : List (Option (BitVec w))) : (st.latch p v).pptLive = st.pptLive := rfl
@[simp] theorem latch_bypass {w : Nat} (st : Stream w) (p : Nat) (v : List (Option (BitVec w))) : (st.latch p v).bypass = st.bypass := rfl
@[simp] theorem latch_mid {w : Nat} (st : Stream w) (p : Nat) (v : List (Option (BitVec w))) : (st.latch p v).mid = st.mid := rfl
@[simp] theorem latch_ready {w : Nat} (st : Stream w) (p : Nat) (v : List (Option (BitVec w))) : (st.latch p v).ready = st.ready := rfl

/-! ## Stream.raise -/

@[simp] theorem raise_n {w : Nat} (st : Stream w) (f : Option Nat) : (st.raise f).n = st.n := by cases f <;> rfl
@[simp] theorem raise_regs {w : Nat} (st : Stream w) (f : Option Nat) : (st.raise f).regs = st.regs := by cases f <;> rfl
@[simp] theorem raise_blocks {w : Nat} (st : Stream w) (f : Option Nat) : (st.raise f).blocks = st.blocks := by cases f <;> rfl
@[simp] theorem raise_preds {w : Nat} (st : Stream w) (f : Option Nat) : (st.raise f).preds = st.preds := by cases f <;> rfl
@[simp] theorem raise_vpc {w : Nat} (st : Stream w) (f : Option Nat) : (st.raise f).vpc = st.vpc := by cases f <;> rfl
@[simp] theorem raise_lst {w : Nat} (st : Stream w) (f : Option Nat) : (st.raise f).lst = st.lst := by cases f <;> rfl
@[simp] theorem raise_waits {w : Nat} (st : Stream w) (f : Option Nat) : (st.raise f).waits = st.waits := by cases f <;> rfl
@[simp] theorem raise_goesOn {w : Nat} (st : Stream w) (f : Option Nat) : (st.raise f).goesOn = st.goesOn := by cases f <;> rfl
@[simp] theorem raise_masks {w : Nat} (st : Stream w) (f : Option Nat) : (st.raise f).masks = st.masks := by cases f <;> rfl
@[simp] theorem raise_latches {w : Nat} (st : Stream w) (f : Option Nat) : (st.raise f).latches = st.latches := by cases f <;> rfl
@[simp] theorem raise_latchNew {w : Nat} (st : Stream w) (f : Option Nat) : (st.raise f).latchNew = st.latchNew := by cases f <;> rfl
@[simp] theorem raise_pend {w : Nat} (st : Stream w) (f : Option Nat) : (st.raise f).pend = st.pend := by cases f <;> rfl
@[simp] theorem raise_lastIssue {w : Nat} (st : Stream w) (f : Option Nat) : (st.raise f).lastIssue = st.lastIssue := by cases f <;> rfl
@[simp] theorem raise_pktNo {w : Nat} (st : Stream w) (f : Option Nat) : (st.raise f).pktNo = st.pktNo := by cases f <;> rfl
@[simp] theorem raise_pkt {w : Nat} (st : Stream w) (f : Option Nat) : (st.raise f).pkt = st.pkt := by cases f <;> rfl
@[simp] theorem raise_hold {w : Nat} (st : Stream w) (f : Option Nat) : (st.raise f).hold = st.hold := by cases f <;> rfl
@[simp] theorem raise_handler {w : Nat} (st : Stream w) (f : Option Nat) : (st.raise f).handler = st.handler := by cases f <;> rfl
@[simp] theorem raise_acc {w : Nat} (st : Stream w) (f : Option Nat) : (st.raise f).acc = st.acc := by cases f <;> rfl
@[simp] theorem raise_accNext {w : Nat} (st : Stream w) (f : Option Nat) : (st.raise f).accNext = st.accNext := by cases f <;> rfl
@[simp] theorem raise_mOwner {w : Nat} (st : Stream w) (f : Option Nat) : (st.raise f).mOwner = st.mOwner := by cases f <;> rfl
@[simp] theorem raise_killed {w : Nat} (st : Stream w) (f : Option Nat) : (st.raise f).killed = st.killed := by cases f <;> rfl
@[simp] theorem raise_engPkt {w : Nat} (st : Stream w) (f : Option Nat) : (st.raise f).engPkt = st.engPkt := by cases f <;> rfl
@[simp] theorem raise_view {w : Nat} (st : Stream w) (f : Option Nat) : (st.raise f).view = st.view := by cases f <;> rfl
@[simp] theorem raise_stores {w : Nat} (st : Stream w) (f : Option Nat) : (st.raise f).stores = st.stores := by cases f <;> rfl
@[simp] theorem raise_acqHeld {w : Nat} (st : Stream w) (f : Option Nat) : (st.raise f).acqHeld = st.acqHeld := by cases f <;> rfl
@[simp] theorem raise_relFences {w : Nat} (st : Stream w) (f : Option Nat) : (st.raise f).relFences = st.relFences := by cases f <;> rfl
@[simp] theorem raise_acqReads {w : Nat} (st : Stream w) (f : Option Nat) : (st.raise f).acqReads = st.acqReads := by cases f <;> rfl
@[simp] theorem raise_spec {w : Nat} (st : Stream w) (f : Option Nat) : (st.raise f).spec = st.spec := by cases f <;> rfl
@[simp] theorem raise_slot {w : Nat} (st : Stream w) (f : Option Nat) : (st.raise f).slot = st.slot := by cases f <;> rfl
@[simp] theorem raise_started {w : Nat} (st : Stream w) (f : Option Nat) : (st.raise f).started = st.started := by cases f <;> rfl
@[simp] theorem raise_halted {w : Nat} (st : Stream w) (f : Option Nat) : (st.raise f).halted = st.halted := by cases f <;> rfl
@[simp] theorem raise_light {w : Nat} (st : Stream w) (f : Option Nat) : (st.raise f).light = st.light := by cases f <;> rfl
@[simp] theorem raise_pptLive {w : Nat} (st : Stream w) (f : Option Nat) : (st.raise f).pptLive = st.pptLive := by cases f <;> rfl
@[simp] theorem raise_bypass {w : Nat} (st : Stream w) (f : Option Nat) : (st.raise f).bypass = st.bypass := by cases f <;> rfl
@[simp] theorem raise_mid {w : Nat} (st : Stream w) (f : Option Nat) : (st.raise f).mid = st.mid := by cases f <;> rfl
@[simp] theorem raise_ready {w : Nat} (st : Stream w) (f : Option Nat) : (st.raise f).ready = st.ready := by cases f <;> rfl

/-! ## Stream.lower -/

@[simp] theorem lower_n {w : Nat} (st : Stream w) (f : Option Nat) : (st.lower f).n = st.n := by cases f <;> rfl
@[simp] theorem lower_regs {w : Nat} (st : Stream w) (f : Option Nat) : (st.lower f).regs = st.regs := by cases f <;> rfl
@[simp] theorem lower_blocks {w : Nat} (st : Stream w) (f : Option Nat) : (st.lower f).blocks = st.blocks := by cases f <;> rfl
@[simp] theorem lower_preds {w : Nat} (st : Stream w) (f : Option Nat) : (st.lower f).preds = st.preds := by cases f <;> rfl
@[simp] theorem lower_vpc {w : Nat} (st : Stream w) (f : Option Nat) : (st.lower f).vpc = st.vpc := by cases f <;> rfl
@[simp] theorem lower_lst {w : Nat} (st : Stream w) (f : Option Nat) : (st.lower f).lst = st.lst := by cases f <;> rfl
@[simp] theorem lower_waits {w : Nat} (st : Stream w) (f : Option Nat) : (st.lower f).waits = st.waits := by cases f <;> rfl
@[simp] theorem lower_goesOn {w : Nat} (st : Stream w) (f : Option Nat) : (st.lower f).goesOn = st.goesOn := by cases f <;> rfl
@[simp] theorem lower_masks {w : Nat} (st : Stream w) (f : Option Nat) : (st.lower f).masks = st.masks := by cases f <;> rfl
@[simp] theorem lower_latches {w : Nat} (st : Stream w) (f : Option Nat) : (st.lower f).latches = st.latches := by cases f <;> rfl
@[simp] theorem lower_latchNew {w : Nat} (st : Stream w) (f : Option Nat) : (st.lower f).latchNew = st.latchNew := by cases f <;> rfl
@[simp] theorem lower_pend {w : Nat} (st : Stream w) (f : Option Nat) : (st.lower f).pend = st.pend := by cases f <;> rfl
@[simp] theorem lower_lastIssue {w : Nat} (st : Stream w) (f : Option Nat) : (st.lower f).lastIssue = st.lastIssue := by cases f <;> rfl
@[simp] theorem lower_pktNo {w : Nat} (st : Stream w) (f : Option Nat) : (st.lower f).pktNo = st.pktNo := by cases f <;> rfl
@[simp] theorem lower_pkt {w : Nat} (st : Stream w) (f : Option Nat) : (st.lower f).pkt = st.pkt := by cases f <;> rfl
@[simp] theorem lower_hold {w : Nat} (st : Stream w) (f : Option Nat) : (st.lower f).hold = st.hold := by cases f <;> rfl
@[simp] theorem lower_handler {w : Nat} (st : Stream w) (f : Option Nat) : (st.lower f).handler = st.handler := by cases f <;> rfl
@[simp] theorem lower_acc {w : Nat} (st : Stream w) (f : Option Nat) : (st.lower f).acc = st.acc := by cases f <;> rfl
@[simp] theorem lower_accNext {w : Nat} (st : Stream w) (f : Option Nat) : (st.lower f).accNext = st.accNext := by cases f <;> rfl
@[simp] theorem lower_mOwner {w : Nat} (st : Stream w) (f : Option Nat) : (st.lower f).mOwner = st.mOwner := by cases f <;> rfl
@[simp] theorem lower_killed {w : Nat} (st : Stream w) (f : Option Nat) : (st.lower f).killed = st.killed := by cases f <;> rfl
@[simp] theorem lower_engPkt {w : Nat} (st : Stream w) (f : Option Nat) : (st.lower f).engPkt = st.engPkt := by cases f <;> rfl
@[simp] theorem lower_view {w : Nat} (st : Stream w) (f : Option Nat) : (st.lower f).view = st.view := by cases f <;> rfl
@[simp] theorem lower_stores {w : Nat} (st : Stream w) (f : Option Nat) : (st.lower f).stores = st.stores := by cases f <;> rfl
@[simp] theorem lower_acqHeld {w : Nat} (st : Stream w) (f : Option Nat) : (st.lower f).acqHeld = st.acqHeld := by cases f <;> rfl
@[simp] theorem lower_relFences {w : Nat} (st : Stream w) (f : Option Nat) : (st.lower f).relFences = st.relFences := by cases f <;> rfl
@[simp] theorem lower_acqReads {w : Nat} (st : Stream w) (f : Option Nat) : (st.lower f).acqReads = st.acqReads := by cases f <;> rfl
@[simp] theorem lower_spec {w : Nat} (st : Stream w) (f : Option Nat) : (st.lower f).spec = st.spec := by cases f <;> rfl
@[simp] theorem lower_slot {w : Nat} (st : Stream w) (f : Option Nat) : (st.lower f).slot = st.slot := by cases f <;> rfl
@[simp] theorem lower_started {w : Nat} (st : Stream w) (f : Option Nat) : (st.lower f).started = st.started := by cases f <;> rfl
@[simp] theorem lower_halted {w : Nat} (st : Stream w) (f : Option Nat) : (st.lower f).halted = st.halted := by cases f <;> rfl
@[simp] theorem lower_light {w : Nat} (st : Stream w) (f : Option Nat) : (st.lower f).light = st.light := by cases f <;> rfl
@[simp] theorem lower_pptLive {w : Nat} (st : Stream w) (f : Option Nat) : (st.lower f).pptLive = st.pptLive := by cases f <;> rfl
@[simp] theorem lower_bypass {w : Nat} (st : Stream w) (f : Option Nat) : (st.lower f).bypass = st.bypass := by cases f <;> rfl
@[simp] theorem lower_mid {w : Nat} (st : Stream w) (f : Option Nat) : (st.lower f).mid = st.mid := by cases f <;> rfl
@[simp] theorem lower_ready {w : Nat} (st : Stream w) (f : Option Nat) : (st.lower f).ready = st.ready := by cases f <;> rfl

/-! ## Stream.setPred -/

@[simp] theorem setPred_n {w : Nat} (st : Stream w) (k : Nat) (v : List (Option Bool)) : (st.setPred k v).n = st.n := by unfold Stream.setPred; split <;> rfl
@[simp] theorem setPred_regs {w : Nat} (st : Stream w) (k : Nat) (v : List (Option Bool)) : (st.setPred k v).regs = st.regs := by unfold Stream.setPred; split <;> rfl
@[simp] theorem setPred_blocks {w : Nat} (st : Stream w) (k : Nat) (v : List (Option Bool)) : (st.setPred k v).blocks = st.blocks := by unfold Stream.setPred; split <;> rfl
@[simp] theorem setPred_vpc {w : Nat} (st : Stream w) (k : Nat) (v : List (Option Bool)) : (st.setPred k v).vpc = st.vpc := by unfold Stream.setPred; split <;> rfl
@[simp] theorem setPred_lst {w : Nat} (st : Stream w) (k : Nat) (v : List (Option Bool)) : (st.setPred k v).lst = st.lst := by unfold Stream.setPred; split <;> rfl
@[simp] theorem setPred_waits {w : Nat} (st : Stream w) (k : Nat) (v : List (Option Bool)) : (st.setPred k v).waits = st.waits := by unfold Stream.setPred; split <;> rfl
@[simp] theorem setPred_goesOn {w : Nat} (st : Stream w) (k : Nat) (v : List (Option Bool)) : (st.setPred k v).goesOn = st.goesOn := by unfold Stream.setPred; split <;> rfl
@[simp] theorem setPred_masks {w : Nat} (st : Stream w) (k : Nat) (v : List (Option Bool)) : (st.setPred k v).masks = st.masks := by unfold Stream.setPred; split <;> rfl
@[simp] theorem setPred_flags {w : Nat} (st : Stream w) (k : Nat) (v : List (Option Bool)) : (st.setPred k v).flags = st.flags := by unfold Stream.setPred; split <;> rfl
@[simp] theorem setPred_latches {w : Nat} (st : Stream w) (k : Nat) (v : List (Option Bool)) : (st.setPred k v).latches = st.latches := by unfold Stream.setPred; split <;> rfl
@[simp] theorem setPred_latchNew {w : Nat} (st : Stream w) (k : Nat) (v : List (Option Bool)) : (st.setPred k v).latchNew = st.latchNew := by unfold Stream.setPred; split <;> rfl
@[simp] theorem setPred_pend {w : Nat} (st : Stream w) (k : Nat) (v : List (Option Bool)) : (st.setPred k v).pend = st.pend := by unfold Stream.setPred; split <;> rfl
@[simp] theorem setPred_lastIssue {w : Nat} (st : Stream w) (k : Nat) (v : List (Option Bool)) : (st.setPred k v).lastIssue = st.lastIssue := by unfold Stream.setPred; split <;> rfl
@[simp] theorem setPred_pktNo {w : Nat} (st : Stream w) (k : Nat) (v : List (Option Bool)) : (st.setPred k v).pktNo = st.pktNo := by unfold Stream.setPred; split <;> rfl
@[simp] theorem setPred_pkt {w : Nat} (st : Stream w) (k : Nat) (v : List (Option Bool)) : (st.setPred k v).pkt = st.pkt := by unfold Stream.setPred; split <;> rfl
@[simp] theorem setPred_hold {w : Nat} (st : Stream w) (k : Nat) (v : List (Option Bool)) : (st.setPred k v).hold = st.hold := by unfold Stream.setPred; split <;> rfl
@[simp] theorem setPred_handler {w : Nat} (st : Stream w) (k : Nat) (v : List (Option Bool)) : (st.setPred k v).handler = st.handler := by unfold Stream.setPred; split <;> rfl
@[simp] theorem setPred_acc {w : Nat} (st : Stream w) (k : Nat) (v : List (Option Bool)) : (st.setPred k v).acc = st.acc := by unfold Stream.setPred; split <;> rfl
@[simp] theorem setPred_accNext {w : Nat} (st : Stream w) (k : Nat) (v : List (Option Bool)) : (st.setPred k v).accNext = st.accNext := by unfold Stream.setPred; split <;> rfl
@[simp] theorem setPred_mOwner {w : Nat} (st : Stream w) (k : Nat) (v : List (Option Bool)) : (st.setPred k v).mOwner = st.mOwner := by unfold Stream.setPred; split <;> rfl
@[simp] theorem setPred_killed {w : Nat} (st : Stream w) (k : Nat) (v : List (Option Bool)) : (st.setPred k v).killed = st.killed := by unfold Stream.setPred; split <;> rfl
@[simp] theorem setPred_engPkt {w : Nat} (st : Stream w) (k : Nat) (v : List (Option Bool)) : (st.setPred k v).engPkt = st.engPkt := by unfold Stream.setPred; split <;> rfl
@[simp] theorem setPred_view {w : Nat} (st : Stream w) (k : Nat) (v : List (Option Bool)) : (st.setPred k v).view = st.view := by unfold Stream.setPred; split <;> rfl
@[simp] theorem setPred_stores {w : Nat} (st : Stream w) (k : Nat) (v : List (Option Bool)) : (st.setPred k v).stores = st.stores := by unfold Stream.setPred; split <;> rfl
@[simp] theorem setPred_acqHeld {w : Nat} (st : Stream w) (k : Nat) (v : List (Option Bool)) : (st.setPred k v).acqHeld = st.acqHeld := by unfold Stream.setPred; split <;> rfl
@[simp] theorem setPred_relFences {w : Nat} (st : Stream w) (k : Nat) (v : List (Option Bool)) : (st.setPred k v).relFences = st.relFences := by unfold Stream.setPred; split <;> rfl
@[simp] theorem setPred_acqReads {w : Nat} (st : Stream w) (k : Nat) (v : List (Option Bool)) : (st.setPred k v).acqReads = st.acqReads := by unfold Stream.setPred; split <;> rfl
@[simp] theorem setPred_spec {w : Nat} (st : Stream w) (k : Nat) (v : List (Option Bool)) : (st.setPred k v).spec = st.spec := by unfold Stream.setPred; split <;> rfl
@[simp] theorem setPred_slot {w : Nat} (st : Stream w) (k : Nat) (v : List (Option Bool)) : (st.setPred k v).slot = st.slot := by unfold Stream.setPred; split <;> rfl
@[simp] theorem setPred_started {w : Nat} (st : Stream w) (k : Nat) (v : List (Option Bool)) : (st.setPred k v).started = st.started := by unfold Stream.setPred; split <;> rfl
@[simp] theorem setPred_halted {w : Nat} (st : Stream w) (k : Nat) (v : List (Option Bool)) : (st.setPred k v).halted = st.halted := by unfold Stream.setPred; split <;> rfl
@[simp] theorem setPred_light {w : Nat} (st : Stream w) (k : Nat) (v : List (Option Bool)) : (st.setPred k v).light = st.light := by unfold Stream.setPred; split <;> rfl
@[simp] theorem setPred_pptLive {w : Nat} (st : Stream w) (k : Nat) (v : List (Option Bool)) : (st.setPred k v).pptLive = st.pptLive := by unfold Stream.setPred; split <;> rfl
@[simp] theorem setPred_bypass {w : Nat} (st : Stream w) (k : Nat) (v : List (Option Bool)) : (st.setPred k v).bypass = st.bypass := by unfold Stream.setPred; split <;> rfl
@[simp] theorem setPred_mid {w : Nat} (st : Stream w) (k : Nat) (v : List (Option Bool)) : (st.setPred k v).mid = st.mid := by unfold Stream.setPred; split <;> rfl
@[simp] theorem setPred_ready {w : Nat} (st : Stream w) (k : Nat) (v : List (Option Bool)) : (st.setPred k v).ready = st.ready := by unfold Stream.setPred; split <;> rfl

/-! ## Stream.leavePkt -/

@[simp] theorem leavePkt_n {w : Nat} (st : Stream w) (m : Word) : (st.leavePkt m).n = st.n := by unfold Stream.leavePkt; split <;> rfl
@[simp] theorem leavePkt_regs {w : Nat} (st : Stream w) (m : Word) : (st.leavePkt m).regs = st.regs := by unfold Stream.leavePkt; split <;> rfl
@[simp] theorem leavePkt_blocks {w : Nat} (st : Stream w) (m : Word) : (st.leavePkt m).blocks = st.blocks := by unfold Stream.leavePkt; split <;> rfl
@[simp] theorem leavePkt_preds {w : Nat} (st : Stream w) (m : Word) : (st.leavePkt m).preds = st.preds := by unfold Stream.leavePkt; split <;> rfl
@[simp] theorem leavePkt_vpc {w : Nat} (st : Stream w) (m : Word) : (st.leavePkt m).vpc = st.vpc := by unfold Stream.leavePkt; split <;> rfl
@[simp] theorem leavePkt_lst {w : Nat} (st : Stream w) (m : Word) : (st.leavePkt m).lst = st.lst := by unfold Stream.leavePkt; split <;> rfl
@[simp] theorem leavePkt_waits {w : Nat} (st : Stream w) (m : Word) : (st.leavePkt m).waits = st.waits := by unfold Stream.leavePkt; split <;> rfl
@[simp] theorem leavePkt_goesOn {w : Nat} (st : Stream w) (m : Word) : (st.leavePkt m).goesOn = st.goesOn := by unfold Stream.leavePkt; split <;> rfl
@[simp] theorem leavePkt_masks {w : Nat} (st : Stream w) (m : Word) : (st.leavePkt m).masks = st.masks := by unfold Stream.leavePkt; split <;> rfl
@[simp] theorem leavePkt_flags {w : Nat} (st : Stream w) (m : Word) : (st.leavePkt m).flags = st.flags := by unfold Stream.leavePkt; split <;> rfl
@[simp] theorem leavePkt_latches {w : Nat} (st : Stream w) (m : Word) : (st.leavePkt m).latches = st.latches := by unfold Stream.leavePkt; split <;> rfl
@[simp] theorem leavePkt_latchNew {w : Nat} (st : Stream w) (m : Word) : (st.leavePkt m).latchNew = st.latchNew := by unfold Stream.leavePkt; split <;> rfl
@[simp] theorem leavePkt_pend {w : Nat} (st : Stream w) (m : Word) : (st.leavePkt m).pend = st.pend := by unfold Stream.leavePkt; split <;> rfl
@[simp] theorem leavePkt_lastIssue {w : Nat} (st : Stream w) (m : Word) : (st.leavePkt m).lastIssue = st.lastIssue := by unfold Stream.leavePkt; split <;> rfl
@[simp] theorem leavePkt_pktNo {w : Nat} (st : Stream w) (m : Word) : (st.leavePkt m).pktNo = st.pktNo := by unfold Stream.leavePkt; split <;> rfl
@[simp] theorem leavePkt_hold {w : Nat} (st : Stream w) (m : Word) : (st.leavePkt m).hold = st.hold := by unfold Stream.leavePkt; split <;> rfl
@[simp] theorem leavePkt_handler {w : Nat} (st : Stream w) (m : Word) : (st.leavePkt m).handler = st.handler := by unfold Stream.leavePkt; split <;> rfl
@[simp] theorem leavePkt_acc {w : Nat} (st : Stream w) (m : Word) : (st.leavePkt m).acc = st.acc := by unfold Stream.leavePkt; split <;> rfl
@[simp] theorem leavePkt_accNext {w : Nat} (st : Stream w) (m : Word) : (st.leavePkt m).accNext = st.accNext := by unfold Stream.leavePkt; split <;> rfl
@[simp] theorem leavePkt_mOwner {w : Nat} (st : Stream w) (m : Word) : (st.leavePkt m).mOwner = st.mOwner := by unfold Stream.leavePkt; split <;> rfl
@[simp] theorem leavePkt_killed {w : Nat} (st : Stream w) (m : Word) : (st.leavePkt m).killed = st.killed := by unfold Stream.leavePkt; split <;> rfl
@[simp] theorem leavePkt_engPkt {w : Nat} (st : Stream w) (m : Word) : (st.leavePkt m).engPkt = st.engPkt := by unfold Stream.leavePkt; split <;> rfl
@[simp] theorem leavePkt_view {w : Nat} (st : Stream w) (m : Word) : (st.leavePkt m).view = st.view := by unfold Stream.leavePkt; split <;> rfl
@[simp] theorem leavePkt_stores {w : Nat} (st : Stream w) (m : Word) : (st.leavePkt m).stores = st.stores := by unfold Stream.leavePkt; split <;> rfl
@[simp] theorem leavePkt_acqHeld {w : Nat} (st : Stream w) (m : Word) : (st.leavePkt m).acqHeld = st.acqHeld := by unfold Stream.leavePkt; split <;> rfl
@[simp] theorem leavePkt_relFences {w : Nat} (st : Stream w) (m : Word) : (st.leavePkt m).relFences = st.relFences := by unfold Stream.leavePkt; split <;> rfl
@[simp] theorem leavePkt_acqReads {w : Nat} (st : Stream w) (m : Word) : (st.leavePkt m).acqReads = st.acqReads := by unfold Stream.leavePkt; split <;> rfl
@[simp] theorem leavePkt_spec {w : Nat} (st : Stream w) (m : Word) : (st.leavePkt m).spec = st.spec := by unfold Stream.leavePkt; split <;> rfl
@[simp] theorem leavePkt_slot {w : Nat} (st : Stream w) (m : Word) : (st.leavePkt m).slot = st.slot := by unfold Stream.leavePkt; split <;> rfl
@[simp] theorem leavePkt_started {w : Nat} (st : Stream w) (m : Word) : (st.leavePkt m).started = st.started := by unfold Stream.leavePkt; split <;> rfl
@[simp] theorem leavePkt_halted {w : Nat} (st : Stream w) (m : Word) : (st.leavePkt m).halted = st.halted := by unfold Stream.leavePkt; split <;> rfl
@[simp] theorem leavePkt_light {w : Nat} (st : Stream w) (m : Word) : (st.leavePkt m).light = st.light := by unfold Stream.leavePkt; split <;> rfl
@[simp] theorem leavePkt_pptLive {w : Nat} (st : Stream w) (m : Word) : (st.leavePkt m).pptLive = st.pptLive := by unfold Stream.leavePkt; split <;> rfl
@[simp] theorem leavePkt_bypass {w : Nat} (st : Stream w) (m : Word) : (st.leavePkt m).bypass = st.bypass := by unfold Stream.leavePkt; split <;> rfl
@[simp] theorem leavePkt_mid {w : Nat} (st : Stream w) (m : Word) : (st.leavePkt m).mid = st.mid := by unfold Stream.leavePkt; split <;> rfl
@[simp] theorem leavePkt_ready {w : Nat} (st : Stream w) (m : Word) : (st.leavePkt m).ready = st.ready := by unfold Stream.leavePkt; split <;> rfl

/-! ## Stream.advance -/

@[simp] theorem advance_n {w : Nat} (st : Stream w) : st.advance.n = st.n := by unfold Stream.advance; split <;> rfl
@[simp] theorem advance_regs {w : Nat} (st : Stream w) : st.advance.regs = st.regs := by unfold Stream.advance; split <;> rfl
@[simp] theorem advance_blocks {w : Nat} (st : Stream w) : st.advance.blocks = st.blocks := by unfold Stream.advance; split <;> rfl
@[simp] theorem advance_preds {w : Nat} (st : Stream w) : st.advance.preds = st.preds := by unfold Stream.advance; split <;> rfl
@[simp] theorem advance_lst {w : Nat} (st : Stream w) : st.advance.lst = st.lst := by unfold Stream.advance; split <;> rfl
@[simp] theorem advance_waits {w : Nat} (st : Stream w) : st.advance.waits = st.waits := by unfold Stream.advance; split <;> rfl
@[simp] theorem advance_goesOn {w : Nat} (st : Stream w) : st.advance.goesOn = st.goesOn := by unfold Stream.advance; split <;> rfl
@[simp] theorem advance_masks {w : Nat} (st : Stream w) : st.advance.masks = st.masks := by unfold Stream.advance; split <;> rfl
@[simp] theorem advance_flags {w : Nat} (st : Stream w) : st.advance.flags = st.flags := by unfold Stream.advance; split <;> rfl
@[simp] theorem advance_latches {w : Nat} (st : Stream w) : st.advance.latches = st.latches := by unfold Stream.advance; split <;> rfl
@[simp] theorem advance_latchNew {w : Nat} (st : Stream w) : st.advance.latchNew = st.latchNew := by unfold Stream.advance; split <;> rfl
@[simp] theorem advance_pend {w : Nat} (st : Stream w) : st.advance.pend = st.pend := by unfold Stream.advance; split <;> rfl
@[simp] theorem advance_lastIssue {w : Nat} (st : Stream w) : st.advance.lastIssue = st.lastIssue := by unfold Stream.advance; split <;> rfl
@[simp] theorem advance_pktNo {w : Nat} (st : Stream w) : st.advance.pktNo = st.pktNo := by unfold Stream.advance; split <;> rfl
@[simp] theorem advance_hold {w : Nat} (st : Stream w) : st.advance.hold = st.hold := by unfold Stream.advance; split <;> rfl
@[simp] theorem advance_handler {w : Nat} (st : Stream w) : st.advance.handler = st.handler := by unfold Stream.advance; split <;> rfl
@[simp] theorem advance_acc {w : Nat} (st : Stream w) : st.advance.acc = st.acc := by unfold Stream.advance; split <;> rfl
@[simp] theorem advance_accNext {w : Nat} (st : Stream w) : st.advance.accNext = st.accNext := by unfold Stream.advance; split <;> rfl
@[simp] theorem advance_mOwner {w : Nat} (st : Stream w) : st.advance.mOwner = st.mOwner := by unfold Stream.advance; split <;> rfl
@[simp] theorem advance_killed {w : Nat} (st : Stream w) : st.advance.killed = st.killed := by unfold Stream.advance; split <;> rfl
@[simp] theorem advance_engPkt {w : Nat} (st : Stream w) : st.advance.engPkt = st.engPkt := by unfold Stream.advance; split <;> rfl
@[simp] theorem advance_view {w : Nat} (st : Stream w) : st.advance.view = st.view := by unfold Stream.advance; split <;> rfl
@[simp] theorem advance_stores {w : Nat} (st : Stream w) : st.advance.stores = st.stores := by unfold Stream.advance; split <;> rfl
@[simp] theorem advance_acqHeld {w : Nat} (st : Stream w) : st.advance.acqHeld = st.acqHeld := by unfold Stream.advance; split <;> rfl
@[simp] theorem advance_relFences {w : Nat} (st : Stream w) : st.advance.relFences = st.relFences := by unfold Stream.advance; split <;> rfl
@[simp] theorem advance_acqReads {w : Nat} (st : Stream w) : st.advance.acqReads = st.acqReads := by unfold Stream.advance; split <;> rfl
@[simp] theorem advance_spec {w : Nat} (st : Stream w) : st.advance.spec = st.spec := by unfold Stream.advance; split <;> rfl
@[simp] theorem advance_slot {w : Nat} (st : Stream w) : st.advance.slot = st.slot := by unfold Stream.advance; split <;> rfl
@[simp] theorem advance_started {w : Nat} (st : Stream w) : st.advance.started = st.started := by unfold Stream.advance; split <;> rfl
@[simp] theorem advance_halted {w : Nat} (st : Stream w) : st.advance.halted = st.halted := by unfold Stream.advance; split <;> rfl
@[simp] theorem advance_light {w : Nat} (st : Stream w) : st.advance.light = st.light := by unfold Stream.advance; split <;> rfl
@[simp] theorem advance_pptLive {w : Nat} (st : Stream w) : st.advance.pptLive = st.pptLive := by unfold Stream.advance; split <;> rfl
@[simp] theorem advance_bypass {w : Nat} (st : Stream w) : st.advance.bypass = st.bypass := by unfold Stream.advance; split <;> rfl
@[simp] theorem advance_mid {w : Nat} (st : Stream w) : st.advance.mid = st.mid := by unfold Stream.advance; split <;> rfl
@[simp] theorem advance_ready {w : Nat} (st : Stream w) : st.advance.ready = st.ready := by unfold Stream.advance; split <;> rfl

/-! ## Stream.resultF -/

@[simp] theorem resultF_n {w : Nat} (st : Stream w) (f : Option Nat) (c n : Nat) (d : Dest) (v : List (Option (BitVec w))) : (st.resultF f c n d v).n = st.n := by cases f <;> rfl
@[simp] theorem resultF_regs {w : Nat} (st : Stream w) (f : Option Nat) (c n : Nat) (d : Dest) (v : List (Option (BitVec w))) : (st.resultF f c n d v).regs = st.regs := by cases f <;> rfl
@[simp] theorem resultF_blocks {w : Nat} (st : Stream w) (f : Option Nat) (c n : Nat) (d : Dest) (v : List (Option (BitVec w))) : (st.resultF f c n d v).blocks = st.blocks := by cases f <;> rfl
@[simp] theorem resultF_preds {w : Nat} (st : Stream w) (f : Option Nat) (c n : Nat) (d : Dest) (v : List (Option (BitVec w))) : (st.resultF f c n d v).preds = st.preds := by cases f <;> rfl
@[simp] theorem resultF_vpc {w : Nat} (st : Stream w) (f : Option Nat) (c n : Nat) (d : Dest) (v : List (Option (BitVec w))) : (st.resultF f c n d v).vpc = st.vpc := by cases f <;> rfl
@[simp] theorem resultF_lst {w : Nat} (st : Stream w) (f : Option Nat) (c n : Nat) (d : Dest) (v : List (Option (BitVec w))) : (st.resultF f c n d v).lst = st.lst := by cases f <;> rfl
@[simp] theorem resultF_waits {w : Nat} (st : Stream w) (f : Option Nat) (c n : Nat) (d : Dest) (v : List (Option (BitVec w))) : (st.resultF f c n d v).waits = st.waits := by cases f <;> rfl
@[simp] theorem resultF_goesOn {w : Nat} (st : Stream w) (f : Option Nat) (c n : Nat) (d : Dest) (v : List (Option (BitVec w))) : (st.resultF f c n d v).goesOn = st.goesOn := by cases f <;> rfl
@[simp] theorem resultF_masks {w : Nat} (st : Stream w) (f : Option Nat) (c n : Nat) (d : Dest) (v : List (Option (BitVec w))) : (st.resultF f c n d v).masks = st.masks := by cases f <;> rfl
@[simp] theorem resultF_latches {w : Nat} (st : Stream w) (f : Option Nat) (c n : Nat) (d : Dest) (v : List (Option (BitVec w))) : (st.resultF f c n d v).latches = st.latches := by cases f <;> rfl
@[simp] theorem resultF_latchNew {w : Nat} (st : Stream w) (f : Option Nat) (c n : Nat) (d : Dest) (v : List (Option (BitVec w))) : (st.resultF f c n d v).latchNew = st.latchNew := by cases f <;> rfl
@[simp] theorem resultF_lastIssue {w : Nat} (st : Stream w) (f : Option Nat) (c n : Nat) (d : Dest) (v : List (Option (BitVec w))) : (st.resultF f c n d v).lastIssue = st.lastIssue := by cases f <;> rfl
@[simp] theorem resultF_pktNo {w : Nat} (st : Stream w) (f : Option Nat) (c n : Nat) (d : Dest) (v : List (Option (BitVec w))) : (st.resultF f c n d v).pktNo = st.pktNo := by cases f <;> rfl
@[simp] theorem resultF_pkt {w : Nat} (st : Stream w) (f : Option Nat) (c n : Nat) (d : Dest) (v : List (Option (BitVec w))) : (st.resultF f c n d v).pkt = st.pkt := by cases f <;> rfl
@[simp] theorem resultF_hold {w : Nat} (st : Stream w) (f : Option Nat) (c n : Nat) (d : Dest) (v : List (Option (BitVec w))) : (st.resultF f c n d v).hold = st.hold := by cases f <;> rfl
@[simp] theorem resultF_handler {w : Nat} (st : Stream w) (f : Option Nat) (c n : Nat) (d : Dest) (v : List (Option (BitVec w))) : (st.resultF f c n d v).handler = st.handler := by cases f <;> rfl
@[simp] theorem resultF_acc {w : Nat} (st : Stream w) (f : Option Nat) (c n : Nat) (d : Dest) (v : List (Option (BitVec w))) : (st.resultF f c n d v).acc = st.acc := by cases f <;> rfl
@[simp] theorem resultF_accNext {w : Nat} (st : Stream w) (f : Option Nat) (c n : Nat) (d : Dest) (v : List (Option (BitVec w))) : (st.resultF f c n d v).accNext = st.accNext := by cases f <;> rfl
@[simp] theorem resultF_mOwner {w : Nat} (st : Stream w) (f : Option Nat) (c n : Nat) (d : Dest) (v : List (Option (BitVec w))) : (st.resultF f c n d v).mOwner = st.mOwner := by cases f <;> rfl
@[simp] theorem resultF_engPkt {w : Nat} (st : Stream w) (f : Option Nat) (c n : Nat) (d : Dest) (v : List (Option (BitVec w))) : (st.resultF f c n d v).engPkt = st.engPkt := by cases f <;> rfl
@[simp] theorem resultF_view {w : Nat} (st : Stream w) (f : Option Nat) (c n : Nat) (d : Dest) (v : List (Option (BitVec w))) : (st.resultF f c n d v).view = st.view := by cases f <;> rfl
@[simp] theorem resultF_stores {w : Nat} (st : Stream w) (f : Option Nat) (c n : Nat) (d : Dest) (v : List (Option (BitVec w))) : (st.resultF f c n d v).stores = st.stores := by cases f <;> rfl
@[simp] theorem resultF_acqHeld {w : Nat} (st : Stream w) (f : Option Nat) (c n : Nat) (d : Dest) (v : List (Option (BitVec w))) : (st.resultF f c n d v).acqHeld = st.acqHeld := by cases f <;> rfl
@[simp] theorem resultF_relFences {w : Nat} (st : Stream w) (f : Option Nat) (c n : Nat) (d : Dest) (v : List (Option (BitVec w))) : (st.resultF f c n d v).relFences = st.relFences := by cases f <;> rfl
@[simp] theorem resultF_acqReads {w : Nat} (st : Stream w) (f : Option Nat) (c n : Nat) (d : Dest) (v : List (Option (BitVec w))) : (st.resultF f c n d v).acqReads = st.acqReads := by cases f <;> rfl
@[simp] theorem resultF_spec {w : Nat} (st : Stream w) (f : Option Nat) (c n : Nat) (d : Dest) (v : List (Option (BitVec w))) : (st.resultF f c n d v).spec = st.spec := by cases f <;> rfl
@[simp] theorem resultF_slot {w : Nat} (st : Stream w) (f : Option Nat) (c n : Nat) (d : Dest) (v : List (Option (BitVec w))) : (st.resultF f c n d v).slot = st.slot := by cases f <;> rfl
@[simp] theorem resultF_started {w : Nat} (st : Stream w) (f : Option Nat) (c n : Nat) (d : Dest) (v : List (Option (BitVec w))) : (st.resultF f c n d v).started = st.started := by cases f <;> rfl
@[simp] theorem resultF_halted {w : Nat} (st : Stream w) (f : Option Nat) (c n : Nat) (d : Dest) (v : List (Option (BitVec w))) : (st.resultF f c n d v).halted = st.halted := by cases f <;> rfl
@[simp] theorem resultF_light {w : Nat} (st : Stream w) (f : Option Nat) (c n : Nat) (d : Dest) (v : List (Option (BitVec w))) : (st.resultF f c n d v).light = st.light := by cases f <;> rfl
@[simp] theorem resultF_pptLive {w : Nat} (st : Stream w) (f : Option Nat) (c n : Nat) (d : Dest) (v : List (Option (BitVec w))) : (st.resultF f c n d v).pptLive = st.pptLive := by cases f <;> rfl
@[simp] theorem resultF_bypass {w : Nat} (st : Stream w) (f : Option Nat) (c n : Nat) (d : Dest) (v : List (Option (BitVec w))) : (st.resultF f c n d v).bypass = st.bypass := by cases f <;> rfl
@[simp] theorem resultF_mid {w : Nat} (st : Stream w) (f : Option Nat) (c n : Nat) (d : Dest) (v : List (Option (BitVec w))) : (st.resultF f c n d v).mid = st.mid := by cases f <;> rfl
@[simp] theorem resultF_ready {w : Nat} (st : Stream w) (f : Option Nat) (c n : Nat) (d : Dest) (v : List (Option (BitVec w))) : (st.resultF f c n d v).ready = st.ready := by cases f <;> rfl

/-! ## Stream.result -/

@[simp] theorem result_n {w : Nat} (st : Stream w) (c n : Nat) (d : Dest) (v : List (Option (BitVec w))) : (st.result c n d v).n = st.n := by unfold Stream.result; simp
@[simp] theorem result_regs {w : Nat} (st : Stream w) (c n : Nat) (d : Dest) (v : List (Option (BitVec w))) : (st.result c n d v).regs = st.regs := by unfold Stream.result; simp
@[simp] theorem result_blocks {w : Nat} (st : Stream w) (c n : Nat) (d : Dest) (v : List (Option (BitVec w))) : (st.result c n d v).blocks = st.blocks := by unfold Stream.result; simp
@[simp] theorem result_preds {w : Nat} (st : Stream w) (c n : Nat) (d : Dest) (v : List (Option (BitVec w))) : (st.result c n d v).preds = st.preds := by unfold Stream.result; simp
@[simp] theorem result_vpc {w : Nat} (st : Stream w) (c n : Nat) (d : Dest) (v : List (Option (BitVec w))) : (st.result c n d v).vpc = st.vpc := by unfold Stream.result; simp
@[simp] theorem result_lst {w : Nat} (st : Stream w) (c n : Nat) (d : Dest) (v : List (Option (BitVec w))) : (st.result c n d v).lst = st.lst := by unfold Stream.result; simp
@[simp] theorem result_waits {w : Nat} (st : Stream w) (c n : Nat) (d : Dest) (v : List (Option (BitVec w))) : (st.result c n d v).waits = st.waits := by unfold Stream.result; simp
@[simp] theorem result_goesOn {w : Nat} (st : Stream w) (c n : Nat) (d : Dest) (v : List (Option (BitVec w))) : (st.result c n d v).goesOn = st.goesOn := by unfold Stream.result; simp
@[simp] theorem result_masks {w : Nat} (st : Stream w) (c n : Nat) (d : Dest) (v : List (Option (BitVec w))) : (st.result c n d v).masks = st.masks := by unfold Stream.result; simp
@[simp] theorem result_latches {w : Nat} (st : Stream w) (c n : Nat) (d : Dest) (v : List (Option (BitVec w))) : (st.result c n d v).latches = st.latches := by unfold Stream.result; simp
@[simp] theorem result_latchNew {w : Nat} (st : Stream w) (c n : Nat) (d : Dest) (v : List (Option (BitVec w))) : (st.result c n d v).latchNew = st.latchNew := by unfold Stream.result; simp
@[simp] theorem result_lastIssue {w : Nat} (st : Stream w) (c n : Nat) (d : Dest) (v : List (Option (BitVec w))) : (st.result c n d v).lastIssue = st.lastIssue := by unfold Stream.result; simp
@[simp] theorem result_pktNo {w : Nat} (st : Stream w) (c n : Nat) (d : Dest) (v : List (Option (BitVec w))) : (st.result c n d v).pktNo = st.pktNo := by unfold Stream.result; simp
@[simp] theorem result_pkt {w : Nat} (st : Stream w) (c n : Nat) (d : Dest) (v : List (Option (BitVec w))) : (st.result c n d v).pkt = st.pkt := by unfold Stream.result; simp
@[simp] theorem result_hold {w : Nat} (st : Stream w) (c n : Nat) (d : Dest) (v : List (Option (BitVec w))) : (st.result c n d v).hold = st.hold := by unfold Stream.result; simp
@[simp] theorem result_handler {w : Nat} (st : Stream w) (c n : Nat) (d : Dest) (v : List (Option (BitVec w))) : (st.result c n d v).handler = st.handler := by unfold Stream.result; simp
@[simp] theorem result_acc {w : Nat} (st : Stream w) (c n : Nat) (d : Dest) (v : List (Option (BitVec w))) : (st.result c n d v).acc = st.acc := by unfold Stream.result; simp
@[simp] theorem result_accNext {w : Nat} (st : Stream w) (c n : Nat) (d : Dest) (v : List (Option (BitVec w))) : (st.result c n d v).accNext = st.accNext := by unfold Stream.result; simp
@[simp] theorem result_mOwner {w : Nat} (st : Stream w) (c n : Nat) (d : Dest) (v : List (Option (BitVec w))) : (st.result c n d v).mOwner = st.mOwner := by unfold Stream.result; simp
@[simp] theorem result_engPkt {w : Nat} (st : Stream w) (c n : Nat) (d : Dest) (v : List (Option (BitVec w))) : (st.result c n d v).engPkt = st.engPkt := by unfold Stream.result; simp
@[simp] theorem result_view {w : Nat} (st : Stream w) (c n : Nat) (d : Dest) (v : List (Option (BitVec w))) : (st.result c n d v).view = st.view := by unfold Stream.result; simp
@[simp] theorem result_stores {w : Nat} (st : Stream w) (c n : Nat) (d : Dest) (v : List (Option (BitVec w))) : (st.result c n d v).stores = st.stores := by unfold Stream.result; simp
@[simp] theorem result_acqHeld {w : Nat} (st : Stream w) (c n : Nat) (d : Dest) (v : List (Option (BitVec w))) : (st.result c n d v).acqHeld = st.acqHeld := by unfold Stream.result; simp
@[simp] theorem result_relFences {w : Nat} (st : Stream w) (c n : Nat) (d : Dest) (v : List (Option (BitVec w))) : (st.result c n d v).relFences = st.relFences := by unfold Stream.result; simp
@[simp] theorem result_acqReads {w : Nat} (st : Stream w) (c n : Nat) (d : Dest) (v : List (Option (BitVec w))) : (st.result c n d v).acqReads = st.acqReads := by unfold Stream.result; simp
@[simp] theorem result_spec {w : Nat} (st : Stream w) (c n : Nat) (d : Dest) (v : List (Option (BitVec w))) : (st.result c n d v).spec = st.spec := by unfold Stream.result; simp
@[simp] theorem result_slot {w : Nat} (st : Stream w) (c n : Nat) (d : Dest) (v : List (Option (BitVec w))) : (st.result c n d v).slot = st.slot := by unfold Stream.result; simp
@[simp] theorem result_started {w : Nat} (st : Stream w) (c n : Nat) (d : Dest) (v : List (Option (BitVec w))) : (st.result c n d v).started = st.started := by unfold Stream.result; simp
@[simp] theorem result_halted {w : Nat} (st : Stream w) (c n : Nat) (d : Dest) (v : List (Option (BitVec w))) : (st.result c n d v).halted = st.halted := by unfold Stream.result; simp
@[simp] theorem result_light {w : Nat} (st : Stream w) (c n : Nat) (d : Dest) (v : List (Option (BitVec w))) : (st.result c n d v).light = st.light := by unfold Stream.result; simp
@[simp] theorem result_pptLive {w : Nat} (st : Stream w) (c n : Nat) (d : Dest) (v : List (Option (BitVec w))) : (st.result c n d v).pptLive = st.pptLive := by unfold Stream.result; simp
@[simp] theorem result_bypass {w : Nat} (st : Stream w) (c n : Nat) (d : Dest) (v : List (Option (BitVec w))) : (st.result c n d v).bypass = st.bypass := by unfold Stream.result; simp
@[simp] theorem result_mid {w : Nat} (st : Stream w) (c n : Nat) (d : Dest) (v : List (Option (BitVec w))) : (st.result c n d v).mid = st.mid := by unfold Stream.result; simp
@[simp] theorem result_ready {w : Nat} (st : Stream w) (c n : Nat) (d : Dest) (v : List (Option (BitVec w))) : (st.result c n d v).ready = st.ready := by unfold Stream.result; simp

/-! ## The current stream -/

@[simp] theorem modCur_now (s : State) (f : (w : Nat) → Stream w → Stream w) : (s.modCur f).now = s.now := by
  unfold State.modCur; split <;> rfl
@[simp] theorem modCur_agenda (s : State) (f : (w : Nat) → Stream w → Stream w) : (s.modCur f).agenda = s.agenda := by
  unfold State.modCur; split <;> rfl
@[simp] theorem modCur_curTeam (s : State) (f : (w : Nat) → Stream w → Stream w) : (s.modCur f).curTeam = s.curTeam := by
  unfold State.modCur; split <;> rfl
@[simp] theorem modCur_curSel (s : State) (f : (w : Nat) → Stream w → Stream w) : (s.modCur f).curSel = s.curSel := by
  unfold State.modCur; split <;> rfl
@[simp] theorem modCur_slotEnd (s : State) (f : (w : Nat) → Stream w → Stream w) : (s.modCur f).slotEnd = s.slotEnd := by
  unfold State.modCur; split <;> rfl
@[simp] theorem modCur_freeCount (s : State) (f : (w : Nat) → Stream w → Stream w) : (s.modCur f).freeCount = s.freeCount := by
  unfold State.modCur; split <;> rfl
@[simp] theorem modCur_grids (s : State) (f : (w : Nat) → Stream w → Stream w) : (s.modCur f).grids = s.grids := by
  unfold State.modCur; split <;> rfl
@[simp] theorem modCur_cores (s : State) (f : (w : Nat) → Stream w → Stream w) : (s.modCur f).cores = s.cores := by
  unfold State.modCur; split <;> rfl
@[simp] theorem modCur_pkgs (s : State) (f : (w : Nat) → Stream w → Stream w) : (s.modCur f).pkgs = s.pkgs := by
  unfold State.modCur; split <;> rfl
@[simp] theorem modCur_mods (s : State) (f : (w : Nat) → Stream w → Stream w) : (s.modCur f).mods = s.mods := by
  unfold State.modCur; split <;> rfl
@[simp] theorem modCur_links (s : State) (f : (w : Nat) → Stream w → Stream w) : (s.modCur f).links = s.links := by
  unfold State.modCur; split <;> rfl
@[simp] theorem modCur_lanes (s : State) (f : (w : Nat) → Stream w → Stream w) : (s.modCur f).lanes = s.lanes := by
  unfold State.modCur; split <;> rfl
@[simp] theorem modCur_xfers (s : State) (f : (w : Nat) → Stream w → Stream w) : (s.modCur f).xfers = s.xfers := by
  unfold State.modCur; split <;> rfl
@[simp] theorem modCur_fars (s : State) (f : (w : Nat) → Stream w → Stream w) : (s.modCur f).fars = s.fars := by
  unfold State.modCur; split <;> rfl
@[simp] theorem modCur_fences (s : State) (f : (w : Nat) → Stream w → Stream w) : (s.modCur f).fences = s.fences := by
  unfold State.modCur; split <;> rfl
@[simp] theorem modCur_nextTeam (s : State) (f : (w : Nat) → Stream w → Stream w) : (s.modCur f).nextTeam = s.nextTeam := by
  unfold State.modCur; split <;> rfl
@[simp] theorem modCur_nextGrid (s : State) (f : (w : Nat) → Stream w → Stream w) : (s.modCur f).nextGrid = s.nextGrid := by
  unfold State.modCur; split <;> rfl
@[simp] theorem modCur_nextXfer (s : State) (f : (w : Nat) → Stream w → Stream w) : (s.modCur f).nextXfer = s.nextXfer := by
  unfold State.modCur; split <;> rfl
@[simp] theorem modCur_nextFar (s : State) (f : (w : Nat) → Stream w → Stream w) : (s.modCur f).nextFar = s.nextFar := by
  unfold State.modCur; split <;> rfl
@[simp] theorem modCur_nextId (s : State) (f : (w : Nat) → Stream w → Stream w) : (s.modCur f).nextId = s.nextId := by
  unfold State.modCur; split <;> rfl
@[simp] theorem modCur_host (s : State) (f : (w : Nat) → Stream w → Stream w) : (s.modCur f).host = s.host := by
  unfold State.modCur; split <;> rfl
@[simp] theorem modCur_dma (s : State) (f : (w : Nat) → Stream w → Stream w) : (s.modCur f).dma = s.dma := by
  unfold State.modCur; split <;> rfl
@[simp] theorem modCur_msix (s : State) (f : (w : Nat) → Stream w → Stream w) : (s.modCur f).msix = s.msix := by
  unfold State.modCur; split <;> rfl
@[simp] theorem modCur_dark (s : State) (f : (w : Nat) → Stream w → Stream w) : (s.modCur f).dark = s.dark := by
  unfold State.modCur; split <;> rfl
@[simp] theorem modCur_hostRead (s : State) (f : (w : Nat) → Stream w → Stream w) : (s.modCur f).hostRead = s.hostRead := by
  unfold State.modCur; split <;> rfl
@[simp] theorem modCur_spdm (s : State) (f : (w : Nat) → Stream w → Stream w) : (s.modCur f).spdm = s.spdm := by
  unfold State.modCur; split <;> rfl
@[simp] theorem modStream_now (s : State) (t : Nat) (q : Sel) (f : (w : Nat) → Stream w → Stream w) : (s.modStream t q f).now = s.now := by
  cases q <;> rfl
@[simp] theorem modStream_agenda (s : State) (t : Nat) (q : Sel) (f : (w : Nat) → Stream w → Stream w) : (s.modStream t q f).agenda = s.agenda := by
  cases q <;> rfl
@[simp] theorem modStream_curTeam (s : State) (t : Nat) (q : Sel) (f : (w : Nat) → Stream w → Stream w) : (s.modStream t q f).curTeam = s.curTeam := by
  cases q <;> rfl
@[simp] theorem modStream_curSel (s : State) (t : Nat) (q : Sel) (f : (w : Nat) → Stream w → Stream w) : (s.modStream t q f).curSel = s.curSel := by
  cases q <;> rfl
@[simp] theorem modStream_slotEnd (s : State) (t : Nat) (q : Sel) (f : (w : Nat) → Stream w → Stream w) : (s.modStream t q f).slotEnd = s.slotEnd := by
  cases q <;> rfl
@[simp] theorem modStream_freeCount (s : State) (t : Nat) (q : Sel) (f : (w : Nat) → Stream w → Stream w) : (s.modStream t q f).freeCount = s.freeCount := by
  cases q <;> rfl
@[simp] theorem modStream_grids (s : State) (t : Nat) (q : Sel) (f : (w : Nat) → Stream w → Stream w) : (s.modStream t q f).grids = s.grids := by
  cases q <;> rfl
@[simp] theorem modStream_cores (s : State) (t : Nat) (q : Sel) (f : (w : Nat) → Stream w → Stream w) : (s.modStream t q f).cores = s.cores := by
  cases q <;> rfl
@[simp] theorem modStream_pkgs (s : State) (t : Nat) (q : Sel) (f : (w : Nat) → Stream w → Stream w) : (s.modStream t q f).pkgs = s.pkgs := by
  cases q <;> rfl
@[simp] theorem modStream_mods (s : State) (t : Nat) (q : Sel) (f : (w : Nat) → Stream w → Stream w) : (s.modStream t q f).mods = s.mods := by
  cases q <;> rfl
@[simp] theorem modStream_links (s : State) (t : Nat) (q : Sel) (f : (w : Nat) → Stream w → Stream w) : (s.modStream t q f).links = s.links := by
  cases q <;> rfl
@[simp] theorem modStream_lanes (s : State) (t : Nat) (q : Sel) (f : (w : Nat) → Stream w → Stream w) : (s.modStream t q f).lanes = s.lanes := by
  cases q <;> rfl
@[simp] theorem modStream_xfers (s : State) (t : Nat) (q : Sel) (f : (w : Nat) → Stream w → Stream w) : (s.modStream t q f).xfers = s.xfers := by
  cases q <;> rfl
@[simp] theorem modStream_fars (s : State) (t : Nat) (q : Sel) (f : (w : Nat) → Stream w → Stream w) : (s.modStream t q f).fars = s.fars := by
  cases q <;> rfl
@[simp] theorem modStream_fences (s : State) (t : Nat) (q : Sel) (f : (w : Nat) → Stream w → Stream w) : (s.modStream t q f).fences = s.fences := by
  cases q <;> rfl
@[simp] theorem modStream_nextTeam (s : State) (t : Nat) (q : Sel) (f : (w : Nat) → Stream w → Stream w) : (s.modStream t q f).nextTeam = s.nextTeam := by
  cases q <;> rfl
@[simp] theorem modStream_nextGrid (s : State) (t : Nat) (q : Sel) (f : (w : Nat) → Stream w → Stream w) : (s.modStream t q f).nextGrid = s.nextGrid := by
  cases q <;> rfl
@[simp] theorem modStream_nextXfer (s : State) (t : Nat) (q : Sel) (f : (w : Nat) → Stream w → Stream w) : (s.modStream t q f).nextXfer = s.nextXfer := by
  cases q <;> rfl
@[simp] theorem modStream_nextFar (s : State) (t : Nat) (q : Sel) (f : (w : Nat) → Stream w → Stream w) : (s.modStream t q f).nextFar = s.nextFar := by
  cases q <;> rfl
@[simp] theorem modStream_nextId (s : State) (t : Nat) (q : Sel) (f : (w : Nat) → Stream w → Stream w) : (s.modStream t q f).nextId = s.nextId := by
  cases q <;> rfl
@[simp] theorem modStream_host (s : State) (t : Nat) (q : Sel) (f : (w : Nat) → Stream w → Stream w) : (s.modStream t q f).host = s.host := by
  cases q <;> rfl
@[simp] theorem modStream_dma (s : State) (t : Nat) (q : Sel) (f : (w : Nat) → Stream w → Stream w) : (s.modStream t q f).dma = s.dma := by
  cases q <;> rfl
@[simp] theorem modStream_msix (s : State) (t : Nat) (q : Sel) (f : (w : Nat) → Stream w → Stream w) : (s.modStream t q f).msix = s.msix := by
  cases q <;> rfl
@[simp] theorem modStream_dark (s : State) (t : Nat) (q : Sel) (f : (w : Nat) → Stream w → Stream w) : (s.modStream t q f).dark = s.dark := by
  cases q <;> rfl
@[simp] theorem modStream_hostRead (s : State) (t : Nat) (q : Sel) (f : (w : Nat) → Stream w → Stream w) : (s.modStream t q f).hostRead = s.hostRead := by
  cases q <;> rfl
@[simp] theorem modStream_spdm (s : State) (t : Nat) (q : Sel) (f : (w : Nat) → Stream w → Stream w) : (s.modStream t q f).spdm = s.spdm := by
  cases q <;> rfl
@[simp] theorem done_now (s : State) : s.done.now = s.now := by simp [State.done]
@[simp] theorem done_agenda (s : State) : s.done.agenda = s.agenda := by simp [State.done]
@[simp] theorem done_curTeam (s : State) : s.done.curTeam = s.curTeam := by simp [State.done]
@[simp] theorem done_curSel (s : State) : s.done.curSel = s.curSel := by simp [State.done]
@[simp] theorem done_freeCount (s : State) : s.done.freeCount = s.freeCount := by simp [State.done]
@[simp] theorem done_grids (s : State) : s.done.grids = s.grids := by simp [State.done]
@[simp] theorem done_cores (s : State) : s.done.cores = s.cores := by simp [State.done]
@[simp] theorem done_pkgs (s : State) : s.done.pkgs = s.pkgs := by simp [State.done]
@[simp] theorem done_mods (s : State) : s.done.mods = s.mods := by simp [State.done]
@[simp] theorem done_links (s : State) : s.done.links = s.links := by simp [State.done]
@[simp] theorem done_lanes (s : State) : s.done.lanes = s.lanes := by simp [State.done]
@[simp] theorem done_xfers (s : State) : s.done.xfers = s.xfers := by simp [State.done]
@[simp] theorem done_fars (s : State) : s.done.fars = s.fars := by simp [State.done]
@[simp] theorem done_fences (s : State) : s.done.fences = s.fences := by simp [State.done]
@[simp] theorem done_nextTeam (s : State) : s.done.nextTeam = s.nextTeam := by simp [State.done]
@[simp] theorem done_nextGrid (s : State) : s.done.nextGrid = s.nextGrid := by simp [State.done]
@[simp] theorem done_nextXfer (s : State) : s.done.nextXfer = s.nextXfer := by simp [State.done]
@[simp] theorem done_nextFar (s : State) : s.done.nextFar = s.nextFar := by simp [State.done]
@[simp] theorem done_nextId (s : State) : s.done.nextId = s.nextId := by simp [State.done]
@[simp] theorem done_host (s : State) : s.done.host = s.host := by simp [State.done]
@[simp] theorem done_dma (s : State) : s.done.dma = s.dma := by simp [State.done]
@[simp] theorem done_msix (s : State) : s.done.msix = s.msix := by simp [State.done]
@[simp] theorem done_dark (s : State) : s.done.dark = s.dark := by simp [State.done]
@[simp] theorem done_hostRead (s : State) : s.done.hostRead = s.hostRead := by simp [State.done]
@[simp] theorem done_spdm (s : State) : s.done.spdm = s.spdm := by simp [State.done]
@[simp] theorem done_slotEnd (s : State) : s.done.slotEnd = .none := rfl

end Sys2Proof.Laws
end

