-- ==== Sys2Proof/Laws/Maps.lean ====
section
/-! SUPPORT. Tables, lists with one entry per lane, lane masks, and the parts of a state after an update of a part. -/
namespace Sys2Proof.Laws
open Sys2Proof Sys2Proof.Machine

/-! ## Tables -/

/-- What a table holds after an entry is set. -/
@[simp] theorem find_set {α : Type} (m : Map α) (i j : Nat) (v : α) : Map.find (Map.set m i v) j = if j = i then some v else Map.find m j := by
  induction m with
  | nil =>
    by_cases h : j = i
    · subst h; simp [Map.set, Map.find]
    · simp [Map.set, Map.find, h, Ne.symm h]
  | cons e m ih =>
    obtain ⟨k, w⟩ := e
    unfold Map.set
    by_cases hj : j = i
    · subst hj
      split
      · simp [Map.find]
      · split
        · simp [Map.find]
        · rename_i h1 h2
          simp [Map.find, Ne.symm h2, ih]
    · split
      · simp [Map.find, Ne.symm hj]
      · split
        · rename_i h1 h2
          subst h2
          simp [Map.find, Ne.symm hj]
        · simp only [Map.find, ih, if_neg hj]

/-- The same with a default. -/
@[simp] theorem get_set {α : Type} (m : Map α) (i j : Nat) (v d : α) : Map.get (Map.set m i v) j d = if j = i then v else Map.get m j d := by
  unfold Map.get
  rw [find_set]
  split <;> rfl

/-- The second of two settings of one entry remains. -/
@[simp] theorem set_set {α : Type} (m : Map α) (i : Nat) (v w : α) : Map.set (Map.set m i v) i w = Map.set m i w := by
  induction m with
  | nil => simp [Map.set]
  | cons e m ih =>
    obtain ⟨k, u⟩ := e
    by_cases h1 : i < k
    · simp [Map.set, h1]
    · by_cases h2 : i = k
      · simp [Map.set, h2]
      · simp [Map.set, h1, h2, ih]

/-- An entry that is found stands in the table. -/
theorem mem_of_find {α : Type} {m : Map α} {i : Nat} {v : α} (h : Map.find m i = some v) : (i, v) ∈ m := by
  induction m with
  | nil => simp [Map.find] at h
  | cons e m ih =>
    obtain ⟨k, w⟩ := e
    unfold Map.find at h
    split at h
    · rename_i hk
      subst hk
      cases h
      exact List.mem_cons_self
    · exact List.mem_cons_of_mem _ (ih h)

/-- What holds of every entry and of a new one holds of every entry after it is set. -/
theorem all_set {α : Type} {p : Nat × α → Bool} {m : Map α} {i : Nat} {v : α} (h : m.all p = true) (hv : p (i, v) = true) :
    (Map.set m i v).all p = true := by
  induction m with
  | nil => simp [Map.set, hv]
  | cons e m ih =>
    obtain ⟨k, w⟩ := e
    simp only [List.all_cons, Bool.and_eq_true] at h
    unfold Map.set
    split
    · simp [hv, h.1, h.2]
    · split
      · simp [hv, h.2]
      · simp [h.1, ih h.2]

/-- What holds of every entry and of the default holds of what is looked up. -/
theorem get_all {α : Type} {p : α → Prop} {m : Map α} {d : α} (h : ∀ e ∈ m, p e.2) (hd : p d) (i : Nat) : p (Map.get m i d) := by
  unfold Map.get
  cases hf : Map.find m i with
  | none => exact hd
  | some v => exact h _ (mem_of_find hf)

/-! ## Lists -/

/-- Setting an entry keeps the length. -/
@[simp] theorem length_setAt {α : Type} (l : List α) (i : Nat) (v : α) : (setAt l i v).length = l.length := by
  induction l generalizing i with
  | nil => rfl
  | cons x l ih => cases i <;> simp [setAt, ih]

/-- What a list holds after an entry is set. -/
theorem getD_setAt {α : Type} (l : List α) (i j : Nat) (v d : α) : (setAt l i v).getD j d = if j = i ∧ i < l.length then v else l.getD j d := by
  induction l generalizing i j with
  | nil => simp [setAt]
  | cons x l ih =>
    cases i with
    | zero => cases j <;> simp [setAt]
    | succ i =>
      cases j with
      | zero => simp [setAt]
      | succ j => simpa [setAt] using ih i j

/-- The number of copies. -/
@[simp] theorem length_copies {α : Type} (n : Nat) (v : α) : (copies n v).length = n := by simp [copies]

/-- A copy. -/
theorem getD_copies {α : Type} (n i : Nat) (v d : α) : (copies n v).getD i d = if i < n then v else d := by
  unfold copies
  by_cases h : i < n <;> simp [List.getD, h]

/-- The values of the lanes of a mask. -/
theorem getD_valsOf {α : Type} (n : Nat) (m : Word) (f : Nat → α) (l : Nat) :
    (valsOf n m f).getD l none = if l < n ∧ m.getLsbD l = true then some (f l) else none := by
  unfold valsOf
  by_cases h : l < n <;> simp [List.getD, h]

/-- An entry of an overlay. -/
theorem getD_overlay {α : Type} (n : Nat) (old : List α) (d : α) (new : List (Option α)) (l : Nat) (h : l < n) :
    (overlay n old d new).getD l d = (new.getD l none).getD (old.getD l d) := by
  unfold overlay
  simp only [List.getD, List.getElem?_map, List.getElem?_range, h, Option.map_some, Option.getD_some]
  split <;> simp_all

/-! ## Lane masks -/

theorem fold_mask (f : Nat → Bool) (ls : List Nat) (m : Word) (j : Nat) (hj : j < 32) :
    (ls.foldl (fun m l => if f l then m ||| (1#32 <<< l) else m) m).getLsbD j = (m.getLsbD j || ls.any (fun l => l == j && f l)) := by
  induction ls generalizing m with
  | nil => simp
  | cons x ls ih =>
    rw [List.foldl_cons, ih, List.any_cons]
    by_cases hf : f x = true
    · simp only [hf, if_true, BitVec.getLsbD_or, BitVec.getLsbD_shiftLeft, BitVec.getLsbD_one]
      by_cases hx : x = j
      · subst hx
        simp [hj]
      · have hb : (x == j) = false := by simp [hx]
        by_cases h1 : j < x
        · simp [h1, hb, hj]
        · have h2 : j - x ≠ 0 := by omega
          simp [h1, hb, hj, h2]
    · simp [hf]

/-- A lane of a mask. -/
@[simp] theorem getLsbD_maskOf (n : Nat) (f : Nat → Bool) (j : Nat) (hj : j < 32) : (maskOf n f).getLsbD j = (decide (j < n) && f j) := by
  unfold maskOf
  rw [fold_mask f _ _ _ hj]
  have : ∀ n : Nat, (List.range n).any (fun l => l == j && f l) = (decide (j < n) && f j) := by
    intro n
    rw [Bool.eq_iff_iff]
    simp only [List.any_eq_true, List.mem_range, Bool.and_eq_true, beq_iff_eq, decide_eq_true_eq]
    constructor
    · rintro ⟨x, h, rfl, hf⟩
      exact ⟨h, hf⟩
    · rintro ⟨h, hf⟩
      exact ⟨j, h, rfl, hf⟩
  simp [this]

/-- The lanes of a mask. -/
theorem mem_lanesOf (m : Word) (n l : Nat) : l ∈ lanesOf m n ↔ l < n ∧ m.getLsbD l = true := by simp [lanesOf]

/-! ## The parts of a state after an update of a part -/

@[simp] theorem team_setTeam (s : State) (k j : Nat) (x : Team) : (s.setTeam k x).team j = if j = k then x else s.team j := get_set ..
@[simp] theorem grid_setGrid (s : State) (k j : Nat) (x : Grid) : (s.setGrid k x).grid j = if j = k then x else s.grid j := get_set ..
@[simp] theorem core_setCore (s : State) (k j : Nat) (x : Core) : (s.setCore k x).core j = if j = k then x else s.core j := get_set ..
@[simp] theorem pkg_setPkg (s : State) (k j : Nat) (x : Pkg) : (s.setPkg k x).pkg j = if j = k then x else s.pkg j := get_set ..
@[simp] theorem mod_setMod (s : State) (k j : Nat) (x : Module) : (s.setMod k x).mod j = if j = k then x else s.mod j := get_set ..
@[simp] theorem pkg_setPart (s : State) (p n j : Nat) (x : Part) :
    (s.setPart p n x).pkg j = if j = p then { s.pkg p with parts := Map.set (s.pkg p).parts n x } else s.pkg j := pkg_setPkg ..
@[simp] theorem pkg_setQi (s : State) (p n j : Nat) (x : Qi) :
    (s.setQi p n x).pkg j = if j = p then { s.pkg p with qis := Map.set (s.pkg p).qis n x } else s.pkg j := pkg_setPkg ..
@[simp] theorem pkg_setVf (s : State) (p n j : Nat) (x : Vf) :
    (s.setVf p n x).pkg j = if j = p then { s.pkg p with vfs := Map.set (s.pkg p).vfs n x } else s.pkg j := pkg_setPkg ..
@[simp] theorem part_setPart (s : State) (p n q k : Nat) (x : Part) :
    (s.setPart p n x).part q k = if q = p ∧ k = n then x else s.part q k := by
  unfold State.part
  rw [pkg_setPart]
  by_cases h : q = p
  · subst h; simp
  · simp [h]
@[simp] theorem qi_setQi (s : State) (p n q k : Nat) (x : Qi) : (s.setQi p n x).qi q k = if q = p ∧ k = n then x else s.qi q k := by
  unfold State.qi
  rw [pkg_setQi]
  by_cases h : q = p
  · subst h; simp
  · simp [h]
@[simp] theorem vf_setVf (s : State) (p n q k : Nat) (x : Vf) : (s.setVf p n x).vf q k = if q = p ∧ k = n then x else s.vf q k := by
  unfold State.vf
  rw [pkg_setVf]
  by_cases h : q = p
  · subst h; simp
  · simp [h]
@[simp] theorem part_setQi (s : State) (p n q k : Nat) (x : Qi) : (s.setQi p n x).part q k = s.part q k := by
  unfold State.part; rw [pkg_setQi]; split <;> simp_all
@[simp] theorem part_setVf (s : State) (p n q k : Nat) (x : Vf) : (s.setVf p n x).part q k = s.part q k := by
  unfold State.part; rw [pkg_setVf]; split <;> simp_all
@[simp] theorem qi_setPart (s : State) (p n q k : Nat) (x : Part) : (s.setPart p n x).qi q k = s.qi q k := by
  unfold State.qi; rw [pkg_setPart]; split <;> simp_all
@[simp] theorem vf_setPart (s : State) (p n q k : Nat) (x : Part) : (s.setPart p n x).vf q k = s.vf q k := by
  unfold State.vf; rw [pkg_setPart]; split <;> simp_all
/-- The slots that a channel direction reserves depend on no link. -/
@[simp] theorem reserve_setLink (s : State) (l k : LinkId) (x : Link) : (s.setLink l x).reserve k = s.reserve k := rfl
@[simp] theorem link_setLink (s : State) (l k : LinkId) (x : Link) : (s.setLink l x).link k = if k = l then x else s.link k := by
  unfold State.link
  rw [reserve_setLink]
  unfold State.setLink
  by_cases h : k = l
  · subst h; simp
  · simp only [h, if_false]
    rw [List.find?_cons_of_neg (by simpa using Ne.symm h), List.find?_filter]
    congr 3
    funext e
    by_cases he : e.1 = k
    · simp [he, h]
    · simp [he]
@[simp] theorem lane_setLane (s : State) (p m k : Nat) (u : Bool) (x : Lane) (p' m' k' : Nat) (u' : Bool) :
    (s.setLane p m k u x).lane p' m' k' u' = if (p', m', k', u') = (p, m, k, u) then x else s.lane p' m' k' u' := by
  unfold State.lane State.setLane
  by_cases h : (p', m', k', u') = (p, m, k, u)
  · rw [h]; simp
  · rw [if_neg h, List.find?_cons_of_neg (by simpa using fun a b c d => h (by simp [a, b, c, d])), List.find?_filter]
    congr 3
    funext e
    by_cases he : e.1 = (p', m', k', u')
    · simp [he, h]
    · simp [he]
@[simp] theorem grp_setGrp (x : Team) (g j : Nat) (y : Stream 32) : (x.setGrp g y).grp j = if j = g then y else x.grp j := get_set ..

/-! ## The current stream -/

/-- A team other than the current one stays. -/
theorem team_modCur (s : State) (f : (w : Nat) → Stream w → Stream w) (k : Nat) (h : k ≠ s.curTeam) : (s.modCur f).team k = s.team k := by
  unfold State.modCur; split <;> simp [h]

/-- What is read of the current stream after it is changed. -/
@[simp] theorem onCur_modCur {α : Type} (s : State) (f : (w : Nat) → Stream w → Stream w) (g : (w : Nat) → Stream w → α) :
    (s.modCur f).onCur g = s.onCur (fun w st => g w (f w st)) := by
  unfold State.onCur State.onStream State.modCur
  cases h : s.curSel with
  | ctl => simp [h]
  | grp q => simp [h]

/-- Two changes of the current stream are one. -/
theorem modCur_modCur (s : State) (f g : (w : Nat) → Stream w → Stream w) (x : Nat) (hx : x = s.curTeam) :
    ((s.modCur f).modCur g).team x = (s.modCur (fun w st => g w (f w st))).team x := by
  subst hx
  unfold State.modCur
  cases h : s.curSel with
  | ctl => simp [h]
  | grp q => simp only [team_setTeam, setTeam_curSel, setTeam_curTeam, h, if_true, Team.setGrp, Team.grp, get_set, set_set]

end Sys2Proof.Laws
end

