-- ==== Sys2Proof/Laws/Memory.lean ====
section
/-! SUPPORT. Byte memories: a read after a write, and that every memory operation keeps the canonical form (log entry 6). -/
namespace Sys2Proof.Laws
open Sys2Proof Sys2Proof.Machine

/-- A memory that is canonical from a bound on is canonical from a lower one on. -/
theorem wfFrom_le {m : Memory} {lo lo' : Nat} (h : m.wfFrom lo = true) (hl : lo' ≤ lo) : m.wfFrom lo' = true := by
  cases m with
  | nil => rfl
  | cons e m =>
    obtain ⟨k, v⟩ := e
    simp only [Memory.wfFrom, Bool.and_eq_true, decide_eq_true_eq] at h ⊢
    exact ⟨⟨by omega, h.1.2⟩, h.2⟩

/-- Below its bound a canonical memory reads 0. -/
theorem read_low {m : Memory} {lo a : Nat} (h : m.wfFrom lo = true) (ha : a < lo) : m.read a = 0 := by
  cases m with
  | nil => rfl
  | cons e m =>
    obtain ⟨k, v⟩ := e
    simp only [Memory.wfFrom, Bool.and_eq_true, decide_eq_true_eq] at h
    have h1 : ¬ k = a := by omega
    have h2 : a < k := by omega
    simp [Memory.read, h1, h2]

/-- A byte put in front reads as itself, whether it is listed or 0. -/
theorem read_cell {m : Memory} {a : Nat} (h : m.wfFrom (a + 1) = true) (v : Byte) (b : Nat) :
    (Memory.cell a v m).read b = if b = a then v else m.read b := by
  unfold Memory.cell
  by_cases hv : v = 0
  · by_cases hb : b = a
    · subst hb; simp [hv, read_low h (Nat.lt_succ_self b)]
    · simp [hv, hb]
  · simp only [hv, if_false, Memory.read]
    by_cases hb : b = a
    · subst hb; simp
    · by_cases hlt : b < a
      · simp [Ne.symm hb, hb, hlt, read_low h (Nat.lt_succ_of_lt hlt)]
      · simp [Ne.symm hb, hb, hlt]

/-- Putting a byte in front keeps the form. -/
theorem wfFrom_cell {m : Memory} {a lo : Nat} (h : m.wfFrom (a + 1) = true) (hl : lo ≤ a) (v : Byte) :
    (Memory.cell a v m).wfFrom lo = true := by
  unfold Memory.cell
  by_cases hv : v = 0
  · simp only [hv, if_true]
    exact wfFrom_le h (by omega)
  · rw [if_neg hv]
    simp only [Memory.wfFrom, Bool.and_eq_true, decide_eq_true_eq]
    exact ⟨⟨hl, hv⟩, h⟩

/-- A write keeps the form. -/
theorem wfFrom_write {m : Memory} {lo a : Nat} (h : m.wfFrom lo = true) (hl : lo ≤ a) (v : Byte) : (m.write a v).wfFrom lo = true := by
  induction m generalizing lo with
  | nil => exact wfFrom_cell (m := []) rfl hl v
  | cons e m ih =>
    obtain ⟨k, w⟩ := e
    have h0 := h
    simp only [Memory.wfFrom, Bool.and_eq_true, decide_eq_true_eq] at h
    unfold Memory.write
    split
    · refine wfFrom_cell ?_ hl v
      simp only [Memory.wfFrom, Bool.and_eq_true, decide_eq_true_eq]
      exact ⟨⟨by omega, h.1.2⟩, h.2⟩
    · split
      · rename_i h1 h2
        subst h2
        exact wfFrom_cell h.2 hl v
      · simp only [Memory.wfFrom, Bool.and_eq_true, decide_eq_true_eq]
        exact ⟨h.1, ih h.2 (by omega)⟩

/-- A write to a canonical memory leaves it canonical. -/
@[simp] theorem wf_write {m : Memory} (h : m.wf = true) (a : Nat) (v : Byte) : (m.write a v).wf = true := wfFrom_write h (Nat.zero_le a) v

/-- A read after a write. -/
theorem read_write_from {m : Memory} {lo : Nat} (h : m.wfFrom lo = true) (a : Nat) (v : Byte) (b : Nat) :
    (m.write a v).read b = if b = a then v else m.read b := by
  induction m generalizing lo with
  | nil => simpa [Memory.write] using read_cell (m := []) rfl v b
  | cons e m ih =>
    obtain ⟨k, w⟩ := e
    have h0 := h
    simp only [Memory.wfFrom, Bool.and_eq_true, decide_eq_true_eq] at h
    unfold Memory.write
    split
    · refine read_cell ?_ v b
      simp only [Memory.wfFrom, Bool.and_eq_true, decide_eq_true_eq]
      exact ⟨⟨by omega, h.1.2⟩, h.2⟩
    · split
      · rename_i h1 h2
        subst h2
        rw [read_cell h.2]
        by_cases hb : b = a
        · simp [hb]
        · by_cases hlt : b < a
          · simp [hb, Memory.read, Ne.symm hb, hlt, read_low h.2 (Nat.lt_succ_of_lt hlt)]
          · simp [hb, Memory.read, Ne.symm hb, hlt]
      · rename_i h1 h2
        by_cases hk : k = b
        · subst hk
          simp [Memory.read, Ne.symm h2]
        · by_cases hlt : b < k
          · have : b ≠ a := by omega
            simp [Memory.read, hk, hlt, this]
          · simp [Memory.read, hk, hlt, ih h.2]

/-- A read after a write to a canonical memory. -/
@[simp] theorem read_write {m : Memory} (h : m.wf = true) (a : Nat) (v : Byte) (b : Nat) : (m.write a v).read b = if b = a then v else m.read b :=
  read_write_from h a v b

/-- A write of bytes keeps the form. -/
@[simp] theorem wf_writeN {m : Memory} (h : m.wf = true) (a : Nat) (l : List Byte) : (m.writeN a l).wf = true := by
  induction l generalizing m a with
  | nil => exact h
  | cons b l ih => exact ih (wf_write h a b) (a + 1)

/-- A read after a write of bytes. -/
theorem read_writeN {m : Memory} (h : m.wf = true) (a : Nat) (l : List Byte) (b : Nat) :
    (m.writeN a l).read b = if a ≤ b ∧ b < a + l.length then l.getD (b - a) 0 else m.read b := by
  induction l generalizing m a with
  | nil =>
    have : ¬ (a ≤ b ∧ b < a) := by omega
    simp [Memory.writeN, this]
  | cons c l ih =>
    rw [Memory.writeN, ih (wf_write h a c), read_write h]
    by_cases h1 : a + 1 ≤ b ∧ b < a + 1 + l.length
    · have h2 : a ≤ b ∧ b < a + (c :: l).length := by simp only [List.length_cons]; omega
      obtain ⟨d, hd⟩ : ∃ d, b - a = d + 1 := ⟨b - a - 1, by omega⟩
      have h3 : b - (a + 1) = d := by omega
      rw [if_pos h1, if_pos h2, hd, h3]
      rfl
    · rw [if_neg h1]
      by_cases h2 : b = a
      · subst h2
        simp
      · have h3 : ¬ (a ≤ b ∧ b < a + (c :: l).length) := by simp only [List.length_cons]; omega
        rw [if_neg h2, if_neg h3]

/-- Dropping cells keeps the form. -/
theorem wfFrom_filter {m : Memory} {lo : Nat} (f : Host.Cell → Bool) (h : m.wfFrom lo = true) : Memory.wfFrom (m.filter f) lo = true := by
  induction m generalizing lo with
  | nil => rfl
  | cons e m ih =>
    obtain ⟨k, v⟩ := e
    simp only [Memory.wfFrom, Bool.and_eq_true, decide_eq_true_eq] at h
    rw [List.filter_cons]
    split
    · simp only [Memory.wfFrom, Bool.and_eq_true, decide_eq_true_eq]
      exact ⟨h.1, ih h.2⟩
    · exact wfFrom_le (ih h.2) (by omega)

/-- Clearing keeps the form. -/
@[simp] theorem wf_clear {m : Memory} (h : m.wf = true) (a n : Nat) : (m.clear a n).wf = true := wfFrom_filter _ h

/-- A read after a clear. -/
theorem read_clear_from {m : Memory} {lo : Nat} (h : m.wfFrom lo = true) (a n b : Nat) :
    (m.clear a n).read b = if a ≤ b ∧ b < a + n then 0 else m.read b := by
  induction m generalizing lo with
  | nil => simp [Memory.clear, Memory.read]
  | cons e m ih =>
    obtain ⟨k, v⟩ := e
    simp only [Memory.wfFrom, Bool.and_eq_true, decide_eq_true_eq] at h
    have ih := ih h.2
    unfold Memory.clear at ih ⊢
    rw [List.filter_cons]
    by_cases hk : k < a ∨ a + n ≤ k
    · have hc : (decide (k < a) || decide (a + n ≤ k)) = true := by simpa using hk
      rw [if_pos hc]
      by_cases hb : k = b
      · subst hb
        have : ¬ (a ≤ k ∧ k < a + n) := by omega
        simp [Memory.read, this]
      · by_cases hlt : b < k
        · simp [Memory.read, hb, hlt]
        · simp [Memory.read, hb, hlt, ih]
    · have hc : ¬ (decide (k < a) || decide (a + n ≤ k)) = true := by simpa using hk
      rw [if_neg hc, ih]
      by_cases hr : a ≤ b ∧ b < a + n
      · rw [if_pos hr, if_pos hr]
      · rw [if_neg hr, if_neg hr]
        have hb : ¬ k = b := by omega
        by_cases hlt : b < k
        · simp [Memory.read, hb, hlt, read_low h.2 (Nat.lt_succ_of_lt hlt)]
        · simp [Memory.read, hb, hlt]

/-- A read after a clear of a canonical memory. -/
theorem read_clear {m : Memory} (h : m.wf = true) (a n b : Nat) : (m.clear a n).read b = if a ≤ b ∧ b < a + n then 0 else m.read b :=
  read_clear_from h a n b

/-- Canonical memories that read the same are the same. -/
theorem memory_ext_from {m n : Memory} {lo : Nat} (hm : m.wfFrom lo = true) (hn : n.wfFrom lo = true) (h : ∀ a, m.read a = n.read a) : m = n := by
  induction m generalizing n lo with
  | nil =>
    cases n with
    | nil => rfl
    | cons e n =>
      obtain ⟨k, v⟩ := e
      simp only [Memory.wfFrom, Bool.and_eq_true, decide_eq_true_eq] at hn
      have := h k
      simp only [Memory.read, if_true] at this
      exact absurd this.symm hn.1.2
  | cons e m ih =>
    obtain ⟨k, v⟩ := e
    simp only [Memory.wfFrom, Bool.and_eq_true, decide_eq_true_eq] at hm
    cases n with
    | nil =>
      have := h k
      simp only [Memory.read, if_true] at this
      exact absurd this hm.1.2
    | cons e n =>
      obtain ⟨j, w⟩ := e
      simp only [Memory.wfFrom, Bool.and_eq_true, decide_eq_true_eq] at hn
      have hkj : k = j := by
        have h1 := h k
        have h2 := h j
        simp only [Memory.read, if_true] at h1 h2
        rcases Nat.lt_trichotomy k j with hlt | rfl | hlt
        · rw [if_neg (by omega), if_pos hlt] at h1
          exact absurd h1 hm.1.2
        · rfl
        · rw [if_neg (by omega), if_pos hlt] at h2
          exact absurd h2.symm hn.1.2
      subst hkj
      have hv : v = w := by
        have h1 := h k
        simpa only [Memory.read, if_true] using h1
      subst hv
      rw [ih hm.2 hn.2 ?_]
      intro a
      have ha := h a
      by_cases hka : k = a
      · subst hka
        rw [read_low hm.2 (Nat.lt_succ_self k), read_low hn.2 (Nat.lt_succ_self k)]
      · by_cases hlt : a < k
        · rw [read_low hm.2 (Nat.lt_succ_of_lt hlt), read_low hn.2 (Nat.lt_succ_of_lt hlt)]
        · simpa only [Memory.read, if_neg hka, if_neg hlt] using ha

/-- Canonical memories that read the same are the same. -/
theorem memory_ext {m n : Memory} (hm : m.wf = true) (hn : n.wf = true) (h : ∀ a, m.read a = n.read a) : m = n := memory_ext_from hm hn h

/-- After reset every byte memory is empty, and so canonical. -/
theorem reset_memories : State.reset.host.wf = true ∧ State.reset.teams = [] ∧ State.reset.pkgs = [] ∧ State.reset.mods = [] := ⟨rfl, rfl, rfl, rfl⟩

end Sys2Proof.Laws
end

