-- ==== Sys2Proof/Laws/PerInstr.lean ====
section
/-! SUPPORT. What is proved of every instruction as syntax: decoding the word that encode gives an instruction gives that instruction
back (R64, R74). One lemma for each layout of fields, then one for each constructor. -/
namespace Sys2Proof.Laws

/-- The word of an encoding, as a number. -/
theorem enc_some {f : Nat} {l : List (Nat × Nat)} {w : Word} (h : enc f l = some w)
    (hb : l.foldl (fun s p => s + p.1 * 2 ^ p.2) f < 2 ^ 32) : w.toNat = l.foldl (fun s p => s + p.1 * 2 ^ p.2) f := by
  cases h
  exact (BitVec.toNat_ofNat _ 32).trans (Nat.mod_eq_of_lt hb)

/-- A Boolean field reads back. -/
theorem bool_field (n : Bool) : (n.toNat == 1) = n := by cases n <;> rfl

/-- The codes of Cnd read back. -/
theorem cndOf_code (k : Cnd) : k.code < 16 ∧ cndOf k.code = some k := by cases k <;> decide

/-- The codes of FCnd read back. -/
theorem fcndOf_code (k : FCnd) : k.code < 16 ∧ fcndOf k.code = some k := by cases k <;> decide

/-- The codes of Cmb read back. -/
theorem cmbOf_code (k : Cmb) : k.code < 8 ∧ cmbOf k.code = some k := by cases k <;> decide

/-- The codes of Sz read back. -/
theorem szOf_code (k : Sz) : k.code < 8 ∧ szOf k.code = some k := by cases k <;> decide

/-- The codes of Aop read back. -/
theorem aopOf_code (k : Aop) : k.code < 16 ∧ aopOf k.code = some k := by cases k <;> decide

/-- The codes of Ord read back. -/
theorem ordOf_code (k : Ord) : k.code < 4 ∧ ordOf k.code = some k := by cases k <;> decide

/-- The codes of Fmt read back. -/
theorem fmtOf_code (k : Fmt) : k.code < 16 ∧ fmtOf k.code = some k := by cases k <;> decide

/-- The codes of Rnd read back. -/
theorem rndOf_code (k : Rnd) : k.code < 8 ∧ rndOf k.code = some k := by cases k <;> decide

/-- The codes of Scope read back. -/
theorem scopeOf_code (k : Scope) : k.code < 8 ∧ scopeOf k.code = some k := by cases k <;> decide

/-- The codes of Kind read back. -/
theorem kindOf_code (k : Kind) : k.code < 4 ∧ kindOf k.code = some k := by cases k <;> decide

/-- The codes of Path read back. -/
theorem pathOf_code (k : Path) : k.code < 4 ∧ pathOf k.code = some k := by cases k <;> decide

/-- A rounding code is below 5. -/
theorem rnd_lt {n : Nat} {r : Rnd} (h : rndOf n = some r) : n < 5 := by
  match n, h with
  | 0, _ => decide
  | 1, _ => decide
  | 2, _ => decide
  | 3, _ => decide
  | 4, _ => decide

/-- What it means that an instruction reads back from its word. -/
def RoundTrip.Statement (i : Instr) : Prop := ∀ w, encode i = some w → decodeWord w.toNat = .ok i

theorem layout1 {m : Nat} (hm : m < 128)  {w : Word} (h : enc (m * 2 ^ 24) [] = some w) :
    fld w.toNat 24 7 = m ∧ fld w.toNat 0 24 = 0 := by
  have e := enc_some h (by simp only [List.foldl]; omega)
  simp only [List.foldl] at e
  generalize w.toNat = x at e
  exact ⟨by unfold fld; omega,
    by unfold fld; omega⟩

theorem layout2 {m : Nat} (hm : m < 128)  {w : Word} (h : enc (m * 2 ^ 24 + 253952) [] = some w) :
    fld w.toNat 24 7 = m ∧ fld w.toNat 18 6 = 0 ∧ fld w.toNat 12 6 = 62 ∧ fld w.toNat 0 12 = 0 := by
  have e := enc_some h (by simp only [List.foldl]; omega)
  simp only [List.foldl] at e
  generalize w.toNat = x at e
  exact ⟨by unfold fld; omega,
    by unfold fld; omega,
    by unfold fld; omega,
    by unfold fld; omega⟩

theorem layout3 {m : Nat} (hm : m < 128) (v0 : Bool) (v1 : Reg) (v2 : Reg) (v3 : Reg) (v4 : BitVec 5) {w : Word} (h : enc (m * 2 ^ 24) [(v0.toNat, 23), (v1.toNat, 17), (v2.toNat, 11), (v3.toNat, 5), (v4.toNat, 0)] = some w) :
    fld w.toNat 24 7 = m ∧ flag1 w.toNat 23 = v0 ∧ fieldV w.toNat 17 6 = v1 ∧ fieldV w.toNat 11 6 = v2 ∧ fieldV w.toNat 5 6 = v3 ∧ fieldV w.toNat 0 5 = v4 := by
  have := v0.toNat_le
  have := v1.isLt
  have := v2.isLt
  have := v3.isLt
  have := v4.isLt
  have e := enc_some h (by simp only [List.foldl]; omega)
  simp only [List.foldl] at e
  generalize w.toNat = x at e
  exact ⟨by unfold fld; omega,
    by rw [flag1, show fld x 23 1 = v0.toNat by unfold fld; omega, bool_field],
    by rw [fieldV, show fld x 17 6 = v1.toNat by unfold fld; omega, BitVec.ofNat_toNat, BitVec.setWidth_eq],
    by rw [fieldV, show fld x 11 6 = v2.toNat by unfold fld; omega, BitVec.ofNat_toNat, BitVec.setWidth_eq],
    by rw [fieldV, show fld x 5 6 = v3.toNat by unfold fld; omega, BitVec.ofNat_toNat, BitVec.setWidth_eq],
    by rw [fieldV, show fld x 0 5 = v4.toNat by unfold fld; omega, BitVec.ofNat_toNat, BitVec.setWidth_eq]⟩

theorem layout4 {m : Nat} (hm : m < 128) (v0 : Bool) (v1 : Reg) (v2 : Reg) (v3 : BitVec 5) {w : Word} (h : enc (m * 2 ^ 24) [(v0.toNat, 23), (v1.toNat, 17), (v2.toNat, 11), (v3.toNat, 0)] = some w) :
    fld w.toNat 24 7 = m ∧ flag1 w.toNat 23 = v0 ∧ fieldV w.toNat 17 6 = v1 ∧ fieldV w.toNat 11 6 = v2 ∧ fld w.toNat 5 6 = 0 ∧ fieldV w.toNat 0 5 = v3 := by
  have := v0.toNat_le
  have := v1.isLt
  have := v2.isLt
  have := v3.isLt
  have e := enc_some h (by simp only [List.foldl]; omega)
  simp only [List.foldl] at e
  generalize w.toNat = x at e
  exact ⟨by unfold fld; omega,
    by rw [flag1, show fld x 23 1 = v0.toNat by unfold fld; omega, bool_field],
    by rw [fieldV, show fld x 17 6 = v1.toNat by unfold fld; omega, BitVec.ofNat_toNat, BitVec.setWidth_eq],
    by rw [fieldV, show fld x 11 6 = v2.toNat by unfold fld; omega, BitVec.ofNat_toNat, BitVec.setWidth_eq],
    by unfold fld; omega,
    by rw [fieldV, show fld x 0 5 = v3.toNat by unfold fld; omega, BitVec.ofNat_toNat, BitVec.setWidth_eq]⟩

theorem layout5 {m : Nat} (hm : m < 128) (v0 : Bool) (v1 : Reg) (v2 : Reg) (v3 : BitVec 11) {w : Word} (h : enc (m * 2 ^ 24) [(v0.toNat, 23), (v1.toNat, 17), (v2.toNat, 11), (v3.toNat, 0)] = some w) :
    fld w.toNat 24 7 = m ∧ flag1 w.toNat 23 = v0 ∧ fieldV w.toNat 17 6 = v1 ∧ fieldV w.toNat 11 6 = v2 ∧ fieldV w.toNat 0 11 = v3 := by
  have := v0.toNat_le
  have := v1.isLt
  have := v2.isLt
  have := v3.isLt
  have e := enc_some h (by simp only [List.foldl]; omega)
  simp only [List.foldl] at e
  generalize w.toNat = x at e
  exact ⟨by unfold fld; omega,
    by rw [flag1, show fld x 23 1 = v0.toNat by unfold fld; omega, bool_field],
    by rw [fieldV, show fld x 17 6 = v1.toNat by unfold fld; omega, BitVec.ofNat_toNat, BitVec.setWidth_eq],
    by rw [fieldV, show fld x 11 6 = v2.toNat by unfold fld; omega, BitVec.ofNat_toNat, BitVec.setWidth_eq],
    by rw [fieldV, show fld x 0 11 = v3.toNat by unfold fld; omega, BitVec.ofNat_toNat, BitVec.setWidth_eq]⟩

theorem layout6 {m : Nat} (hm : m < 128) (v0 : Bool) (v1 : Reg) (v2 : BitVec 11) {w : Word} (h : enc (m * 2 ^ 24) [(v0.toNat, 23), (v1.toNat, 17), (v2.toNat, 0)] = some w) :
    fld w.toNat 24 7 = m ∧ flag1 w.toNat 23 = v0 ∧ fieldV w.toNat 17 6 = v1 ∧ fld w.toNat 11 6 = 0 ∧ fieldV w.toNat 0 11 = v2 := by
  have := v0.toNat_le
  have := v1.isLt
  have := v2.isLt
  have e := enc_some h (by simp only [List.foldl]; omega)
  simp only [List.foldl] at e
  generalize w.toNat = x at e
  exact ⟨by unfold fld; omega,
    by rw [flag1, show fld x 23 1 = v0.toNat by unfold fld; omega, bool_field],
    by rw [fieldV, show fld x 17 6 = v1.toNat by unfold fld; omega, BitVec.ofNat_toNat, BitVec.setWidth_eq],
    by unfold fld; omega,
    by rw [fieldV, show fld x 0 11 = v2.toNat by unfold fld; omega, BitVec.ofNat_toNat, BitVec.setWidth_eq]⟩

theorem layout7 {m k : Nat} (hm : m < 128) (hk : k < 32) (v0 : Bool) (v1 : Reg) (v2 : Reg) {w : Word} (h : enc (m * 2 ^ 24 + k) [(v0.toNat, 23), (v1.toNat, 17), (v2.toNat, 11)] = some w) :
    fld w.toNat 24 7 = m ∧ flag1 w.toNat 23 = v0 ∧ fieldV w.toNat 17 6 = v1 ∧ fieldV w.toNat 11 6 = v2 ∧ fld w.toNat 5 6 = 0 ∧ fld w.toNat 0 5 = k := by
  have := v0.toNat_le
  have := v1.isLt
  have := v2.isLt
  have e := enc_some h (by simp only [List.foldl]; omega)
  simp only [List.foldl] at e
  generalize w.toNat = x at e
  exact ⟨by unfold fld; omega,
    by rw [flag1, show fld x 23 1 = v0.toNat by unfold fld; omega, bool_field],
    by rw [fieldV, show fld x 17 6 = v1.toNat by unfold fld; omega, BitVec.ofNat_toNat, BitVec.setWidth_eq],
    by rw [fieldV, show fld x 11 6 = v2.toNat by unfold fld; omega, BitVec.ofNat_toNat, BitVec.setWidth_eq],
    by unfold fld; omega,
    by unfold fld; omega⟩

theorem layout8 {m k : Nat} (hm : m < 128) (hk : k < 32) (v0 : Bool) (v1 : Reg) (v2 : Reg) (v3 : Reg) {w : Word} (h : enc (m * 2 ^ 24 + k) [(v0.toNat, 23), (v1.toNat, 17), (v2.toNat, 11), (v3.toNat, 5)] = some w) :
    fld w.toNat 24 7 = m ∧ flag1 w.toNat 23 = v0 ∧ fieldV w.toNat 17 6 = v1 ∧ fieldV w.toNat 11 6 = v2 ∧ fieldV w.toNat 5 6 = v3 ∧ fld w.toNat 0 5 = k := by
  have := v0.toNat_le
  have := v1.isLt
  have := v2.isLt
  have := v3.isLt
  have e := enc_some h (by simp only [List.foldl]; omega)
  simp only [List.foldl] at e
  generalize w.toNat = x at e
  exact ⟨by unfold fld; omega,
    by rw [flag1, show fld x 23 1 = v0.toNat by unfold fld; omega, bool_field],
    by rw [fieldV, show fld x 17 6 = v1.toNat by unfold fld; omega, BitVec.ofNat_toNat, BitVec.setWidth_eq],
    by rw [fieldV, show fld x 11 6 = v2.toNat by unfold fld; omega, BitVec.ofNat_toNat, BitVec.setWidth_eq],
    by rw [fieldV, show fld x 5 6 = v3.toNat by unfold fld; omega, BitVec.ofNat_toNat, BitVec.setWidth_eq],
    by unfold fld; omega⟩

theorem layout9 {m : Nat} (hm : m < 128) (v0 : BitVec 5) (v1 : Cnd) (v2 : Cmb) (v3 : Reg) (v4 : Reg) {w : Word} (h : enc (m * 2 ^ 24) [(v0.toNat, 19), (v1.code, 15), (v2.code, 12), (v3.toNat, 6), (v4.toNat, 0)] = some w) :
    fld w.toNat 24 7 = m ∧ fieldV w.toNat 19 5 = v0 ∧ cndOf (fld w.toNat 15 4) = some v1 ∧ cmbOf (fld w.toNat 12 3) = some v2 ∧ fieldV w.toNat 6 6 = v3 ∧ fieldV w.toNat 0 6 = v4 := by
  have := v0.isLt
  obtain ⟨_, ev1⟩ := cndOf_code v1
  obtain ⟨_, ev2⟩ := cmbOf_code v2
  have := v3.isLt
  have := v4.isLt
  have e := enc_some h (by simp only [List.foldl]; omega)
  simp only [List.foldl] at e
  generalize w.toNat = x at e
  exact ⟨by unfold fld; omega,
    by rw [fieldV, show fld x 19 5 = v0.toNat by unfold fld; omega, BitVec.ofNat_toNat, BitVec.setWidth_eq],
    by rw [show fld x 15 4 = v1.code by unfold fld; omega, ev1],
    by rw [show fld x 12 3 = v2.code by unfold fld; omega, ev2],
    by rw [fieldV, show fld x 6 6 = v3.toNat by unfold fld; omega, BitVec.ofNat_toNat, BitVec.setWidth_eq],
    by rw [fieldV, show fld x 0 6 = v4.toNat by unfold fld; omega, BitVec.ofNat_toNat, BitVec.setWidth_eq]⟩

theorem layout10 {m k : Nat} (hm : m < 128) (hk : k < 32) (v0 : Reg) (v1 : Reg) (v2 : Reg) {w : Word} (h : enc (m * 2 ^ 24 + k) [(v0.toNat, 17), (v1.toNat, 11), (v2.toNat, 5)] = some w) :
    fld w.toNat 24 7 = m ∧ fld w.toNat 23 1 = 0 ∧ fieldV w.toNat 17 6 = v0 ∧ fieldV w.toNat 11 6 = v1 ∧ fieldV w.toNat 5 6 = v2 ∧ fld w.toNat 0 5 = k := by
  have := v0.isLt
  have := v1.isLt
  have := v2.isLt
  have e := enc_some h (by simp only [List.foldl]; omega)
  simp only [List.foldl] at e
  generalize w.toNat = x at e
  exact ⟨by unfold fld; omega,
    by unfold fld; omega,
    by rw [fieldV, show fld x 17 6 = v0.toNat by unfold fld; omega, BitVec.ofNat_toNat, BitVec.setWidth_eq],
    by rw [fieldV, show fld x 11 6 = v1.toNat by unfold fld; omega, BitVec.ofNat_toNat, BitVec.setWidth_eq],
    by rw [fieldV, show fld x 5 6 = v2.toNat by unfold fld; omega, BitVec.ofNat_toNat, BitVec.setWidth_eq],
    by unfold fld; omega⟩

theorem layout11 {m k : Nat} (hm : m < 128) (hk : k < 32) (v0 : Reg) (v1 : Reg) {w : Word} (h : enc (m * 2 ^ 24 + k) [(v0.toNat, 17), (v1.toNat, 11)] = some w) :
    fld w.toNat 24 7 = m ∧ fld w.toNat 23 1 = 0 ∧ fieldV w.toNat 17 6 = v0 ∧ fieldV w.toNat 11 6 = v1 ∧ fld w.toNat 5 6 = 0 ∧ fld w.toNat 0 5 = k := by
  have := v0.isLt
  have := v1.isLt
  have e := enc_some h (by simp only [List.foldl]; omega)
  simp only [List.foldl] at e
  generalize w.toNat = x at e
  exact ⟨by unfold fld; omega,
    by unfold fld; omega,
    by rw [fieldV, show fld x 17 6 = v0.toNat by unfold fld; omega, BitVec.ofNat_toNat, BitVec.setWidth_eq],
    by rw [fieldV, show fld x 11 6 = v1.toNat by unfold fld; omega, BitVec.ofNat_toNat, BitVec.setWidth_eq],
    by unfold fld; omega,
    by unfold fld; omega⟩

theorem layout12 {m k : Nat} (hm : m < 128) (hk : k < 32) (v0 : Bool) (v1 : Reg) {w : Word} (h : enc (m * 2 ^ 24 + k) [(v0.toNat, 23), (v1.toNat, 17)] = some w) :
    fld w.toNat 24 7 = m ∧ flag1 w.toNat 23 = v0 ∧ fieldV w.toNat 17 6 = v1 ∧ fld w.toNat 5 12 = 0 ∧ fld w.toNat 0 5 = k := by
  have := v0.toNat_le
  have := v1.isLt
  have e := enc_some h (by simp only [List.foldl]; omega)
  simp only [List.foldl] at e
  generalize w.toNat = x at e
  exact ⟨by unfold fld; omega,
    by rw [flag1, show fld x 23 1 = v0.toNat by unfold fld; omega, bool_field],
    by rw [fieldV, show fld x 17 6 = v1.toNat by unfold fld; omega, BitVec.ofNat_toNat, BitVec.setWidth_eq],
    by unfold fld; omega,
    by unfold fld; omega⟩

theorem layout13 {m k : Nat} (hm : m < 128) (hk : k < 32) (v0 : Reg) {w : Word} (h : enc (m * 2 ^ 24 + k) [(v0.toNat, 11)] = some w) :
    fld w.toNat 24 7 = m ∧ fld w.toNat 17 7 = 0 ∧ fieldV w.toNat 11 6 = v0 ∧ fld w.toNat 5 6 = 0 ∧ fld w.toNat 0 5 = k := by
  have := v0.isLt
  have e := enc_some h (by simp only [List.foldl]; omega)
  simp only [List.foldl] at e
  generalize w.toNat = x at e
  exact ⟨by unfold fld; omega,
    by unfold fld; omega,
    by rw [fieldV, show fld x 11 6 = v0.toNat by unfold fld; omega, BitVec.ofNat_toNat, BitVec.setWidth_eq],
    by unfold fld; omega,
    by unfold fld; omega⟩

theorem layout14 {m : Nat} (hm : m < 128) (v0 : BitVec 5) (v1 : FCnd) (v2 : Cmb) (v3 : Reg) (v4 : Reg) {w : Word} (h : enc (m * 2 ^ 24) [(v0.toNat, 19), (v1.code, 15), (v2.code, 12), (v3.toNat, 6), (v4.toNat, 0)] = some w) :
    fld w.toNat 24 7 = m ∧ fieldV w.toNat 19 5 = v0 ∧ fcndOf (fld w.toNat 15 4) = some v1 ∧ cmbOf (fld w.toNat 12 3) = some v2 ∧ fieldV w.toNat 6 6 = v3 ∧ fieldV w.toNat 0 6 = v4 := by
  have := v0.isLt
  obtain ⟨_, ev1⟩ := fcndOf_code v1
  obtain ⟨_, ev2⟩ := cmbOf_code v2
  have := v3.isLt
  have := v4.isLt
  have e := enc_some h (by simp only [List.foldl]; omega)
  simp only [List.foldl] at e
  generalize w.toNat = x at e
  exact ⟨by unfold fld; omega,
    by rw [fieldV, show fld x 19 5 = v0.toNat by unfold fld; omega, BitVec.ofNat_toNat, BitVec.setWidth_eq],
    by rw [show fld x 15 4 = v1.code by unfold fld; omega, ev1],
    by rw [show fld x 12 3 = v2.code by unfold fld; omega, ev2],
    by rw [fieldV, show fld x 6 6 = v3.toNat by unfold fld; omega, BitVec.ofNat_toNat, BitVec.setWidth_eq],
    by rw [fieldV, show fld x 0 6 = v4.toNat by unfold fld; omega, BitVec.ofNat_toNat, BitVec.setWidth_eq]⟩

theorem layout15 {m : Nat} (hm : m < 128) (v0 : Bool) (v1 : Reg) (v2 : Reg) (v3 : Fmt) (v4 : Fmt) (v5 : Rnd) {w : Word} (h : enc (m * 2 ^ 24) [(v0.toNat, 23), (v1.toNat, 17), (v2.toNat, 11), (v3.code, 7), (v4.code, 3), (v5.code, 0)] = some w) :
    fld w.toNat 24 7 = m ∧ flag1 w.toNat 23 = v0 ∧ fieldV w.toNat 17 6 = v1 ∧ fieldV w.toNat 11 6 = v2 ∧ fmtOf (fld w.toNat 7 4) = some v3 ∧ fmtOf (fld w.toNat 3 4) = some v4 ∧ rndOf (fld w.toNat 0 3) = some v5 := by
  have := v0.toNat_le
  have := v1.isLt
  have := v2.isLt
  obtain ⟨_, ev3⟩ := fmtOf_code v3
  obtain ⟨_, ev4⟩ := fmtOf_code v4
  obtain ⟨_, ev5⟩ := rndOf_code v5
  have e := enc_some h (by simp only [List.foldl]; omega)
  simp only [List.foldl] at e
  generalize w.toNat = x at e
  exact ⟨by unfold fld; omega,
    by rw [flag1, show fld x 23 1 = v0.toNat by unfold fld; omega, bool_field],
    by rw [fieldV, show fld x 17 6 = v1.toNat by unfold fld; omega, BitVec.ofNat_toNat, BitVec.setWidth_eq],
    by rw [fieldV, show fld x 11 6 = v2.toNat by unfold fld; omega, BitVec.ofNat_toNat, BitVec.setWidth_eq],
    by rw [show fld x 7 4 = v3.code by unfold fld; omega, ev3],
    by rw [show fld x 3 4 = v4.code by unfold fld; omega, ev4],
    by rw [show fld x 0 3 = v5.code by unfold fld; omega, ev5]⟩

theorem layout16 {m : Nat} (hm : m < 128) (v0 : Bool) (v1 : Reg) (v2 : Reg) (v3 : Reg) (v4 : Rnd) (v5 : Bool) {w : Word} (h : enc (m * 2 ^ 24) [(v0.toNat, 23), (v1.toNat, 17), (v2.toNat, 11), (v3.toNat, 5), (v4.code, 2), (v5.toNat, 1)] = some w) :
    fld w.toNat 24 7 = m ∧ flag1 w.toNat 23 = v0 ∧ fieldV w.toNat 17 6 = v1 ∧ fieldV w.toNat 11 6 = v2 ∧ fieldV w.toNat 5 6 = v3 ∧ rndOf (fld w.toNat 2 3) = some v4 ∧ flag1 w.toNat 1 = v5 ∧ fld w.toNat 0 1 = 0 := by
  have := v0.toNat_le
  have := v1.isLt
  have := v2.isLt
  have := v3.isLt
  obtain ⟨_, ev4⟩ := rndOf_code v4
  have := v5.toNat_le
  have e := enc_some h (by simp only [List.foldl]; omega)
  simp only [List.foldl] at e
  generalize w.toNat = x at e
  exact ⟨by unfold fld; omega,
    by rw [flag1, show fld x 23 1 = v0.toNat by unfold fld; omega, bool_field],
    by rw [fieldV, show fld x 17 6 = v1.toNat by unfold fld; omega, BitVec.ofNat_toNat, BitVec.setWidth_eq],
    by rw [fieldV, show fld x 11 6 = v2.toNat by unfold fld; omega, BitVec.ofNat_toNat, BitVec.setWidth_eq],
    by rw [fieldV, show fld x 5 6 = v3.toNat by unfold fld; omega, BitVec.ofNat_toNat, BitVec.setWidth_eq],
    by rw [show fld x 2 3 = v4.code by unfold fld; omega, ev4],
    by rw [flag1, show fld x 1 1 = v5.toNat by unfold fld; omega, bool_field],
    by unfold fld; omega⟩

theorem layout17 {m : Nat} (hm : m < 128) (v0 : Bool) (v1 : Reg) (v2 : Reg) (v3 : Reg) (v4 : Rnd) (v5 : Bool) {w : Word} (h : enc (m * 2 ^ 24 + 1) [(v0.toNat, 23), (v1.toNat, 17), (v2.toNat, 11), (v3.toNat, 5), (v4.code, 2), (v5.toNat, 1)] = some w) :
    fld w.toNat 24 7 = m ∧ flag1 w.toNat 23 = v0 ∧ fieldV w.toNat 17 6 = v1 ∧ fieldV w.toNat 11 6 = v2 ∧ fieldV w.toNat 5 6 = v3 ∧ rndOf (fld w.toNat 2 3) = some v4 ∧ flag1 w.toNat 1 = v5 ∧ fld w.toNat 0 1 = 1 := by
  have := v0.toNat_le
  have := v1.isLt
  have := v2.isLt
  have := v3.isLt
  obtain ⟨_, ev4⟩ := rndOf_code v4
  have := v5.toNat_le
  have e := enc_some h (by simp only [List.foldl]; omega)
  simp only [List.foldl] at e
  generalize w.toNat = x at e
  exact ⟨by unfold fld; omega,
    by rw [flag1, show fld x 23 1 = v0.toNat by unfold fld; omega, bool_field],
    by rw [fieldV, show fld x 17 6 = v1.toNat by unfold fld; omega, BitVec.ofNat_toNat, BitVec.setWidth_eq],
    by rw [fieldV, show fld x 11 6 = v2.toNat by unfold fld; omega, BitVec.ofNat_toNat, BitVec.setWidth_eq],
    by rw [fieldV, show fld x 5 6 = v3.toNat by unfold fld; omega, BitVec.ofNat_toNat, BitVec.setWidth_eq],
    by rw [show fld x 2 3 = v4.code by unfold fld; omega, ev4],
    by rw [flag1, show fld x 1 1 = v5.toNat by unfold fld; omega, bool_field],
    by unfold fld; omega⟩

theorem layout18 {m : Nat} (hm : m < 128) (v0 : Bool) (v1 : Reg) (v2 : Reg) (v3 : Rnd) (v4 : Bool) {w : Word} (h : enc (m * 2 ^ 24) [(v0.toNat, 23), (v1.toNat, 17), (v2.toNat, 11), (v3.code, 2), (v4.toNat, 0)] = some w) :
    fld w.toNat 24 7 = m ∧ flag1 w.toNat 23 = v0 ∧ fieldV w.toNat 17 6 = v1 ∧ fieldV w.toNat 11 6 = v2 ∧ fld w.toNat 5 6 = 0 ∧ rndOf (fld w.toNat 2 3) = some v3 ∧ fld w.toNat 1 1 = 0 ∧ flag1 w.toNat 0 = v4 := by
  have := v0.toNat_le
  have := v1.isLt
  have := v2.isLt
  obtain ⟨_, ev3⟩ := rndOf_code v3
  have := v4.toNat_le
  have e := enc_some h (by simp only [List.foldl]; omega)
  simp only [List.foldl] at e
  generalize w.toNat = x at e
  exact ⟨by unfold fld; omega,
    by rw [flag1, show fld x 23 1 = v0.toNat by unfold fld; omega, bool_field],
    by rw [fieldV, show fld x 17 6 = v1.toNat by unfold fld; omega, BitVec.ofNat_toNat, BitVec.setWidth_eq],
    by rw [fieldV, show fld x 11 6 = v2.toNat by unfold fld; omega, BitVec.ofNat_toNat, BitVec.setWidth_eq],
    by unfold fld; omega,
    by rw [show fld x 2 3 = v3.code by unfold fld; omega, ev3],
    by unfold fld; omega,
    by rw [flag1, show fld x 0 1 = v4.toNat by unfold fld; omega, bool_field]⟩

theorem layout19 {m : Nat} (hm : m < 128) (v0 : Bool) (v1 : Reg) (v2 : Reg) (v3 : Sz) (v4 : BitVec 8) {w : Word} (h : enc (m * 2 ^ 24) [(v0.toNat, 23), (v1.toNat, 17), (v2.toNat, 11), (v3.code, 8), (v4.toNat, 0)] = some w) :
    fld w.toNat 24 7 = m ∧ flag1 w.toNat 23 = v0 ∧ fieldV w.toNat 17 6 = v1 ∧ fieldV w.toNat 11 6 = v2 ∧ szOf (fld w.toNat 8 3) = some v3 ∧ fieldV w.toNat 0 8 = v4 := by
  have := v0.toNat_le
  have := v1.isLt
  have := v2.isLt
  obtain ⟨_, ev3⟩ := szOf_code v3
  have := v4.isLt
  have e := enc_some h (by simp only [List.foldl]; omega)
  simp only [List.foldl] at e
  generalize w.toNat = x at e
  exact ⟨by unfold fld; omega,
    by rw [flag1, show fld x 23 1 = v0.toNat by unfold fld; omega, bool_field],
    by rw [fieldV, show fld x 17 6 = v1.toNat by unfold fld; omega, BitVec.ofNat_toNat, BitVec.setWidth_eq],
    by rw [fieldV, show fld x 11 6 = v2.toNat by unfold fld; omega, BitVec.ofNat_toNat, BitVec.setWidth_eq],
    by rw [show fld x 8 3 = v3.code by unfold fld; omega, ev3],
    by rw [fieldV, show fld x 0 8 = v4.toNat by unfold fld; omega, BitVec.ofNat_toNat, BitVec.setWidth_eq]⟩

theorem layout20 {m : Nat} (hm : m < 128) (v0 : Reg) (v1 : Reg) (v2 : Sz) (v3 : BitVec 8) {w : Word} (h : enc (m * 2 ^ 24) [(v0.toNat, 17), (v1.toNat, 11), (v2.code, 8), (v3.toNat, 0)] = some w) :
    fld w.toNat 24 7 = m ∧ fld w.toNat 23 1 = 0 ∧ fieldV w.toNat 17 6 = v0 ∧ fieldV w.toNat 11 6 = v1 ∧ szOf (fld w.toNat 8 3) = some v2 ∧ fieldV w.toNat 0 8 = v3 := by
  have := v0.isLt
  have := v1.isLt
  obtain ⟨_, ev2⟩ := szOf_code v2
  have := v3.isLt
  have e := enc_some h (by simp only [List.foldl]; omega)
  simp only [List.foldl] at e
  generalize w.toNat = x at e
  exact ⟨by unfold fld; omega,
    by unfold fld; omega,
    by rw [fieldV, show fld x 17 6 = v0.toNat by unfold fld; omega, BitVec.ofNat_toNat, BitVec.setWidth_eq],
    by rw [fieldV, show fld x 11 6 = v1.toNat by unfold fld; omega, BitVec.ofNat_toNat, BitVec.setWidth_eq],
    by rw [show fld x 8 3 = v2.code by unfold fld; omega, ev2],
    by rw [fieldV, show fld x 0 8 = v3.toNat by unfold fld; omega, BitVec.ofNat_toNat, BitVec.setWidth_eq]⟩

theorem layout21 {m : Nat} (hm : m < 128) (v0 : Aop) (v1 : Reg) (v2 : Reg) (v3 : Reg) (v4 : Ord) {w : Word} (h : enc (m * 2 ^ 24) [(v0.code, 20), (v1.toNat, 14), (v2.toNat, 8), (v3.toNat, 2), (v4.code, 0)] = some w) :
    fld w.toNat 24 7 = m ∧ aopOf (fld w.toNat 20 4) = some v0 ∧ fieldV w.toNat 14 6 = v1 ∧ fieldV w.toNat 8 6 = v2 ∧ fieldV w.toNat 2 6 = v3 ∧ ordOf (fld w.toNat 0 2) = some v4 := by
  obtain ⟨_, ev0⟩ := aopOf_code v0
  have := v1.isLt
  have := v2.isLt
  have := v3.isLt
  obtain ⟨_, ev4⟩ := ordOf_code v4
  have e := enc_some h (by simp only [List.foldl]; omega)
  simp only [List.foldl] at e
  generalize w.toNat = x at e
  exact ⟨by unfold fld; omega,
    by rw [show fld x 20 4 = v0.code by unfold fld; omega, ev0],
    by rw [fieldV, show fld x 14 6 = v1.toNat by unfold fld; omega, BitVec.ofNat_toNat, BitVec.setWidth_eq],
    by rw [fieldV, show fld x 8 6 = v2.toNat by unfold fld; omega, BitVec.ofNat_toNat, BitVec.setWidth_eq],
    by rw [fieldV, show fld x 2 6 = v3.toNat by unfold fld; omega, BitVec.ofNat_toNat, BitVec.setWidth_eq],
    by rw [show fld x 0 2 = v4.code by unfold fld; omega, ev4]⟩

theorem layout22 {m : Nat} (hm : m < 128) (v0 : BitVec 10) (v1 : BitVec 4) (v2 : BitVec 4) (v3 : Bool) {w : Word} (h : enc (m * 2 ^ 24) [(v0.toNat, 14), (v1.toNat, 10), (v2.toNat, 6), (v3.toNat, 0)] = some w) :
    fld w.toNat 24 7 = m ∧ fieldV w.toNat 14 10 = v0 ∧ fieldV w.toNat 10 4 = v1 ∧ fieldV w.toNat 6 4 = v2 ∧ fld w.toNat 1 5 = 0 ∧ flag1 w.toNat 0 = v3 := by
  have := v0.isLt
  have := v1.isLt
  have := v2.isLt
  have := v3.toNat_le
  have e := enc_some h (by simp only [List.foldl]; omega)
  simp only [List.foldl] at e
  generalize w.toNat = x at e
  exact ⟨by unfold fld; omega,
    by rw [fieldV, show fld x 14 10 = v0.toNat by unfold fld; omega, BitVec.ofNat_toNat, BitVec.setWidth_eq],
    by rw [fieldV, show fld x 10 4 = v1.toNat by unfold fld; omega, BitVec.ofNat_toNat, BitVec.setWidth_eq],
    by rw [fieldV, show fld x 6 4 = v2.toNat by unfold fld; omega, BitVec.ofNat_toNat, BitVec.setWidth_eq],
    by unfold fld; omega,
    by rw [flag1, show fld x 0 1 = v3.toNat by unfold fld; omega, bool_field]⟩

theorem layout23 {m : Nat} (hm : m < 128) (v0 : BitVec 10) (v1 : BitVec 4) (v2 : BitVec 4) (v3 : BitVec 5) (v4 : Bool) {w : Word} (h : enc (m * 2 ^ 24) [(v0.toNat, 14), (v1.toNat, 10), (v2.toNat, 6), (v3.toNat, 1), (v4.toNat, 0)] = some w) :
    fld w.toNat 24 7 = m ∧ fieldV w.toNat 14 10 = v0 ∧ fieldV w.toNat 10 4 = v1 ∧ fieldV w.toNat 6 4 = v2 ∧ fieldV w.toNat 1 5 = v3 ∧ flag1 w.toNat 0 = v4 := by
  have := v0.isLt
  have := v1.isLt
  have := v2.isLt
  have := v3.isLt
  have := v4.toNat_le
  have e := enc_some h (by simp only [List.foldl]; omega)
  simp only [List.foldl] at e
  generalize w.toNat = x at e
  exact ⟨by unfold fld; omega,
    by rw [fieldV, show fld x 14 10 = v0.toNat by unfold fld; omega, BitVec.ofNat_toNat, BitVec.setWidth_eq],
    by rw [fieldV, show fld x 10 4 = v1.toNat by unfold fld; omega, BitVec.ofNat_toNat, BitVec.setWidth_eq],
    by rw [fieldV, show fld x 6 4 = v2.toNat by unfold fld; omega, BitVec.ofNat_toNat, BitVec.setWidth_eq],
    by rw [fieldV, show fld x 1 5 = v3.toNat by unfold fld; omega, BitVec.ofNat_toNat, BitVec.setWidth_eq],
    by rw [flag1, show fld x 0 1 = v4.toNat by unfold fld; omega, bool_field]⟩

theorem layout24 {m : Nat} (hm : m < 128) (v0 : BitVec 4) (v1 : Reg) (v2 : Reg) (v3 : Bool) {w : Word} (h : enc (m * 2 ^ 24) [(v0.toNat, 20), (v1.toNat, 14), (v2.toNat, 8), (v3.toNat, 0)] = some w) :
    fld w.toNat 24 7 = m ∧ fieldV w.toNat 20 4 = v0 ∧ fieldV w.toNat 14 6 = v1 ∧ fieldV w.toNat 8 6 = v2 ∧ fld w.toNat 1 7 = 0 ∧ flag1 w.toNat 0 = v3 := by
  have := v0.isLt
  have := v1.isLt
  have := v2.isLt
  have := v3.toNat_le
  have e := enc_some h (by simp only [List.foldl]; omega)
  simp only [List.foldl] at e
  generalize w.toNat = x at e
  exact ⟨by unfold fld; omega,
    by rw [fieldV, show fld x 20 4 = v0.toNat by unfold fld; omega, BitVec.ofNat_toNat, BitVec.setWidth_eq],
    by rw [fieldV, show fld x 14 6 = v1.toNat by unfold fld; omega, BitVec.ofNat_toNat, BitVec.setWidth_eq],
    by rw [fieldV, show fld x 8 6 = v2.toNat by unfold fld; omega, BitVec.ofNat_toNat, BitVec.setWidth_eq],
    by unfold fld; omega,
    by rw [flag1, show fld x 0 1 = v3.toNat by unfold fld; omega, bool_field]⟩

theorem layout25 {m : Nat} (hm : m < 128) (v0 : Scope) (v1 : Kind) {w : Word} (h : enc (m * 2 ^ 24) [(v0.code, 2), (v1.code, 0)] = some w) :
    fld w.toNat 24 7 = m ∧ fld w.toNat 5 19 = 0 ∧ scopeOf (fld w.toNat 2 3) = some v0 ∧ kindOf (fld w.toNat 0 2) = some v1 := by
  obtain ⟨_, ev0⟩ := scopeOf_code v0
  obtain ⟨_, ev1⟩ := kindOf_code v1
  have e := enc_some h (by simp only [List.foldl]; omega)
  simp only [List.foldl] at e
  generalize w.toNat = x at e
  exact ⟨by unfold fld; omega,
    by unfold fld; omega,
    by rw [show fld x 2 3 = v0.code by unfold fld; omega, ev0],
    by rw [show fld x 0 2 = v1.code by unfold fld; omega, ev1]⟩

theorem layout26 {m : Nat} (hm : m < 128) (v0 : Bool) (v1 : BitVec 6) {w : Word} (h : enc (m * 2 ^ 24) [(v0.toNat, 6), (v1.toNat, 0)] = some w) :
    fld w.toNat 24 7 = m ∧ fld w.toNat 7 17 = 0 ∧ flag1 w.toNat 6 = v0 ∧ fieldV w.toNat 0 6 = v1 := by
  have := v0.toNat_le
  have := v1.isLt
  have e := enc_some h (by simp only [List.foldl]; omega)
  simp only [List.foldl] at e
  generalize w.toNat = x at e
  exact ⟨by unfold fld; omega,
    by unfold fld; omega,
    by rw [flag1, show fld x 6 1 = v0.toNat by unfold fld; omega, bool_field],
    by rw [fieldV, show fld x 0 6 = v1.toNat by unfold fld; omega, BitVec.ofNat_toNat, BitVec.setWidth_eq]⟩

theorem layout27 {m : Nat} (hm : m < 128) (v0 : Path) {w : Word} (h : enc (m * 2 ^ 24) [(v0.code, 0)] = some w) :
    fld w.toNat 24 7 = m ∧ fld w.toNat 2 22 = 0 ∧ pathOf (fld w.toNat 0 2) = some v0 := by
  obtain ⟨_, ev0⟩ := pathOf_code v0
  have e := enc_some h (by simp only [List.foldl]; omega)
  simp only [List.foldl] at e
  generalize w.toNat = x at e
  exact ⟨by unfold fld; omega,
    by unfold fld; omega,
    by rw [show fld x 0 2 = v0.code by unfold fld; omega, ev0]⟩

theorem layout28 {m : Nat} (hm : m < 128) (v0 : BitVec 10) (v1 : BitVec 4) {w : Word} (h : enc (m * 2 ^ 24) [(v0.toNat, 14), (v1.toNat, 10)] = some w) :
    fld w.toNat 24 7 = m ∧ fieldV w.toNat 14 10 = v0 ∧ fieldV w.toNat 10 4 = v1 ∧ fld w.toNat 5 5 = 0 ∧ fld w.toNat 2 3 = 0 ∧ fld w.toNat 0 5 = 0 := by
  have := v0.isLt
  have := v1.isLt
  have e := enc_some h (by simp only [List.foldl]; omega)
  simp only [List.foldl] at e
  generalize w.toNat = x at e
  exact ⟨by unfold fld; omega,
    by rw [fieldV, show fld x 14 10 = v0.toNat by unfold fld; omega, BitVec.ofNat_toNat, BitVec.setWidth_eq],
    by rw [fieldV, show fld x 10 4 = v1.toNat by unfold fld; omega, BitVec.ofNat_toNat, BitVec.setWidth_eq],
    by unfold fld; omega,
    by unfold fld; omega,
    by unfold fld; omega⟩

theorem layout29 {m : Nat} (hm : m < 128) (v0 : BitVec 10) (v1 : BitVec 4) {w : Word} (h : enc (m * 2 ^ 24 + 64) [(v0.toNat, 14), (v1.toNat, 10)] = some w) :
    fld w.toNat 24 7 = m ∧ fieldV w.toNat 14 10 = v0 ∧ fieldV w.toNat 10 4 = v1 ∧ fld w.toNat 5 5 = 2 ∧ fld w.toNat 2 3 = 0 ∧ fld w.toNat 0 5 = 0 := by
  have := v0.isLt
  have := v1.isLt
  have e := enc_some h (by simp only [List.foldl]; omega)
  simp only [List.foldl] at e
  generalize w.toNat = x at e
  exact ⟨by unfold fld; omega,
    by rw [fieldV, show fld x 14 10 = v0.toNat by unfold fld; omega, BitVec.ofNat_toNat, BitVec.setWidth_eq],
    by rw [fieldV, show fld x 10 4 = v1.toNat by unfold fld; omega, BitVec.ofNat_toNat, BitVec.setWidth_eq],
    by unfold fld; omega,
    by unfold fld; omega,
    by unfold fld; omega⟩

theorem layout30 {m : Nat} (hm : m < 128) (v0 : BitVec 10) (v1 : BitVec 4) {w : Word} (h : enc (m * 2 ^ 24 + 96) [(v0.toNat, 14), (v1.toNat, 10)] = some w) :
    fld w.toNat 24 7 = m ∧ fieldV w.toNat 14 10 = v0 ∧ fieldV w.toNat 10 4 = v1 ∧ fld w.toNat 5 5 = 3 ∧ fld w.toNat 2 3 = 0 ∧ fld w.toNat 0 5 = 0 := by
  have := v0.isLt
  have := v1.isLt
  have e := enc_some h (by simp only [List.foldl]; omega)
  simp only [List.foldl] at e
  generalize w.toNat = x at e
  exact ⟨by unfold fld; omega,
    by rw [fieldV, show fld x 14 10 = v0.toNat by unfold fld; omega, BitVec.ofNat_toNat, BitVec.setWidth_eq],
    by rw [fieldV, show fld x 10 4 = v1.toNat by unfold fld; omega, BitVec.ofNat_toNat, BitVec.setWidth_eq],
    by unfold fld; omega,
    by unfold fld; omega,
    by unfold fld; omega⟩

theorem layout31 {m : Nat} (hm : m < 128) (v0 : BitVec 10) (v1 : BitVec 4) (v2 : Rnd) (v3 : Bool) {w : Word} (h : enc (m * 2 ^ 24 + 32) [(v0.toNat, 14), (v1.toNat, 10), (v2.code, 2), (v3.toNat, 1)] = some w) :
    fld w.toNat 24 7 = m ∧ fieldV w.toNat 14 10 = v0 ∧ fieldV w.toNat 10 4 = v1 ∧ fld w.toNat 5 5 = 1 ∧ rndOf (fld w.toNat 2 3) = some v2 ∧ flag1 w.toNat 1 = v3 ∧ fld w.toNat 0 1 = 0 := by
  have := v0.isLt
  have := v1.isLt
  obtain ⟨_, ev2⟩ := rndOf_code v2
  have := v3.toNat_le
  have e := enc_some h (by simp only [List.foldl]; omega)
  simp only [List.foldl] at e
  generalize w.toNat = x at e
  exact ⟨by unfold fld; omega,
    by rw [fieldV, show fld x 14 10 = v0.toNat by unfold fld; omega, BitVec.ofNat_toNat, BitVec.setWidth_eq],
    by rw [fieldV, show fld x 10 4 = v1.toNat by unfold fld; omega, BitVec.ofNat_toNat, BitVec.setWidth_eq],
    by unfold fld; omega,
    by rw [show fld x 2 3 = v2.code by unfold fld; omega, ev2],
    by rw [flag1, show fld x 1 1 = v3.toNat by unfold fld; omega, bool_field],
    by unfold fld; omega⟩

theorem layout32 {m : Nat} (hm : m < 128) (v0 : BitVec 4) {w : Word} (h : enc (m * 2 ^ 24 + 128) [(v0.toNat, 10)] = some w) :
    fld w.toNat 24 7 = m ∧ fld w.toNat 14 10 = 0 ∧ fieldV w.toNat 10 4 = v0 ∧ fld w.toNat 5 5 = 4 ∧ fld w.toNat 2 3 = 0 ∧ fld w.toNat 0 5 = 0 := by
  have := v0.isLt
  have e := enc_some h (by simp only [List.foldl]; omega)
  simp only [List.foldl] at e
  generalize w.toNat = x at e
  exact ⟨by unfold fld; omega,
    by unfold fld; omega,
    by rw [fieldV, show fld x 10 4 = v0.toNat by unfold fld; omega, BitVec.ofNat_toNat, BitVec.setWidth_eq],
    by unfold fld; omega,
    by unfold fld; omega,
    by unfold fld; omega⟩

theorem layout33 {m : Nat} (hm : m < 128) (v0 : BitVec 5) (v1 : BitVec 18) {w : Word} (h : enc (m * 2 ^ 24) [(v0.toNat, 19), (v1.toNat, 0)] = some w) :
    fld w.toNat 24 7 = m ∧ fieldV w.toNat 19 5 = v0 ∧ fld w.toNat 18 1 = 0 ∧ fieldV w.toNat 0 18 = v1 := by
  have := v0.isLt
  have := v1.isLt
  have e := enc_some h (by simp only [List.foldl]; omega)
  simp only [List.foldl] at e
  generalize w.toNat = x at e
  exact ⟨by unfold fld; omega,
    by rw [fieldV, show fld x 19 5 = v0.toNat by unfold fld; omega, BitVec.ofNat_toNat, BitVec.setWidth_eq],
    by unfold fld; omega,
    by rw [fieldV, show fld x 0 18 = v1.toNat by unfold fld; omega, BitVec.ofNat_toNat, BitVec.setWidth_eq]⟩

theorem layout34 {m : Nat} (hm : m < 128) (v0 : Reg) (v1 : BitVec 5) {w : Word} (h : enc (m * 2 ^ 24) [(v0.toNat, 12), (v1.toNat, 0)] = some w) :
    fld w.toNat 24 7 = m ∧ fld w.toNat 18 6 = 0 ∧ fieldV w.toNat 12 6 = v0 ∧ fld w.toNat 5 7 = 0 ∧ fieldV w.toNat 0 5 = v1 := by
  have := v0.isLt
  have := v1.isLt
  have e := enc_some h (by simp only [List.foldl]; omega)
  simp only [List.foldl] at e
  generalize w.toNat = x at e
  exact ⟨by unfold fld; omega,
    by unfold fld; omega,
    by rw [fieldV, show fld x 12 6 = v0.toNat by unfold fld; omega, BitVec.ofNat_toNat, BitVec.setWidth_eq],
    by unfold fld; omega,
    by rw [fieldV, show fld x 0 5 = v1.toNat by unfold fld; omega, BitVec.ofNat_toNat, BitVec.setWidth_eq]⟩

theorem layout35 {m : Nat} (hm : m < 128) (v0 : BitVec 5) {w : Word} (h : enc (m * 2 ^ 24) [(v0.toNat, 0)] = some w) :
    fld w.toNat 24 7 = m ∧ fld w.toNat 5 19 = 0 ∧ fieldV w.toNat 0 5 = v0 := by
  have := v0.isLt
  have e := enc_some h (by simp only [List.foldl]; omega)
  simp only [List.foldl] at e
  generalize w.toNat = x at e
  exact ⟨by unfold fld; omega,
    by unfold fld; omega,
    by rw [fieldV, show fld x 0 5 = v0.toNat by unfold fld; omega, BitVec.ofNat_toNat, BitVec.setWidth_eq]⟩

theorem layout36 {m : Nat} (hm : m < 128) (v0 : BitVec 4) {w : Word} (h : enc (m * 2 ^ 24) [(v0.toNat, 0)] = some w) :
    fld w.toNat 24 7 = m ∧ fld w.toNat 4 20 = 0 ∧ fieldV w.toNat 0 4 = v0 := by
  have := v0.isLt
  have e := enc_some h (by simp only [List.foldl]; omega)
  simp only [List.foldl] at e
  generalize w.toNat = x at e
  exact ⟨by unfold fld; omega,
    by unfold fld; omega,
    by rw [fieldV, show fld x 0 4 = v0.toNat by unfold fld; omega, BitVec.ofNat_toNat, BitVec.setWidth_eq]⟩

theorem layout37 {m : Nat} (hm : m < 128) (v0 : Bool) (v1 : Reg) (v2 : Reg) {w : Word} (h : enc (m * 2 ^ 24) [(v0.toNat, 23), (v1.toNat, 17), (v2.toNat, 5)] = some w) :
    fld w.toNat 24 7 = m ∧ flag1 w.toNat 23 = v0 ∧ fieldV w.toNat 17 6 = v1 ∧ fld w.toNat 11 6 = 0 ∧ fieldV w.toNat 5 6 = v2 ∧ fld w.toNat 0 5 = 0 := by
  have := v0.toNat_le
  have := v1.isLt
  have := v2.isLt
  have e := enc_some h (by simp only [List.foldl]; omega)
  simp only [List.foldl] at e
  generalize w.toNat = x at e
  exact ⟨by unfold fld; omega,
    by rw [flag1, show fld x 23 1 = v0.toNat by unfold fld; omega, bool_field],
    by rw [fieldV, show fld x 17 6 = v1.toNat by unfold fld; omega, BitVec.ofNat_toNat, BitVec.setWidth_eq],
    by unfold fld; omega,
    by rw [fieldV, show fld x 5 6 = v2.toNat by unfold fld; omega, BitVec.ofNat_toNat, BitVec.setWidth_eq],
    by unfold fld; omega⟩

theorem layout38 {m k : Nat} (hm : m < 128) (hk : k < 32) (v0 : Reg) (v1 : Reg) {w : Word} (h : enc (m * 2 ^ 24 + k) [(v0.toNat, 11), (v1.toNat, 5)] = some w) :
    fld w.toNat 24 7 = m ∧ fld w.toNat 17 7 = 0 ∧ fieldV w.toNat 11 6 = v0 ∧ fieldV w.toNat 5 6 = v1 ∧ fld w.toNat 0 5 = k := by
  have := v0.isLt
  have := v1.isLt
  have e := enc_some h (by simp only [List.foldl]; omega)
  simp only [List.foldl] at e
  generalize w.toNat = x at e
  exact ⟨by unfold fld; omega,
    by unfold fld; omega,
    by rw [fieldV, show fld x 11 6 = v0.toNat by unfold fld; omega, BitVec.ofNat_toNat, BitVec.setWidth_eq],
    by rw [fieldV, show fld x 5 6 = v1.toNat by unfold fld; omega, BitVec.ofNat_toNat, BitVec.setWidth_eq],
    by unfold fld; omega⟩

theorem layout39 {m k : Nat} (hm : m < 128) (hk : k < 32) (v0 : Reg) {w : Word} (h : enc (m * 2 ^ 24 + k) [(v0.toNat, 5)] = some w) :
    fld w.toNat 24 7 = m ∧ fld w.toNat 11 13 = 0 ∧ fieldV w.toNat 5 6 = v0 ∧ fld w.toNat 0 5 = k := by
  have := v0.isLt
  have e := enc_some h (by simp only [List.foldl]; omega)
  simp only [List.foldl] at e
  generalize w.toNat = x at e
  exact ⟨by unfold fld; omega,
    by unfold fld; omega,
    by rw [fieldV, show fld x 5 6 = v0.toNat by unfold fld; omega, BitVec.ofNat_toNat, BitVec.setWidth_eq],
    by unfold fld; omega⟩

theorem layout40 {m : Nat} (hm : m < 128) (v0 : Bool) (v1 : BitVec 5) {w : Word} (h : enc (m * 2 ^ 24) [(v0.toNat, 5), (v1.toNat, 0)] = some w) :
    fld w.toNat 24 7 = m ∧ fld w.toNat 6 18 = 0 ∧ flag1 w.toNat 5 = v0 ∧ fieldV w.toNat 0 5 = v1 := by
  have := v0.toNat_le
  have := v1.isLt
  have e := enc_some h (by simp only [List.foldl]; omega)
  simp only [List.foldl] at e
  generalize w.toNat = x at e
  exact ⟨by unfold fld; omega,
    by unfold fld; omega,
    by rw [flag1, show fld x 5 1 = v0.toNat by unfold fld; omega, bool_field],
    by rw [fieldV, show fld x 0 5 = v1.toNat by unfold fld; omega, BitVec.ofNat_toNat, BitVec.setWidth_eq]⟩

theorem layout41 {m : Nat} (hm : m < 128) (v0 : Reg) (v1 : Bool) {w : Word} (h : enc (m * 2 ^ 24) [(v0.toNat, 18), (v1.toNat, 0)] = some w) :
    fld w.toNat 24 7 = m ∧ fieldV w.toNat 18 6 = v0 ∧ fld w.toNat 1 17 = 0 ∧ flag1 w.toNat 0 = v1 := by
  have := v0.isLt
  have := v1.toNat_le
  have e := enc_some h (by simp only [List.foldl]; omega)
  simp only [List.foldl] at e
  generalize w.toNat = x at e
  exact ⟨by unfold fld; omega,
    by rw [fieldV, show fld x 18 6 = v0.toNat by unfold fld; omega, BitVec.ofNat_toNat, BitVec.setWidth_eq],
    by unfold fld; omega,
    by rw [flag1, show fld x 0 1 = v1.toNat by unfold fld; omega, bool_field]⟩

theorem layout42 {m : Nat} (hm : m < 128) (v0 : Reg) (v1 : BitVec 2) {w : Word} (h : enc (m * 2 ^ 24) [(v0.toNat, 12), (v1.toNat, 0)] = some w) :
    fld w.toNat 24 7 = m ∧ fld w.toNat 18 6 = 0 ∧ fieldV w.toNat 12 6 = v0 ∧ fld w.toNat 2 10 = 0 ∧ fieldV w.toNat 0 2 = v1 := by
  have := v0.isLt
  have := v1.isLt
  have e := enc_some h (by simp only [List.foldl]; omega)
  simp only [List.foldl] at e
  generalize w.toNat = x at e
  exact ⟨by unfold fld; omega,
    by unfold fld; omega,
    by rw [fieldV, show fld x 12 6 = v0.toNat by unfold fld; omega, BitVec.ofNat_toNat, BitVec.setWidth_eq],
    by unfold fld; omega,
    by rw [fieldV, show fld x 0 2 = v1.toNat by unfold fld; omega, BitVec.ofNat_toNat, BitVec.setWidth_eq]⟩

theorem layout43 {m : Nat} (hm : m < 128) (v0 : Bool) (v1 : BitVec 4) {w : Word} (h : enc (m * 2 ^ 24) [(v0.toNat, 4), (v1.toNat, 0)] = some w) :
    fld w.toNat 24 7 = m ∧ fld w.toNat 5 19 = 0 ∧ flag1 w.toNat 4 = v0 ∧ fieldV w.toNat 0 4 = v1 := by
  have := v0.toNat_le
  have := v1.isLt
  have e := enc_some h (by simp only [List.foldl]; omega)
  simp only [List.foldl] at e
  generalize w.toNat = x at e
  exact ⟨by unfold fld; omega,
    by unfold fld; omega,
    by rw [flag1, show fld x 4 1 = v0.toNat by unfold fld; omega, bool_field],
    by rw [fieldV, show fld x 0 4 = v1.toNat by unfold fld; omega, BitVec.ofNat_toNat, BitVec.setWidth_eq]⟩

theorem layout44 {m : Nat} (hm : m < 128) (v0 : BitVec 6) (v1 : BitVec 6) {w : Word} (h : enc (m * 2 ^ 24) [(v0.toNat, 18), (v1.toNat, 0)] = some w) :
    fld w.toNat 24 7 = m ∧ fieldV w.toNat 18 6 = v0 ∧ fld w.toNat 12 6 = 0 ∧ fld w.toNat 11 1 = 0 ∧ fld w.toNat 6 5 = 0 ∧ fieldV w.toNat 0 6 = v1 := by
  have := v0.isLt
  have := v1.isLt
  have e := enc_some h (by simp only [List.foldl]; omega)
  simp only [List.foldl] at e
  generalize w.toNat = x at e
  exact ⟨by unfold fld; omega,
    by rw [fieldV, show fld x 18 6 = v0.toNat by unfold fld; omega, BitVec.ofNat_toNat, BitVec.setWidth_eq],
    by unfold fld; omega,
    by unfold fld; omega,
    by unfold fld; omega,
    by rw [fieldV, show fld x 0 6 = v1.toNat by unfold fld; omega, BitVec.ofNat_toNat, BitVec.setWidth_eq]⟩

theorem layout45 {m : Nat} (hm : m < 128) (v0 : BitVec 6) (v1 : BitVec 6) {w : Word} (h : enc (m * 2 ^ 24 + 2048) [(v0.toNat, 18), (v1.toNat, 0)] = some w) :
    fld w.toNat 24 7 = m ∧ fieldV w.toNat 18 6 = v0 ∧ fld w.toNat 12 6 = 0 ∧ fld w.toNat 11 1 = 1 ∧ fld w.toNat 6 5 = 0 ∧ fieldV w.toNat 0 6 = v1 := by
  have := v0.isLt
  have := v1.isLt
  have e := enc_some h (by simp only [List.foldl]; omega)
  simp only [List.foldl] at e
  generalize w.toNat = x at e
  exact ⟨by unfold fld; omega,
    by rw [fieldV, show fld x 18 6 = v0.toNat by unfold fld; omega, BitVec.ofNat_toNat, BitVec.setWidth_eq],
    by unfold fld; omega,
    by unfold fld; omega,
    by unfold fld; omega,
    by rw [fieldV, show fld x 0 6 = v1.toNat by unfold fld; omega, BitVec.ofNat_toNat, BitVec.setWidth_eq]⟩

theorem layout46 {m : Nat} (hm : m < 128) (v0 : Reg) {w : Word} (h : enc (m * 2 ^ 24) [(v0.toNat, 12)] = some w) :
    fld w.toNat 24 7 = m ∧ fld w.toNat 18 6 = 0 ∧ fieldV w.toNat 12 6 = v0 ∧ fld w.toNat 0 12 = 0 := by
  have := v0.isLt
  have e := enc_some h (by simp only [List.foldl]; omega)
  simp only [List.foldl] at e
  generalize w.toNat = x at e
  exact ⟨by unfold fld; omega,
    by unfold fld; omega,
    by rw [fieldV, show fld x 12 6 = v0.toNat by unfold fld; omega, BitVec.ofNat_toNat, BitVec.setWidth_eq],
    by unfold fld; omega⟩

theorem layout47 {m : Nat} (hm : m < 128) (v0 : Reg) {w : Word} (h : enc (m * 2 ^ 24 + 9961984) [(v0.toNat, 12)] = some w) :
    fld w.toNat 24 7 = m ∧ fld w.toNat 18 6 = 38 ∧ fieldV w.toNat 12 6 = v0 ∧ fld w.toNat 8 4 = 2 ∧ fld w.toNat 0 8 = 0 := by
  have := v0.isLt
  have e := enc_some h (by simp only [List.foldl]; omega)
  simp only [List.foldl] at e
  generalize w.toNat = x at e
  exact ⟨by unfold fld; omega,
    by unfold fld; omega,
    by rw [fieldV, show fld x 12 6 = v0.toNat by unfold fld; omega, BitVec.ofNat_toNat, BitVec.setWidth_eq],
    by unfold fld; omega,
    by unfold fld; omega⟩

theorem layout48 {m : Nat} (hm : m < 128) (v0 : BitVec 8) {w : Word} (h : enc (m * 2 ^ 24) [(v0.toNat, 0)] = some w) :
    fld w.toNat 24 7 = m ∧ fld w.toNat 8 16 = 0 ∧ fieldV w.toNat 0 8 = v0 := by
  have := v0.isLt
  have e := enc_some h (by simp only [List.foldl]; omega)
  simp only [List.foldl] at e
  generalize w.toNat = x at e
  exact ⟨by unfold fld; omega,
    by unfold fld; omega,
    by rw [fieldV, show fld x 0 8 = v0.toNat by unfold fld; omega, BitVec.ofNat_toNat, BitVec.setWidth_eq]⟩

theorem layout49 {m : Nat} (hm : m < 128) (v0 : Reg) (v1 : BitVec 12) {w : Word} (h : enc (m * 2 ^ 24) [(v0.toNat, 18), (v1.toNat, 0)] = some w) :
    fld w.toNat 24 7 = m ∧ fieldV w.toNat 18 6 = v0 ∧ fld w.toNat 12 6 = 0 ∧ fieldV w.toNat 0 12 = v1 := by
  have := v0.isLt
  have := v1.isLt
  have e := enc_some h (by simp only [List.foldl]; omega)
  simp only [List.foldl] at e
  generalize w.toNat = x at e
  exact ⟨by unfold fld; omega,
    by rw [fieldV, show fld x 18 6 = v0.toNat by unfold fld; omega, BitVec.ofNat_toNat, BitVec.setWidth_eq],
    by unfold fld; omega,
    by rw [fieldV, show fld x 0 12 = v1.toNat by unfold fld; omega, BitVec.ofNat_toNat, BitVec.setWidth_eq]⟩

theorem layout50 {m : Nat} (hm : m < 128) (v0 : Reg) (v1 : BitVec 12) {w : Word} (h : enc (m * 2 ^ 24) [(v0.toNat, 12), (v1.toNat, 0)] = some w) :
    fld w.toNat 24 7 = m ∧ fld w.toNat 18 6 = 0 ∧ fieldV w.toNat 12 6 = v0 ∧ fieldV w.toNat 0 12 = v1 := by
  have := v0.isLt
  have := v1.isLt
  have e := enc_some h (by simp only [List.foldl]; omega)
  simp only [List.foldl] at e
  generalize w.toNat = x at e
  exact ⟨by unfold fld; omega,
    by unfold fld; omega,
    by rw [fieldV, show fld x 12 6 = v0.toNat by unfold fld; omega, BitVec.ofNat_toNat, BitVec.setWidth_eq],
    by rw [fieldV, show fld x 0 12 = v1.toNat by unfold fld; omega, BitVec.ofNat_toNat, BitVec.setWidth_eq]⟩

theorem layout51 {m : Nat} (hm : m < 128) (v0 : BitVec 12) {w : Word} (h : enc (m * 2 ^ 24) [(v0.toNat, 0)] = some w) :
    fld w.toNat 24 7 = m ∧ fld w.toNat 12 12 = 0 ∧ fieldV w.toNat 0 12 = v0 := by
  have := v0.isLt
  have e := enc_some h (by simp only [List.foldl]; omega)
  simp only [List.foldl] at e
  generalize w.toNat = x at e
  exact ⟨by unfold fld; omega,
    by unfold fld; omega,
    by rw [fieldV, show fld x 0 12 = v0.toNat by unfold fld; omega, BitVec.ofNat_toNat, BitVec.setWidth_eq]⟩

theorem layout52 {m : Nat} (hm : m < 128) (v0 : Bool) {w : Word} (h : enc (m * 2 ^ 24) [(v0.toNat, 0)] = some w) :
    fld w.toNat 24 7 = m ∧ fld w.toNat 1 23 = 0 ∧ flag1 w.toNat 0 = v0 := by
  have := v0.toNat_le
  have e := enc_some h (by simp only [List.foldl]; omega)
  simp only [List.foldl] at e
  generalize w.toNat = x at e
  exact ⟨by unfold fld; omega,
    by unfold fld; omega,
    by rw [flag1, show fld x 0 1 = v0.toNat by unfold fld; omega, bool_field]⟩

theorem layout53 {m : Nat} (hm : m < 128) (v0 : Reg) (v1 : Reg) (v2 : BitVec 4) {w : Word} (h : enc (m * 2 ^ 24) [(v0.toNat, 18), (v1.toNat, 12), (v2.toNat, 0)] = some w) :
    fld w.toNat 24 7 = m ∧ fieldV w.toNat 18 6 = v0 ∧ fieldV w.toNat 12 6 = v1 ∧ fld w.toNat 4 8 = 0 ∧ fieldV w.toNat 0 4 = v2 := by
  have := v0.isLt
  have := v1.isLt
  have := v2.isLt
  have e := enc_some h (by simp only [List.foldl]; omega)
  simp only [List.foldl] at e
  generalize w.toNat = x at e
  exact ⟨by unfold fld; omega,
    by rw [fieldV, show fld x 18 6 = v0.toNat by unfold fld; omega, BitVec.ofNat_toNat, BitVec.setWidth_eq],
    by rw [fieldV, show fld x 12 6 = v1.toNat by unfold fld; omega, BitVec.ofNat_toNat, BitVec.setWidth_eq],
    by unfold fld; omega,
    by rw [fieldV, show fld x 0 4 = v2.toNat by unfold fld; omega, BitVec.ofNat_toNat, BitVec.setWidth_eq]⟩

theorem layout54 {m : Nat} (hm : m < 128) (v0 : Reg) (v1 : Reg) (v2 : BitVec 5) (v3 : BitVec 4) (v4 : BitVec 3) {w : Word} (h : enc (m * 2 ^ 24) [(v0.toNat, 18), (v1.toNat, 12), (v2.toNat, 7), (v3.toNat, 3), (v4.toNat, 0)] = some w) :
    fld w.toNat 24 7 = m ∧ fieldV w.toNat 18 6 = v0 ∧ fieldV w.toNat 12 6 = v1 ∧ fieldV w.toNat 7 5 = v2 ∧ fieldV w.toNat 3 4 = v3 ∧ fieldV w.toNat 0 3 = v4 := by
  have := v0.isLt
  have := v1.isLt
  have := v2.isLt
  have := v3.isLt
  have := v4.isLt
  have e := enc_some h (by simp only [List.foldl]; omega)
  simp only [List.foldl] at e
  generalize w.toNat = x at e
  exact ⟨by unfold fld; omega,
    by rw [fieldV, show fld x 18 6 = v0.toNat by unfold fld; omega, BitVec.ofNat_toNat, BitVec.setWidth_eq],
    by rw [fieldV, show fld x 12 6 = v1.toNat by unfold fld; omega, BitVec.ofNat_toNat, BitVec.setWidth_eq],
    by rw [fieldV, show fld x 7 5 = v2.toNat by unfold fld; omega, BitVec.ofNat_toNat, BitVec.setWidth_eq],
    by rw [fieldV, show fld x 3 4 = v3.toNat by unfold fld; omega, BitVec.ofNat_toNat, BitVec.setWidth_eq],
    by rw [fieldV, show fld x 0 3 = v4.toNat by unfold fld; omega, BitVec.ofNat_toNat, BitVec.setWidth_eq]⟩

theorem layout55 {m : Nat} (hm : m < 128) (v0 : Reg) (v1 : Reg) (v2 : BitVec 5) (v3 : BitVec 4) {w : Word} (h : enc (m * 2 ^ 24) [(v0.toNat, 18), (v1.toNat, 12), (v2.toNat, 7), (v3.toNat, 3)] = some w) :
    fld w.toNat 24 7 = m ∧ fieldV w.toNat 18 6 = v0 ∧ fieldV w.toNat 12 6 = v1 ∧ fieldV w.toNat 7 5 = v2 ∧ fieldV w.toNat 3 4 = v3 ∧ fld w.toNat 0 3 = 0 := by
  have := v0.isLt
  have := v1.isLt
  have := v2.isLt
  have := v3.isLt
  have e := enc_some h (by simp only [List.foldl]; omega)
  simp only [List.foldl] at e
  generalize w.toNat = x at e
  exact ⟨by unfold fld; omega,
    by rw [fieldV, show fld x 18 6 = v0.toNat by unfold fld; omega, BitVec.ofNat_toNat, BitVec.setWidth_eq],
    by rw [fieldV, show fld x 12 6 = v1.toNat by unfold fld; omega, BitVec.ofNat_toNat, BitVec.setWidth_eq],
    by rw [fieldV, show fld x 7 5 = v2.toNat by unfold fld; omega, BitVec.ofNat_toNat, BitVec.setWidth_eq],
    by rw [fieldV, show fld x 3 4 = v3.toNat by unfold fld; omega, BitVec.ofNat_toNat, BitVec.setWidth_eq],
    by unfold fld; omega⟩

theorem layout56 {m : Nat} (hm : m < 128) (v0 : Reg) (v1 : Reg) {w : Word} (h : enc (m * 2 ^ 24) [(v0.toNat, 18), (v1.toNat, 12)] = some w) :
    fld w.toNat 24 7 = m ∧ fieldV w.toNat 18 6 = v0 ∧ fieldV w.toNat 12 6 = v1 ∧ fld w.toNat 8 4 = 0 ∧ fld w.toNat 0 8 = 0 := by
  have := v0.isLt
  have := v1.isLt
  have e := enc_some h (by simp only [List.foldl]; omega)
  simp only [List.foldl] at e
  generalize w.toNat = x at e
  exact ⟨by unfold fld; omega,
    by rw [fieldV, show fld x 18 6 = v0.toNat by unfold fld; omega, BitVec.ofNat_toNat, BitVec.setWidth_eq],
    by rw [fieldV, show fld x 12 6 = v1.toNat by unfold fld; omega, BitVec.ofNat_toNat, BitVec.setWidth_eq],
    by unfold fld; omega,
    by unfold fld; omega⟩

theorem layout57 {m : Nat} (hm : m < 128) (v0 : Reg) (v1 : Reg) {w : Word} (h : enc (m * 2 ^ 24 + 256) [(v0.toNat, 18), (v1.toNat, 12)] = some w) :
    fld w.toNat 24 7 = m ∧ fieldV w.toNat 18 6 = v0 ∧ fieldV w.toNat 12 6 = v1 ∧ fld w.toNat 8 4 = 1 ∧ fld w.toNat 0 8 = 0 := by
  have := v0.isLt
  have := v1.isLt
  have e := enc_some h (by simp only [List.foldl]; omega)
  simp only [List.foldl] at e
  generalize w.toNat = x at e
  exact ⟨by unfold fld; omega,
    by rw [fieldV, show fld x 18 6 = v0.toNat by unfold fld; omega, BitVec.ofNat_toNat, BitVec.setWidth_eq],
    by rw [fieldV, show fld x 12 6 = v1.toNat by unfold fld; omega, BitVec.ofNat_toNat, BitVec.setWidth_eq],
    by unfold fld; omega,
    by unfold fld; omega⟩

theorem layout58 {m : Nat} (hm : m < 128) (v0 : Reg) (v1 : Reg) (v2 : BitVec 5) {w : Word} (h : enc (m * 2 ^ 24 + 768) [(v0.toNat, 18), (v1.toNat, 12), (v2.toNat, 3)] = some w) :
    fld w.toNat 24 7 = m ∧ fieldV w.toNat 18 6 = v0 ∧ fieldV w.toNat 12 6 = v1 ∧ fld w.toNat 8 4 = 3 ∧ fieldV w.toNat 3 5 = v2 ∧ fld w.toNat 0 3 = 0 := by
  have := v0.isLt
  have := v1.isLt
  have := v2.isLt
  have e := enc_some h (by simp only [List.foldl]; omega)
  simp only [List.foldl] at e
  generalize w.toNat = x at e
  exact ⟨by unfold fld; omega,
    by rw [fieldV, show fld x 18 6 = v0.toNat by unfold fld; omega, BitVec.ofNat_toNat, BitVec.setWidth_eq],
    by rw [fieldV, show fld x 12 6 = v1.toNat by unfold fld; omega, BitVec.ofNat_toNat, BitVec.setWidth_eq],
    by unfold fld; omega,
    by rw [fieldV, show fld x 3 5 = v2.toNat by unfold fld; omega, BitVec.ofNat_toNat, BitVec.setWidth_eq],
    by unfold fld; omega⟩

theorem layout59 {m : Nat} (hm : m < 128) (v0 : Reg) (v1 : Reg) (v2 : BitVec 5) {w : Word} (h : enc (m * 2 ^ 24 + 1024) [(v0.toNat, 18), (v1.toNat, 12), (v2.toNat, 3)] = some w) :
    fld w.toNat 24 7 = m ∧ fieldV w.toNat 18 6 = v0 ∧ fieldV w.toNat 12 6 = v1 ∧ fld w.toNat 8 4 = 4 ∧ fieldV w.toNat 3 5 = v2 ∧ fld w.toNat 0 3 = 0 := by
  have := v0.isLt
  have := v1.isLt
  have := v2.isLt
  have e := enc_some h (by simp only [List.foldl]; omega)
  simp only [List.foldl] at e
  generalize w.toNat = x at e
  exact ⟨by unfold fld; omega,
    by rw [fieldV, show fld x 18 6 = v0.toNat by unfold fld; omega, BitVec.ofNat_toNat, BitVec.setWidth_eq],
    by rw [fieldV, show fld x 12 6 = v1.toNat by unfold fld; omega, BitVec.ofNat_toNat, BitVec.setWidth_eq],
    by unfold fld; omega,
    by rw [fieldV, show fld x 3 5 = v2.toNat by unfold fld; omega, BitVec.ofNat_toNat, BitVec.setWidth_eq],
    by unfold fld; omega⟩

theorem layout60 {m : Nat} (hm : m < 128) (v0 : Reg) (v1 : BitVec 2) (v2 : BitVec 3) {w : Word} (h : enc (m * 2 ^ 24) [(v0.toNat, 18), (v1.toNat, 3), (v2.toNat, 0)] = some w) :
    fld w.toNat 24 7 = m ∧ fieldV w.toNat 18 6 = v0 ∧ fld w.toNat 5 13 = 0 ∧ fieldV w.toNat 3 2 = v1 ∧ fieldV w.toNat 0 3 = v2 := by
  have := v0.isLt
  have := v1.isLt
  have := v2.isLt
  have e := enc_some h (by simp only [List.foldl]; omega)
  simp only [List.foldl] at e
  generalize w.toNat = x at e
  exact ⟨by unfold fld; omega,
    by rw [fieldV, show fld x 18 6 = v0.toNat by unfold fld; omega, BitVec.ofNat_toNat, BitVec.setWidth_eq],
    by unfold fld; omega,
    by rw [fieldV, show fld x 3 2 = v1.toNat by unfold fld; omega, BitVec.ofNat_toNat, BitVec.setWidth_eq],
    by rw [fieldV, show fld x 0 3 = v2.toNat by unfold fld; omega, BitVec.ofNat_toNat, BitVec.setWidth_eq]⟩

theorem layout61 {m : Nat} (hm : m < 128) (v0 : Reg) (v1 : Reg) (v2 : BitVec 4) {w : Word} (h : enc (m * 2 ^ 24) [(v0.toNat, 18), (v1.toNat, 12), (v2.toNat, 3)] = some w) :
    fld w.toNat 24 7 = m ∧ fieldV w.toNat 18 6 = v0 ∧ fieldV w.toNat 12 6 = v1 ∧ fld w.toNat 7 5 = 0 ∧ fieldV w.toNat 3 4 = v2 ∧ fld w.toNat 0 3 = 0 := by
  have := v0.isLt
  have := v1.isLt
  have := v2.isLt
  have e := enc_some h (by simp only [List.foldl]; omega)
  simp only [List.foldl] at e
  generalize w.toNat = x at e
  exact ⟨by unfold fld; omega,
    by rw [fieldV, show fld x 18 6 = v0.toNat by unfold fld; omega, BitVec.ofNat_toNat, BitVec.setWidth_eq],
    by rw [fieldV, show fld x 12 6 = v1.toNat by unfold fld; omega, BitVec.ofNat_toNat, BitVec.setWidth_eq],
    by unfold fld; omega,
    by rw [fieldV, show fld x 3 4 = v2.toNat by unfold fld; omega, BitVec.ofNat_toNat, BitVec.setWidth_eq],
    by unfold fld; omega⟩

theorem layout62 {m : Nat} (hm : m < 128) (v0 : BitVec 6) (v1 : BitVec 4) {w : Word} (h : enc (m * 2 ^ 24) [(v0.toNat, 18), (v1.toNat, 3)] = some w) :
    fld w.toNat 24 7 = m ∧ fieldV w.toNat 18 6 = v0 ∧ fld w.toNat 7 11 = 0 ∧ fieldV w.toNat 3 4 = v1 ∧ fld w.toNat 0 3 = 0 := by
  have := v0.isLt
  have := v1.isLt
  have e := enc_some h (by simp only [List.foldl]; omega)
  simp only [List.foldl] at e
  generalize w.toNat = x at e
  exact ⟨by unfold fld; omega,
    by rw [fieldV, show fld x 18 6 = v0.toNat by unfold fld; omega, BitVec.ofNat_toNat, BitVec.setWidth_eq],
    by unfold fld; omega,
    by rw [fieldV, show fld x 3 4 = v1.toNat by unfold fld; omega, BitVec.ofNat_toNat, BitVec.setWidth_eq],
    by unfold fld; omega⟩

theorem layout63 {m : Nat} (hm : m < 128) (v0 : Reg) (v1 : Reg) (v2 : BitVec 2) {w : Word} (h : enc (m * 2 ^ 24) [(v0.toNat, 18), (v1.toNat, 12), (v2.toNat, 0)] = some w) :
    fld w.toNat 24 7 = m ∧ fieldV w.toNat 18 6 = v0 ∧ fieldV w.toNat 12 6 = v1 ∧ fld w.toNat 2 10 = 0 ∧ fieldV w.toNat 0 2 = v2 := by
  have := v0.isLt
  have := v1.isLt
  have := v2.isLt
  have e := enc_some h (by simp only [List.foldl]; omega)
  simp only [List.foldl] at e
  generalize w.toNat = x at e
  exact ⟨by unfold fld; omega,
    by rw [fieldV, show fld x 18 6 = v0.toNat by unfold fld; omega, BitVec.ofNat_toNat, BitVec.setWidth_eq],
    by rw [fieldV, show fld x 12 6 = v1.toNat by unfold fld; omega, BitVec.ofNat_toNat, BitVec.setWidth_eq],
    by unfold fld; omega,
    by rw [fieldV, show fld x 0 2 = v2.toNat by unfold fld; omega, BitVec.ofNat_toNat, BitVec.setWidth_eq]⟩

theorem RoundTrip.nop : Statement (.nop) := fun word h => by
  obtain ⟨h0, h1⟩ := layout1 (m := 0x0) (by omega) h
  simp [decodeWord, decode00to13, zeroField, h0, h1]

theorem RoundTrip.add (n : Bool) (d : Reg) (a : Reg) (b : Reg) (g : BitVec 5) : Statement (.add n d a b g) := fun word h => by
  obtain ⟨h0, h1, h2, h3, h4, h5⟩ := layout3 (m := 0x1) (by omega) n d a b g h
  simp [decodeWord, decode00to13, h0, h1, h2, h3, h4, h5]

theorem RoundTrip.sub (n : Bool) (d : Reg) (a : Reg) (b : Reg) (g : BitVec 5) : Statement (.sub n d a b g) := fun word h => by
  obtain ⟨h0, h1, h2, h3, h4, h5⟩ := layout3 (m := 0x2) (by omega) n d a b g h
  simp [decodeWord, decode00to13, h0, h1, h2, h3, h4, h5]

theorem RoundTrip.mul (n : Bool) (d : Reg) (a : Reg) (b : Reg) (g : BitVec 5) : Statement (.mul n d a b g) := fun word h => by
  obtain ⟨h0, h1, h2, h3, h4, h5⟩ := layout3 (m := 0x3) (by omega) n d a b g h
  simp [decodeWord, decode00to13, h0, h1, h2, h3, h4, h5]

theorem RoundTrip.mulh (n : Bool) (d : Reg) (a : Reg) (b : Reg) (g : BitVec 5) : Statement (.mulh n d a b g) := fun word h => by
  obtain ⟨h0, h1, h2, h3, h4, h5⟩ := layout3 (m := 0x4) (by omega) n d a b g h
  simp [decodeWord, decode00to13, h0, h1, h2, h3, h4, h5]

theorem RoundTrip.mulhu (n : Bool) (d : Reg) (a : Reg) (b : Reg) (g : BitVec 5) : Statement (.mulhu n d a b g) := fun word h => by
  obtain ⟨h0, h1, h2, h3, h4, h5⟩ := layout3 (m := 0x5) (by omega) n d a b g h
  simp [decodeWord, decode00to13, h0, h1, h2, h3, h4, h5]

theorem RoundTrip.mad (n : Bool) (d : Reg) (a : Reg) (b : Reg) (g : BitVec 5) : Statement (.mad n d a b g) := fun word h => by
  obtain ⟨h0, h1, h2, h3, h4, h5⟩ := layout3 (m := 0x6) (by omega) n d a b g h
  simp [decodeWord, decode00to13, h0, h1, h2, h3, h4, h5]

theorem RoundTrip.and (n : Bool) (d : Reg) (a : Reg) (b : Reg) (g : BitVec 5) : Statement (.and n d a b g) := fun word h => by
  obtain ⟨h0, h1, h2, h3, h4, h5⟩ := layout3 (m := 0x7) (by omega) n d a b g h
  simp [decodeWord, decode00to13, h0, h1, h2, h3, h4, h5]

theorem RoundTrip.or (n : Bool) (d : Reg) (a : Reg) (b : Reg) (g : BitVec 5) : Statement (.or n d a b g) := fun word h => by
  obtain ⟨h0, h1, h2, h3, h4, h5⟩ := layout3 (m := 0x8) (by omega) n d a b g h
  simp [decodeWord, decode00to13, h0, h1, h2, h3, h4, h5]

theorem RoundTrip.xor (n : Bool) (d : Reg) (a : Reg) (b : Reg) (g : BitVec 5) : Statement (.xor n d a b g) := fun word h => by
  obtain ⟨h0, h1, h2, h3, h4, h5⟩ := layout3 (m := 0x9) (by omega) n d a b g h
  simp [decodeWord, decode00to13, h0, h1, h2, h3, h4, h5]

theorem RoundTrip.andn (n : Bool) (d : Reg) (a : Reg) (b : Reg) (g : BitVec 5) : Statement (.andn n d a b g) := fun word h => by
  obtain ⟨h0, h1, h2, h3, h4, h5⟩ := layout3 (m := 0xa) (by omega) n d a b g h
  simp [decodeWord, decode00to13, h0, h1, h2, h3, h4, h5]

theorem RoundTrip.shl (n : Bool) (d : Reg) (a : Reg) (b : Reg) (g : BitVec 5) : Statement (.shl n d a b g) := fun word h => by
  obtain ⟨h0, h1, h2, h3, h4, h5⟩ := layout3 (m := 0xb) (by omega) n d a b g h
  simp [decodeWord, decode00to13, h0, h1, h2, h3, h4, h5]

theorem RoundTrip.shr (n : Bool) (d : Reg) (a : Reg) (b : Reg) (g : BitVec 5) : Statement (.shr n d a b g) := fun word h => by
  obtain ⟨h0, h1, h2, h3, h4, h5⟩ := layout3 (m := 0xc) (by omega) n d a b g h
  simp [decodeWord, decode00to13, h0, h1, h2, h3, h4, h5]

theorem RoundTrip.sar (n : Bool) (d : Reg) (a : Reg) (b : Reg) (g : BitVec 5) : Statement (.sar n d a b g) := fun word h => by
  obtain ⟨h0, h1, h2, h3, h4, h5⟩ := layout3 (m := 0xd) (by omega) n d a b g h
  simp [decodeWord, decode00to13, h0, h1, h2, h3, h4, h5]

theorem RoundTrip.min (n : Bool) (d : Reg) (a : Reg) (b : Reg) (g : BitVec 5) : Statement (.min n d a b g) := fun word h => by
  obtain ⟨h0, h1, h2, h3, h4, h5⟩ := layout3 (m := 0xe) (by omega) n d a b g h
  simp [decodeWord, decode00to13, h0, h1, h2, h3, h4, h5]

theorem RoundTrip.max (n : Bool) (d : Reg) (a : Reg) (b : Reg) (g : BitVec 5) : Statement (.max n d a b g) := fun word h => by
  obtain ⟨h0, h1, h2, h3, h4, h5⟩ := layout3 (m := 0xf) (by omega) n d a b g h
  simp [decodeWord, decode00to13, h0, h1, h2, h3, h4, h5]

theorem RoundTrip.minu (n : Bool) (d : Reg) (a : Reg) (b : Reg) (g : BitVec 5) : Statement (.minu n d a b g) := fun word h => by
  obtain ⟨h0, h1, h2, h3, h4, h5⟩ := layout3 (m := 0x10) (by omega) n d a b g h
  simp [decodeWord, decode00to13, h0, h1, h2, h3, h4, h5]

theorem RoundTrip.maxu (n : Bool) (d : Reg) (a : Reg) (b : Reg) (g : BitVec 5) : Statement (.maxu n d a b g) := fun word h => by
  obtain ⟨h0, h1, h2, h3, h4, h5⟩ := layout3 (m := 0x11) (by omega) n d a b g h
  simp [decodeWord, decode00to13, h0, h1, h2, h3, h4, h5]

theorem RoundTrip.sel (n : Bool) (d : Reg) (a : Reg) (b : Reg) (g : BitVec 5) : Statement (.sel n d a b g) := fun word h => by
  obtain ⟨h0, h1, h2, h3, h4, h5⟩ := layout3 (m := 0x12) (by omega) n d a b g h
  simp [decodeWord, decode00to13, h0, h1, h2, h3, h4, h5]

theorem RoundTrip.mov (n : Bool) (d : Reg) (a : Reg) (g : BitVec 5) : Statement (.mov n d a g) := fun word h => by
  obtain ⟨h0, h1, h2, h3, h4, h5⟩ := layout4 (m := 0x13) (by omega) n d a g h
  simp [decodeWord, decode00to13, zeroField, h0, h1, h2, h3, h4, h5]

theorem RoundTrip.add64 (n : Bool) (d : Reg) (a : Reg) (b : Reg) (g : BitVec 5) : Statement (.add64 n d a b g) := fun word h => by
  obtain ⟨h0, h1, h2, h3, h4, h5⟩ := layout3 (m := 0x14) (by omega) n d a b g h
  simp [decodeWord, decode14to21, h0, h1, h2, h3, h4, h5]

theorem RoundTrip.sub64 (n : Bool) (d : Reg) (a : Reg) (b : Reg) (g : BitVec 5) : Statement (.sub64 n d a b g) := fun word h => by
  obtain ⟨h0, h1, h2, h3, h4, h5⟩ := layout3 (m := 0x15) (by omega) n d a b g h
  simp [decodeWord, decode14to21, h0, h1, h2, h3, h4, h5]

theorem RoundTrip.mul64 (n : Bool) (d : Reg) (a : Reg) (b : Reg) (g : BitVec 5) : Statement (.mul64 n d a b g) := fun word h => by
  obtain ⟨h0, h1, h2, h3, h4, h5⟩ := layout3 (m := 0x16) (by omega) n d a b g h
  simp [decodeWord, decode14to21, h0, h1, h2, h3, h4, h5]

theorem RoundTrip.shl64 (n : Bool) (d : Reg) (a : Reg) (b : Reg) (g : BitVec 5) : Statement (.shl64 n d a b g) := fun word h => by
  obtain ⟨h0, h1, h2, h3, h4, h5⟩ := layout3 (m := 0x17) (by omega) n d a b g h
  simp [decodeWord, decode14to21, h0, h1, h2, h3, h4, h5]

theorem RoundTrip.shr64 (n : Bool) (d : Reg) (a : Reg) (b : Reg) (g : BitVec 5) : Statement (.shr64 n d a b g) := fun word h => by
  obtain ⟨h0, h1, h2, h3, h4, h5⟩ := layout3 (m := 0x18) (by omega) n d a b g h
  simp [decodeWord, decode14to21, h0, h1, h2, h3, h4, h5]

theorem RoundTrip.sar64 (n : Bool) (d : Reg) (a : Reg) (b : Reg) (g : BitVec 5) : Statement (.sar64 n d a b g) := fun word h => by
  obtain ⟨h0, h1, h2, h3, h4, h5⟩ := layout3 (m := 0x19) (by omega) n d a b g h
  simp [decodeWord, decode14to21, h0, h1, h2, h3, h4, h5]

theorem RoundTrip.addi (n : Bool) (d : Reg) (a : Reg) (i : BitVec 11) : Statement (.addi n d a i) := fun word h => by
  obtain ⟨h0, h1, h2, h3, h4⟩ := layout5 (m := 0x1a) (by omega) n d a i h
  simp [decodeWord, decode14to21, h0, h1, h2, h3, h4]

theorem RoundTrip.andi (n : Bool) (d : Reg) (a : Reg) (i : BitVec 11) : Statement (.andi n d a i) := fun word h => by
  obtain ⟨h0, h1, h2, h3, h4⟩ := layout5 (m := 0x1b) (by omega) n d a i h
  simp [decodeWord, decode14to21, h0, h1, h2, h3, h4]

theorem RoundTrip.ori (n : Bool) (d : Reg) (a : Reg) (i : BitVec 11) : Statement (.ori n d a i) := fun word h => by
  obtain ⟨h0, h1, h2, h3, h4⟩ := layout5 (m := 0x1c) (by omega) n d a i h
  simp [decodeWord, decode14to21, h0, h1, h2, h3, h4]

theorem RoundTrip.xori (n : Bool) (d : Reg) (a : Reg) (i : BitVec 11) : Statement (.xori n d a i) := fun word h => by
  obtain ⟨h0, h1, h2, h3, h4⟩ := layout5 (m := 0x1d) (by omega) n d a i h
  simp [decodeWord, decode14to21, h0, h1, h2, h3, h4]

theorem RoundTrip.shli (n : Bool) (d : Reg) (a : Reg) (i : BitVec 11) : Statement (.shli n d a i) := fun word h => by
  obtain ⟨h0, h1, h2, h3, h4⟩ := layout5 (m := 0x1e) (by omega) n d a i h
  simp [decodeWord, decode14to21, h0, h1, h2, h3, h4]

theorem RoundTrip.shri (n : Bool) (d : Reg) (a : Reg) (i : BitVec 11) : Statement (.shri n d a i) := fun word h => by
  obtain ⟨h0, h1, h2, h3, h4⟩ := layout5 (m := 0x1f) (by omega) n d a i h
  simp [decodeWord, decode14to21, h0, h1, h2, h3, h4]

theorem RoundTrip.sari (n : Bool) (d : Reg) (a : Reg) (i : BitVec 11) : Statement (.sari n d a i) := fun word h => by
  obtain ⟨h0, h1, h2, h3, h4⟩ := layout5 (m := 0x20) (by omega) n d a i h
  simp [decodeWord, decode14to21, h0, h1, h2, h3, h4]

theorem RoundTrip.movi (n : Bool) (d : Reg) (i : BitVec 11) : Statement (.movi n d i) := fun word h => by
  obtain ⟨h0, h1, h2, h3, h4⟩ := layout6 (m := 0x21) (by omega) n d i h
  simp [decodeWord, decode14to21, zeroField, h0, h1, h2, h3, h4]

theorem RoundTrip.popc (n : Bool) (d : Reg) (a : Reg) : Statement (.popc n d a) := fun word h => by
  obtain ⟨h0, h1, h2, h3, h4, h5⟩ := layout7 (m := 0x22) (k := 0) (by omega) (by omega) n d a h
  simp [decodeWord, decode22to27, zeroField, h0, h1, h2, h3, h4, h5]

theorem RoundTrip.clz (n : Bool) (d : Reg) (a : Reg) : Statement (.clz n d a) := fun word h => by
  obtain ⟨h0, h1, h2, h3, h4, h5⟩ := layout7 (m := 0x22) (k := 1) (by omega) (by omega) n d a h
  simp [decodeWord, decode22to27, zeroField, h0, h1, h2, h3, h4, h5]

theorem RoundTrip.ctz (n : Bool) (d : Reg) (a : Reg) : Statement (.ctz n d a) := fun word h => by
  obtain ⟨h0, h1, h2, h3, h4, h5⟩ := layout7 (m := 0x22) (k := 2) (by omega) (by omega) n d a h
  simp [decodeWord, decode22to27, zeroField, h0, h1, h2, h3, h4, h5]

theorem RoundTrip.brev (n : Bool) (d : Reg) (a : Reg) : Statement (.brev n d a) := fun word h => by
  obtain ⟨h0, h1, h2, h3, h4, h5⟩ := layout7 (m := 0x22) (k := 3) (by omega) (by omega) n d a h
  simp [decodeWord, decode22to27, zeroField, h0, h1, h2, h3, h4, h5]

theorem RoundTrip.not (n : Bool) (d : Reg) (a : Reg) : Statement (.not n d a) := fun word h => by
  obtain ⟨h0, h1, h2, h3, h4, h5⟩ := layout7 (m := 0x22) (k := 4) (by omega) (by omega) n d a h
  simp [decodeWord, decode22to27, zeroField, h0, h1, h2, h3, h4, h5]

theorem RoundTrip.neg (n : Bool) (d : Reg) (a : Reg) : Statement (.neg n d a) := fun word h => by
  obtain ⟨h0, h1, h2, h3, h4, h5⟩ := layout7 (m := 0x22) (k := 5) (by omega) (by omega) n d a h
  simp [decodeWord, decode22to27, zeroField, h0, h1, h2, h3, h4, h5]

theorem RoundTrip.abs (n : Bool) (d : Reg) (a : Reg) : Statement (.abs n d a) := fun word h => by
  obtain ⟨h0, h1, h2, h3, h4, h5⟩ := layout7 (m := 0x22) (k := 6) (by omega) (by omega) n d a h
  simp [decodeWord, decode22to27, zeroField, h0, h1, h2, h3, h4, h5]

theorem RoundTrip.sext8 (n : Bool) (d : Reg) (a : Reg) : Statement (.sext8 n d a) := fun word h => by
  obtain ⟨h0, h1, h2, h3, h4, h5⟩ := layout7 (m := 0x22) (k := 7) (by omega) (by omega) n d a h
  simp [decodeWord, decode22to27, zeroField, h0, h1, h2, h3, h4, h5]

theorem RoundTrip.sext16 (n : Bool) (d : Reg) (a : Reg) : Statement (.sext16 n d a) := fun word h => by
  obtain ⟨h0, h1, h2, h3, h4, h5⟩ := layout7 (m := 0x22) (k := 8) (by omega) (by omega) n d a h
  simp [decodeWord, decode22to27, zeroField, h0, h1, h2, h3, h4, h5]

theorem RoundTrip.zext8 (n : Bool) (d : Reg) (a : Reg) : Statement (.zext8 n d a) := fun word h => by
  obtain ⟨h0, h1, h2, h3, h4, h5⟩ := layout7 (m := 0x22) (k := 9) (by omega) (by omega) n d a h
  simp [decodeWord, decode22to27, zeroField, h0, h1, h2, h3, h4, h5]

theorem RoundTrip.zext16 (n : Bool) (d : Reg) (a : Reg) : Statement (.zext16 n d a) := fun word h => by
  obtain ⟨h0, h1, h2, h3, h4, h5⟩ := layout7 (m := 0x22) (k := 10) (by omega) (by omega) n d a h
  simp [decodeWord, decode22to27, zeroField, h0, h1, h2, h3, h4, h5]

theorem RoundTrip.bfx (n : Bool) (d : Reg) (a : Reg) (b : Reg) : Statement (.bfx n d a b) := fun word h => by
  obtain ⟨h0, h1, h2, h3, h4, h5⟩ := layout8 (m := 0x23) (k := 0) (by omega) (by omega) n d a b h
  simp [decodeWord, decode22to27, h0, h1, h2, h3, h4, h5]

theorem RoundTrip.bfxn (n : Bool) (d : Reg) (a : Reg) (b : Reg) : Statement (.bfxn n d a b) := fun word h => by
  obtain ⟨h0, h1, h2, h3, h4, h5⟩ := layout8 (m := 0x23) (k := 1) (by omega) (by omega) n d a b h
  simp [decodeWord, decode22to27, h0, h1, h2, h3, h4, h5]

theorem RoundTrip.bfi (n : Bool) (d : Reg) (a : Reg) (b : Reg) : Statement (.bfi n d a b) := fun word h => by
  obtain ⟨h0, h1, h2, h3, h4, h5⟩ := layout8 (m := 0x23) (k := 2) (by omega) (by omega) n d a b h
  simp [decodeWord, decode22to27, h0, h1, h2, h3, h4, h5]

theorem RoundTrip.bmix (n : Bool) (d : Reg) (a : Reg) (b : Reg) : Statement (.bmix n d a b) := fun word h => by
  obtain ⟨h0, h1, h2, h3, h4, h5⟩ := layout8 (m := 0x23) (k := 3) (by omega) (by omega) n d a b h
  simp [decodeWord, decode22to27, h0, h1, h2, h3, h4, h5]

theorem RoundTrip.icmp (p : BitVec 5) (k : Cnd) (m : Cmb) (a : Reg) (b : Reg) : Statement (.icmp p k m a b) := fun word h => by
  obtain ⟨h0, h1, h2, h3, h4, h5⟩ := layout9 (m := 0x24) (by omega) p k m a b h
  simp [decodeWord, decode22to27, named, h0, h1, h2, h3, h4, h5]

theorem RoundTrip.icmp64 (p : BitVec 5) (k : Cnd) (m : Cmb) (a : Reg) (b : Reg) : Statement (.icmp64 p k m a b) := fun word h => by
  obtain ⟨h0, h1, h2, h3, h4, h5⟩ := layout9 (m := 0x25) (by omega) p k m a b h
  simp [decodeWord, decode22to27, named, h0, h1, h2, h3, h4, h5]

theorem RoundTrip.pand (d : Reg) (a : Reg) (b : Reg) : Statement (.pand d a b) := fun word h => by
  obtain ⟨h0, h1, h2, h3, h4, h5⟩ := layout10 (m := 0x26) (k := 0) (by omega) (by omega) d a b h
  simp [decodeWord, decode22to27, zeroField, h0, h1, h2, h3, h4, h5]

theorem RoundTrip.por (d : Reg) (a : Reg) (b : Reg) : Statement (.por d a b) := fun word h => by
  obtain ⟨h0, h1, h2, h3, h4, h5⟩ := layout10 (m := 0x26) (k := 1) (by omega) (by omega) d a b h
  simp [decodeWord, decode22to27, zeroField, h0, h1, h2, h3, h4, h5]

theorem RoundTrip.pxor (d : Reg) (a : Reg) (b : Reg) : Statement (.pxor d a b) := fun word h => by
  obtain ⟨h0, h1, h2, h3, h4, h5⟩ := layout10 (m := 0x26) (k := 2) (by omega) (by omega) d a b h
  simp [decodeWord, decode22to27, zeroField, h0, h1, h2, h3, h4, h5]

theorem RoundTrip.pandn (d : Reg) (a : Reg) (b : Reg) : Statement (.pandn d a b) := fun word h => by
  obtain ⟨h0, h1, h2, h3, h4, h5⟩ := layout10 (m := 0x26) (k := 3) (by omega) (by omega) d a b h
  simp [decodeWord, decode22to27, zeroField, h0, h1, h2, h3, h4, h5]

theorem RoundTrip.pnot (d : Reg) (a : Reg) : Statement (.pnot d a) := fun word h => by
  obtain ⟨h0, h1, h2, h3, h4, h5⟩ := layout11 (m := 0x26) (k := 4) (by omega) (by omega) d a h
  simp [decodeWord, decode22to27, zeroField, h0, h1, h2, h3, h4, h5]

theorem RoundTrip.pmov (d : Reg) (a : Reg) : Statement (.pmov d a) := fun word h => by
  obtain ⟨h0, h1, h2, h3, h4, h5⟩ := layout11 (m := 0x26) (k := 5) (by omega) (by omega) d a h
  simp [decodeWord, decode22to27, zeroField, h0, h1, h2, h3, h4, h5]

theorem RoundTrip.ptov (n : Bool) (d : Reg) : Statement (.ptov n d) := fun word h => by
  obtain ⟨h0, h1, h2, h3, h4⟩ := layout12 (m := 0x26) (k := 6) (by omega) (by omega) n d h
  simp [decodeWord, decode22to27, zeroField, h0, h1, h2, h3, h4]

theorem RoundTrip.vtop (a : Reg) : Statement (.vtop a) := fun word h => by
  obtain ⟨h0, h1, h2, h3, h4⟩ := layout13 (m := 0x26) (k := 7) (by omega) (by omega) a h
  simp [decodeWord, decode22to27, zeroField, h0, h1, h2, h3, h4]

theorem RoundTrip.ballot (n : Bool) (d : Reg) (a : Reg) : Statement (.ballot n d a) := fun word h => by
  obtain ⟨h0, h1, h2, h3, h4, h5⟩ := layout7 (m := 0x26) (k := 8) (by omega) (by omega) n d a h
  simp [decodeWord, decode22to27, zeroField, h0, h1, h2, h3, h4, h5]

theorem RoundTrip.pany (d : Reg) (a : Reg) : Statement (.pany d a) := fun word h => by
  obtain ⟨h0, h1, h2, h3, h4, h5⟩ := layout11 (m := 0x26) (k := 9) (by omega) (by omega) d a h
  simp [decodeWord, decode22to27, zeroField, h0, h1, h2, h3, h4, h5]

theorem RoundTrip.pall (d : Reg) (a : Reg) : Statement (.pall d a) := fun word h => by
  obtain ⟨h0, h1, h2, h3, h4, h5⟩ := layout11 (m := 0x26) (k := 10) (by omega) (by omega) d a h
  simp [decodeWord, decode22to27, zeroField, h0, h1, h2, h3, h4, h5]

theorem RoundTrip.shflIdx (n : Bool) (d : Reg) (a : Reg) (b : Reg) : Statement (.shflIdx n d a b) := fun word h => by
  obtain ⟨h0, h1, h2, h3, h4, h5⟩ := layout8 (m := 0x27) (k := 0) (by omega) (by omega) n d a b h
  simp [decodeWord, decode22to27, h0, h1, h2, h3, h4, h5]

theorem RoundTrip.shflUp (n : Bool) (d : Reg) (a : Reg) (b : Reg) : Statement (.shflUp n d a b) := fun word h => by
  obtain ⟨h0, h1, h2, h3, h4, h5⟩ := layout8 (m := 0x27) (k := 1) (by omega) (by omega) n d a b h
  simp [decodeWord, decode22to27, h0, h1, h2, h3, h4, h5]

theorem RoundTrip.shflDn (n : Bool) (d : Reg) (a : Reg) (b : Reg) : Statement (.shflDn n d a b) := fun word h => by
  obtain ⟨h0, h1, h2, h3, h4, h5⟩ := layout8 (m := 0x27) (k := 2) (by omega) (by omega) n d a b h
  simp [decodeWord, decode22to27, h0, h1, h2, h3, h4, h5]

theorem RoundTrip.shflXor (n : Bool) (d : Reg) (a : Reg) (b : Reg) : Statement (.shflXor n d a b) := fun word h => by
  obtain ⟨h0, h1, h2, h3, h4, h5⟩ := layout8 (m := 0x27) (k := 3) (by omega) (by omega) n d a b h
  simp [decodeWord, decode22to27, h0, h1, h2, h3, h4, h5]

theorem RoundTrip.bcast (n : Bool) (d : Reg) (a : Reg) : Statement (.bcast n d a) := fun word h => by
  obtain ⟨h0, h1, h2, h3, h4, h5⟩ := layout7 (m := 0x27) (k := 4) (by omega) (by omega) n d a h
  simp [decodeWord, decode22to27, zeroField, h0, h1, h2, h3, h4, h5]

theorem RoundTrip.lredAdd (n : Bool) (d : Reg) (a : Reg) : Statement (.lredAdd n d a) := fun word h => by
  obtain ⟨h0, h1, h2, h3, h4, h5⟩ := layout7 (m := 0x27) (k := 5) (by omega) (by omega) n d a h
  simp [decodeWord, decode22to27, zeroField, h0, h1, h2, h3, h4, h5]

theorem RoundTrip.lredMin (n : Bool) (d : Reg) (a : Reg) : Statement (.lredMin n d a) := fun word h => by
  obtain ⟨h0, h1, h2, h3, h4, h5⟩ := layout7 (m := 0x27) (k := 6) (by omega) (by omega) n d a h
  simp [decodeWord, decode22to27, zeroField, h0, h1, h2, h3, h4, h5]

theorem RoundTrip.lredMax (n : Bool) (d : Reg) (a : Reg) : Statement (.lredMax n d a) := fun word h => by
  obtain ⟨h0, h1, h2, h3, h4, h5⟩ := layout7 (m := 0x27) (k := 7) (by omega) (by omega) n d a h
  simp [decodeWord, decode22to27, zeroField, h0, h1, h2, h3, h4, h5]

theorem RoundTrip.lredFadd (n : Bool) (d : Reg) (a : Reg) : Statement (.lredFadd n d a) := fun word h => by
  obtain ⟨h0, h1, h2, h3, h4, h5⟩ := layout7 (m := 0x27) (k := 8) (by omega) (by omega) n d a h
  simp [decodeWord, decode22to27, zeroField, h0, h1, h2, h3, h4, h5]

theorem RoundTrip.lscanAdd (n : Bool) (d : Reg) (a : Reg) : Statement (.lscanAdd n d a) := fun word h => by
  obtain ⟨h0, h1, h2, h3, h4, h5⟩ := layout7 (m := 0x27) (k := 9) (by omega) (by omega) n d a h
  simp [decodeWord, decode22to27, zeroField, h0, h1, h2, h3, h4, h5]

theorem RoundTrip.fadd (n : Bool) (d : Reg) (a : Reg) (b : Reg) (g : BitVec 5) : Statement (.fadd n d a b g) := fun word h => by
  obtain ⟨h0, h1, h2, h3, h4, h5⟩ := layout3 (m := 0x28) (by omega) n d a b g h
  simp [decodeWord, decode28to3C, h0, h1, h2, h3, h4, h5]

theorem RoundTrip.fsub (n : Bool) (d : Reg) (a : Reg) (b : Reg) (g : BitVec 5) : Statement (.fsub n d a b g) := fun word h => by
  obtain ⟨h0, h1, h2, h3, h4, h5⟩ := layout3 (m := 0x29) (by omega) n d a b g h
  simp [decodeWord, decode28to3C, h0, h1, h2, h3, h4, h5]

theorem RoundTrip.fmul (n : Bool) (d : Reg) (a : Reg) (b : Reg) (g : BitVec 5) : Statement (.fmul n d a b g) := fun word h => by
  obtain ⟨h0, h1, h2, h3, h4, h5⟩ := layout3 (m := 0x2a) (by omega) n d a b g h
  simp [decodeWord, decode28to3C, h0, h1, h2, h3, h4, h5]

theorem RoundTrip.ffma (n : Bool) (d : Reg) (a : Reg) (b : Reg) (g : BitVec 5) : Statement (.ffma n d a b g) := fun word h => by
  obtain ⟨h0, h1, h2, h3, h4, h5⟩ := layout3 (m := 0x2b) (by omega) n d a b g h
  simp [decodeWord, decode28to3C, h0, h1, h2, h3, h4, h5]

theorem RoundTrip.fmin (n : Bool) (d : Reg) (a : Reg) (b : Reg) (g : BitVec 5) : Statement (.fmin n d a b g) := fun word h => by
  obtain ⟨h0, h1, h2, h3, h4, h5⟩ := layout3 (m := 0x2c) (by omega) n d a b g h
  simp [decodeWord, decode28to3C, h0, h1, h2, h3, h4, h5]

theorem RoundTrip.fmax (n : Bool) (d : Reg) (a : Reg) (b : Reg) (g : BitVec 5) : Statement (.fmax n d a b g) := fun word h => by
  obtain ⟨h0, h1, h2, h3, h4, h5⟩ := layout3 (m := 0x2d) (by omega) n d a b g h
  simp [decodeWord, decode28to3C, h0, h1, h2, h3, h4, h5]

theorem RoundTrip.fadd64 (n : Bool) (d : Reg) (a : Reg) (b : Reg) (g : BitVec 5) : Statement (.fadd64 n d a b g) := fun word h => by
  obtain ⟨h0, h1, h2, h3, h4, h5⟩ := layout3 (m := 0x2e) (by omega) n d a b g h
  simp [decodeWord, decode28to3C, h0, h1, h2, h3, h4, h5]

theorem RoundTrip.fmul64 (n : Bool) (d : Reg) (a : Reg) (b : Reg) (g : BitVec 5) : Statement (.fmul64 n d a b g) := fun word h => by
  obtain ⟨h0, h1, h2, h3, h4, h5⟩ := layout3 (m := 0x2f) (by omega) n d a b g h
  simp [decodeWord, decode28to3C, h0, h1, h2, h3, h4, h5]

theorem RoundTrip.ffma64 (n : Bool) (d : Reg) (a : Reg) (b : Reg) (g : BitVec 5) : Statement (.ffma64 n d a b g) := fun word h => by
  obtain ⟨h0, h1, h2, h3, h4, h5⟩ := layout3 (m := 0x30) (by omega) n d a b g h
  simp [decodeWord, decode28to3C, h0, h1, h2, h3, h4, h5]

theorem RoundTrip.hxadd (n : Bool) (d : Reg) (a : Reg) (b : Reg) (g : BitVec 5) : Statement (.hxadd n d a b g) := fun word h => by
  obtain ⟨h0, h1, h2, h3, h4, h5⟩ := layout3 (m := 0x31) (by omega) n d a b g h
  simp [decodeWord, decode28to3C, h0, h1, h2, h3, h4, h5]

theorem RoundTrip.hxmul (n : Bool) (d : Reg) (a : Reg) (b : Reg) (g : BitVec 5) : Statement (.hxmul n d a b g) := fun word h => by
  obtain ⟨h0, h1, h2, h3, h4, h5⟩ := layout3 (m := 0x32) (by omega) n d a b g h
  simp [decodeWord, decode28to3C, h0, h1, h2, h3, h4, h5]

theorem RoundTrip.hxfma (n : Bool) (d : Reg) (a : Reg) (b : Reg) (g : BitVec 5) : Statement (.hxfma n d a b g) := fun word h => by
  obtain ⟨h0, h1, h2, h3, h4, h5⟩ := layout3 (m := 0x33) (by omega) n d a b g h
  simp [decodeWord, decode28to3C, h0, h1, h2, h3, h4, h5]

theorem RoundTrip.bxadd (n : Bool) (d : Reg) (a : Reg) (b : Reg) (g : BitVec 5) : Statement (.bxadd n d a b g) := fun word h => by
  obtain ⟨h0, h1, h2, h3, h4, h5⟩ := layout3 (m := 0x34) (by omega) n d a b g h
  simp [decodeWord, decode28to3C, h0, h1, h2, h3, h4, h5]

theorem RoundTrip.bxmul (n : Bool) (d : Reg) (a : Reg) (b : Reg) (g : BitVec 5) : Statement (.bxmul n d a b g) := fun word h => by
  obtain ⟨h0, h1, h2, h3, h4, h5⟩ := layout3 (m := 0x35) (by omega) n d a b g h
  simp [decodeWord, decode28to3C, h0, h1, h2, h3, h4, h5]

theorem RoundTrip.bxfma (n : Bool) (d : Reg) (a : Reg) (b : Reg) (g : BitVec 5) : Statement (.bxfma n d a b g) := fun word h => by
  obtain ⟨h0, h1, h2, h3, h4, h5⟩ := layout3 (m := 0x36) (by omega) n d a b g h
  simp [decodeWord, decode28to3C, h0, h1, h2, h3, h4, h5]

theorem RoundTrip.fabs (n : Bool) (d : Reg) (a : Reg) : Statement (.fabs n d a) := fun word h => by
  obtain ⟨h0, h1, h2, h3, h4, h5⟩ := layout7 (m := 0x37) (k := 0) (by omega) (by omega) n d a h
  simp [decodeWord, decode28to3C, zeroField, h0, h1, h2, h3, h4, h5]

theorem RoundTrip.fneg (n : Bool) (d : Reg) (a : Reg) : Statement (.fneg n d a) := fun word h => by
  obtain ⟨h0, h1, h2, h3, h4, h5⟩ := layout7 (m := 0x37) (k := 1) (by omega) (by omega) n d a h
  simp [decodeWord, decode28to3C, zeroField, h0, h1, h2, h3, h4, h5]

theorem RoundTrip.frcp (n : Bool) (d : Reg) (a : Reg) : Statement (.frcp n d a) := fun word h => by
  obtain ⟨h0, h1, h2, h3, h4, h5⟩ := layout7 (m := 0x37) (k := 2) (by omega) (by omega) n d a h
  simp [decodeWord, decode28to3C, zeroField, h0, h1, h2, h3, h4, h5]

theorem RoundTrip.frsq (n : Bool) (d : Reg) (a : Reg) : Statement (.frsq n d a) := fun word h => by
  obtain ⟨h0, h1, h2, h3, h4, h5⟩ := layout7 (m := 0x37) (k := 3) (by omega) (by omega) n d a h
  simp [decodeWord, decode28to3C, zeroField, h0, h1, h2, h3, h4, h5]

theorem RoundTrip.fsqrt (n : Bool) (d : Reg) (a : Reg) : Statement (.fsqrt n d a) := fun word h => by
  obtain ⟨h0, h1, h2, h3, h4, h5⟩ := layout7 (m := 0x37) (k := 4) (by omega) (by omega) n d a h
  simp [decodeWord, decode28to3C, zeroField, h0, h1, h2, h3, h4, h5]

theorem RoundTrip.fexp2 (n : Bool) (d : Reg) (a : Reg) : Statement (.fexp2 n d a) := fun word h => by
  obtain ⟨h0, h1, h2, h3, h4, h5⟩ := layout7 (m := 0x37) (k := 5) (by omega) (by omega) n d a h
  simp [decodeWord, decode28to3C, zeroField, h0, h1, h2, h3, h4, h5]

theorem RoundTrip.flog2 (n : Bool) (d : Reg) (a : Reg) : Statement (.flog2 n d a) := fun word h => by
  obtain ⟨h0, h1, h2, h3, h4, h5⟩ := layout7 (m := 0x37) (k := 6) (by omega) (by omega) n d a h
  simp [decodeWord, decode28to3C, zeroField, h0, h1, h2, h3, h4, h5]

theorem RoundTrip.fsinpi (n : Bool) (d : Reg) (a : Reg) : Statement (.fsinpi n d a) := fun word h => by
  obtain ⟨h0, h1, h2, h3, h4, h5⟩ := layout7 (m := 0x37) (k := 7) (by omega) (by omega) n d a h
  simp [decodeWord, decode28to3C, zeroField, h0, h1, h2, h3, h4, h5]

theorem RoundTrip.fcospi (n : Bool) (d : Reg) (a : Reg) : Statement (.fcospi n d a) := fun word h => by
  obtain ⟨h0, h1, h2, h3, h4, h5⟩ := layout7 (m := 0x37) (k := 8) (by omega) (by omega) n d a h
  simp [decodeWord, decode28to3C, zeroField, h0, h1, h2, h3, h4, h5]

theorem RoundTrip.ffloor (n : Bool) (d : Reg) (a : Reg) : Statement (.ffloor n d a) := fun word h => by
  obtain ⟨h0, h1, h2, h3, h4, h5⟩ := layout7 (m := 0x37) (k := 9) (by omega) (by omega) n d a h
  simp [decodeWord, decode28to3C, zeroField, h0, h1, h2, h3, h4, h5]

theorem RoundTrip.fceil (n : Bool) (d : Reg) (a : Reg) : Statement (.fceil n d a) := fun word h => by
  obtain ⟨h0, h1, h2, h3, h4, h5⟩ := layout7 (m := 0x37) (k := 10) (by omega) (by omega) n d a h
  simp [decodeWord, decode28to3C, zeroField, h0, h1, h2, h3, h4, h5]

theorem RoundTrip.ftrunc (n : Bool) (d : Reg) (a : Reg) : Statement (.ftrunc n d a) := fun word h => by
  obtain ⟨h0, h1, h2, h3, h4, h5⟩ := layout7 (m := 0x37) (k := 11) (by omega) (by omega) n d a h
  simp [decodeWord, decode28to3C, zeroField, h0, h1, h2, h3, h4, h5]

theorem RoundTrip.frint (n : Bool) (d : Reg) (a : Reg) : Statement (.frint n d a) := fun word h => by
  obtain ⟨h0, h1, h2, h3, h4, h5⟩ := layout7 (m := 0x37) (k := 12) (by omega) (by omega) n d a h
  simp [decodeWord, decode28to3C, zeroField, h0, h1, h2, h3, h4, h5]

theorem RoundTrip.fclass (n : Bool) (d : Reg) (a : Reg) : Statement (.fclass n d a) := fun word h => by
  obtain ⟨h0, h1, h2, h3, h4, h5⟩ := layout7 (m := 0x37) (k := 13) (by omega) (by omega) n d a h
  simp [decodeWord, decode28to3C, zeroField, h0, h1, h2, h3, h4, h5]

theorem RoundTrip.fcmp (p : BitVec 5) (k : FCnd) (m : Cmb) (a : Reg) (b : Reg) : Statement (.fcmp p k m a b) := fun word h => by
  obtain ⟨h0, h1, h2, h3, h4, h5⟩ := layout14 (m := 0x38) (by omega) p k m a b h
  simp [decodeWord, decode28to3C, named, h0, h1, h2, h3, h4, h5]

theorem RoundTrip.fcmp64 (p : BitVec 5) (k : FCnd) (m : Cmb) (a : Reg) (b : Reg) : Statement (.fcmp64 p k m a b) := fun word h => by
  obtain ⟨h0, h1, h2, h3, h4, h5⟩ := layout14 (m := 0x39) (by omega) p k m a b h
  simp [decodeWord, decode28to3C, named, h0, h1, h2, h3, h4, h5]

theorem RoundTrip.cvt (s : Bool) (d : Reg) (a : Reg) (f : Fmt) (g : Fmt) (r : Rnd) : Statement (.cvt s d a f g r) := fun word h => by
  obtain ⟨h0, h1, h2, h3, h4, h5, h6⟩ := layout15 (m := 0x3a) (by omega) s d a f g r h
  simp [decodeWord, decode28to3C, named, h0, h1, h2, h3, h4, h5, h6]

theorem RoundTrip.txcvPack (n : Bool) (d : Reg) (a : Reg) (b : Reg) (r : Rnd) (e : Bool) : Statement (.txcvPack n d a b r e) := fun word h => by
  obtain ⟨h0, h1, h2, h3, h4, h5, h6, h7⟩ := layout16 (m := 0x3b) (by omega) n d a b r e h
  simp [decodeWord, decode28to3C, named, h0, h1, h2, h3, h4, h5, h6, h7]

theorem RoundTrip.txcvUnpack (n : Bool) (d : Reg) (a : Reg) (b : Reg) (r : Rnd) (e : Bool) : Statement (.txcvUnpack n d a b r e) := fun word h => by
  obtain ⟨h0, h1, h2, h3, h4, h5, h6, h7⟩ := layout17 (m := 0x3b) (by omega) n d a b r e h
  simp [decodeWord, decode28to3C, named, h0, h1, h2, h3, h4, h5, h6, h7]

theorem RoundTrip.txexp (n : Bool) (d : Reg) (a : Reg) (r : Rnd) (e : Bool) : Statement (.txexp n d a r e) := fun word h => by
  obtain ⟨h0, h1, h2, h3, h4, h5, h6, h7⟩ := layout18 (m := 0x3c) (by omega) n d a r e h
  simp [decodeWord, decode28to3C, zeroField, named, h0, h1, h2, h3, h4, h5, h6, h7]

theorem RoundTrip.lds (x : Bool) (d : Reg) (a : Reg) (z : Sz) (o : BitVec 8) : Statement (.lds x d a z o) := fun word h => by
  obtain ⟨h0, h1, h2, h3, h4, h5⟩ := layout19 (m := 0x40) (by omega) x d a z o h
  simp [decodeWord, decode40to53, named, h0, h1, h2, h3, h4, h5]

theorem RoundTrip.sts (d : Reg) (a : Reg) (z : Sz) (o : BitVec 8) : Statement (.sts d a z o) := fun word h => by
  obtain ⟨h0, h1, h2, h3, h4, h5⟩ := layout20 (m := 0x41) (by omega) d a z o h
  simp [decodeWord, decode40to53, zeroField, named, h0, h1, h2, h3, h4, h5]

theorem RoundTrip.ldn (x : Bool) (d : Reg) (a : Reg) (z : Sz) (o : BitVec 8) : Statement (.ldn x d a z o) := fun word h => by
  obtain ⟨h0, h1, h2, h3, h4, h5⟩ := layout19 (m := 0x42) (by omega) x d a z o h
  simp [decodeWord, decode40to53, named, h0, h1, h2, h3, h4, h5]

theorem RoundTrip.stn (d : Reg) (a : Reg) (z : Sz) (o : BitVec 8) : Statement (.stn d a z o) := fun word h => by
  obtain ⟨h0, h1, h2, h3, h4, h5⟩ := layout20 (m := 0x43) (by omega) d a z o h
  simp [decodeWord, decode40to53, zeroField, named, h0, h1, h2, h3, h4, h5]

theorem RoundTrip.ats (o : Aop) (d : Reg) (a : Reg) (b : Reg) (r : Ord) : Statement (.ats o d a b r) := fun word h => by
  obtain ⟨h0, h1, h2, h3, h4, h5⟩ := layout21 (m := 0x44) (by omega) o d a b r h
  simp [decodeWord, decode40to53, named, h0, h1, h2, h3, h4, h5]

theorem RoundTrip.atn (o : Aop) (d : Reg) (a : Reg) (b : Reg) (r : Ord) : Statement (.atn o d a b r) := fun word h => by
  obtain ⟨h0, h1, h2, h3, h4, h5⟩ := layout21 (m := 0x45) (by omega) o d a b r h
  simp [decodeWord, decode40to53, named, h0, h1, h2, h3, h4, h5]

theorem RoundTrip.atfp (o : Aop) (d : Reg) (a : Reg) (b : Reg) (r : Ord) : Statement (.atfp o d a b r) := fun word h => by
  obtain ⟨h0, h1, h2, h3, h4, h5⟩ := layout21 (m := 0x46) (by omega) o d a b r h
  simp [decodeWord, decode40to53, named, h0, h1, h2, h3, h4, h5]

theorem RoundTrip.atfd (o : Aop) (d : Reg) (a : Reg) (b : Reg) (r : Ord) : Statement (.atfd o d a b r) := fun word h => by
  obtain ⟨h0, h1, h2, h3, h4, h5⟩ := layout21 (m := 0x47) (by omega) o d a b r h
  simp [decodeWord, decode40to53, named, h0, h1, h2, h3, h4, h5]

theorem RoundTrip.atfs (o : Aop) (d : Reg) (a : Reg) (b : Reg) (r : Ord) : Statement (.atfs o d a b r) := fun word h => by
  obtain ⟨h0, h1, h2, h3, h4, h5⟩ := layout21 (m := 0x48) (by omega) o d a b r h
  simp [decodeWord, decode40to53, named, h0, h1, h2, h3, h4, h5]

theorem RoundTrip.mmaBf16 (a : BitVec 10) (t : BitVec 4) (u : BitVec 4) (s : Bool) : Statement (.mmaBf16 a t u s) := fun word h => by
  obtain ⟨h0, h1, h2, h3, h4, h5⟩ := layout22 (m := 0x49) (by omega) a t u s h
  simp [decodeWord, decode40to53, zeroField, h0, h1, h2, h3, h4, h5]

theorem RoundTrip.mmaF16 (a : BitVec 10) (t : BitVec 4) (u : BitVec 4) (s : Bool) : Statement (.mmaF16 a t u s) := fun word h => by
  obtain ⟨h0, h1, h2, h3, h4, h5⟩ := layout22 (m := 0x4a) (by omega) a t u s h
  simp [decodeWord, decode40to53, zeroField, h0, h1, h2, h3, h4, h5]

theorem RoundTrip.mmaTe8 (a : BitVec 10) (t : BitVec 4) (u : BitVec 4) (v : BitVec 5) (s : Bool) : Statement (.mmaTe8 a t u v s) := fun word h => by
  obtain ⟨h0, h1, h2, h3, h4, h5⟩ := layout23 (m := 0x4b) (by omega) a t u v s h
  simp [decodeWord, decode40to53, h0, h1, h2, h3, h4, h5]

theorem RoundTrip.mmaTe4 (a : BitVec 10) (t : BitVec 4) (u : BitVec 4) (v : BitVec 5) (s : Bool) : Statement (.mmaTe4 a t u v s) := fun word h => by
  obtain ⟨h0, h1, h2, h3, h4, h5⟩ := layout23 (m := 0x4c) (by omega) a t u v s h
  simp [decodeWord, decode40to53, h0, h1, h2, h3, h4, h5]

theorem RoundTrip.mmaF32 (a : BitVec 10) (t : BitVec 4) (u : BitVec 4) (s : Bool) : Statement (.mmaF32 a t u s) := fun word h => by
  obtain ⟨h0, h1, h2, h3, h4, h5⟩ := layout22 (m := 0x4d) (by omega) a t u s h
  simp [decodeWord, decode40to53, zeroField, h0, h1, h2, h3, h4, h5]

theorem RoundTrip.tld (t : BitVec 4) (a : Reg) (b : Reg) (r : Bool) : Statement (.tld t a b r) := fun word h => by
  obtain ⟨h0, h1, h2, h3, h4, h5⟩ := layout24 (m := 0x4e) (by omega) t a b r h
  simp [decodeWord, decode40to53, zeroField, h0, h1, h2, h3, h4, h5]

theorem RoundTrip.tst (t : BitVec 4) (a : Reg) (b : Reg) (r : Bool) : Statement (.tst t a b r) := fun word h => by
  obtain ⟨h0, h1, h2, h3, h4, h5⟩ := layout24 (m := 0x4f) (by omega) t a b r h
  simp [decodeWord, decode40to53, zeroField, h0, h1, h2, h3, h4, h5]

theorem RoundTrip.phase (s : Scope) (k : Kind) : Statement (.phase s k) := fun word h => by
  obtain ⟨h0, h1, h2, h3⟩ := layout25 (m := 0x50) (by omega) s k h
  simp [decodeWord, decode40to53, zeroField, named, h0, h1, h2, h3]

theorem RoundTrip.tfence (s : Bool) (m : BitVec 6) : Statement (.tfence s m) := fun word h => by
  obtain ⟨h0, h1, h2, h3⟩ := layout26 (m := 0x51) (by omega) s m h
  simp [decodeWord, decode40to53, zeroField, h0, h1, h2, h3]

theorem RoundTrip.drain (p : Path) : Statement (.drain p) := fun word h => by
  obtain ⟨h0, h1, h2⟩ := layout27 (m := 0x52) (by omega) p h
  simp [decodeWord, decode40to53, zeroField, named, h0, h1, h2]

theorem RoundTrip.accz (a : BitVec 10) (t : BitVec 4) : Statement (.accz a t) := fun word h => by
  obtain ⟨h0, h1, h2, h3, h4, h5⟩ := layout28 (m := 0x53) (by omega) a t h
  simp [decodeWord, decode40to53, zeroField, h0, h1, h2, h3, h4, h5]

theorem RoundTrip.accrd (a : BitVec 10) (t : BitVec 4) (r : Rnd) (s : Bool) : Statement (.accrd a t r s) := fun word h => by
  obtain ⟨h0, h1, h2, h3, h4, h5, h6⟩ := layout31 (m := 0x53) (by omega) a t r s h
  simp [decodeWord, decode40to53, zeroField, named, Nat.not_le_of_lt (rnd_lt h4), h0, h1, h2, h3, h4, h5, h6]

theorem RoundTrip.accwr (a : BitVec 10) (t : BitVec 4) : Statement (.accwr a t) := fun word h => by
  obtain ⟨h0, h1, h2, h3, h4, h5⟩ := layout29 (m := 0x53) (by omega) a t h
  simp [decodeWord, decode40to53, zeroField, h0, h1, h2, h3, h4, h5]

theorem RoundTrip.accadd (a : BitVec 10) (t : BitVec 4) : Statement (.accadd a t) := fun word h => by
  obtain ⟨h0, h1, h2, h3, h4, h5⟩ := layout30 (m := 0x53) (by omega) a t h
  simp [decodeWord, decode40to53, zeroField, h0, h1, h2, h3, h4, h5]

theorem RoundTrip.tzero (t : BitVec 4) : Statement (.tzero t) := fun word h => by
  obtain ⟨h0, h1, h2, h3, h4, h5⟩ := layout32 (m := 0x53) (by omega) t h
  simp [decodeWord, decode40to53, zeroField, h0, h1, h2, h3, h4, h5]

theorem RoundTrip.bra (g : BitVec 5) (o : BitVec 18) : Statement (.bra g o) := fun word h => by
  obtain ⟨h0, h1, h2, h3⟩ := layout33 (m := 0x58) (by omega) g o h
  simp [decodeWord, decode58to6A, zeroField, h0, h1, h2, h3]

theorem RoundTrip.call (g : BitVec 5) (o : BitVec 18) : Statement (.call g o) := fun word h => by
  obtain ⟨h0, h1, h2, h3⟩ := layout33 (m := 0x59) (by omega) g o h
  simp [decodeWord, decode58to6A, zeroField, h0, h1, h2, h3]

theorem RoundTrip.brx (a : Reg) (g : BitVec 5) : Statement (.brx a g) := fun word h => by
  obtain ⟨h0, h1, h2, h3, h4⟩ := layout34 (m := 0x5a) (by omega) a g h
  simp [decodeWord, decode58to6A, zeroField, h0, h1, h2, h3, h4]

theorem RoundTrip.ret (a : Reg) (g : BitVec 5) : Statement (.ret a g) := fun word h => by
  obtain ⟨h0, h1, h2, h3, h4⟩ := layout34 (m := 0x5b) (by omega) a g h
  simp [decodeWord, decode58to6A, zeroField, h0, h1, h2, h3, h4]

theorem RoundTrip.exit (g : BitVec 5) : Statement (.exit g) := fun word h => by
  obtain ⟨h0, h1, h2⟩ := layout35 (m := 0x5c) (by omega) g h
  simp [decodeWord, decode58to6A, zeroField, h0, h1, h2]

theorem RoundTrip.join (k : BitVec 4) : Statement (.join k) := fun word h => by
  obtain ⟨h0, h1, h2⟩ := layout36 (m := 0x5d) (by omega) k h
  simp [decodeWord, decode58to6A, zeroField, h0, h1, h2]

theorem RoundTrip.leave (k : BitVec 4) : Statement (.leave k) := fun word h => by
  obtain ⟨h0, h1, h2⟩ := layout36 (m := 0x5e) (by omega) k h
  simp [decodeWord, decode58to6A, zeroField, h0, h1, h2]

theorem RoundTrip.waitm (k : BitVec 4) : Statement (.waitm k) := fun word h => by
  obtain ⟨h0, h1, h2⟩ := layout36 (m := 0x5f) (by omega) k h
  simp [decodeWord, decode58to6A, zeroField, h0, h1, h2]

theorem RoundTrip.maskopRead (n : Bool) (d : Reg) (b : Reg) : Statement (.maskopRead n d b) := fun word h => by
  obtain ⟨h0, h1, h2, h3, h4, h5⟩ := layout37 (m := 0x60) (by omega) n d b h
  simp [decodeWord, decode58to6A, zeroField, h0, h1, h2, h3, h4, h5]

theorem RoundTrip.maskopWrite (a : Reg) (b : Reg) : Statement (.maskopWrite a b) := fun word h => by
  obtain ⟨h0, h1, h2, h3, h4⟩ := layout38 (m := 0x60) (k := 1) (by omega) (by omega) a b h
  simp [decodeWord, decode58to6A, zeroField, h0, h1, h2, h3, h4]

theorem RoundTrip.maskopClear (b : Reg) : Statement (.maskopClear b) := fun word h => by
  obtain ⟨h0, h1, h2, h3⟩ := layout39 (m := 0x60) (k := 2) (by omega) (by omega) b h
  simp [decodeWord, decode58to6A, zeroField, h0, h1, h2, h3]

theorem RoundTrip.ppt : Statement (.ppt) := fun word h => by
  obtain ⟨h0, h1, h2, h3⟩ := layout2 (m := 0x61) (by omega) h
  simp [decodeWord, decode58to6A, zeroField, h0, h1, h2, h3]

theorem RoundTrip.rvinit (a : Reg) (k : BitVec 5) : Statement (.rvinit a k) := fun word h => by
  obtain ⟨h0, h1, h2, h3, h4⟩ := layout34 (m := 0x64) (by omega) a k h
  simp [decodeWord, decode58to6A, zeroField, h0, h1, h2, h3, h4]

theorem RoundTrip.rvarrive (k : BitVec 5) : Statement (.rvarrive k) := fun word h => by
  obtain ⟨h0, h1, h2⟩ := layout35 (m := 0x65) (by omega) k h
  simp [decodeWord, decode58to6A, zeroField, h0, h1, h2]

theorem RoundTrip.rvwait (s : Bool) (k : BitVec 5) : Statement (.rvwait s k) := fun word h => by
  obtain ⟨h0, h1, h2, h3⟩ := layout40 (m := 0x66) (by omega) s k h
  simp [decodeWord, decode58to6A, zeroField, h0, h1, h2, h3]

theorem RoundTrip.rvstat (d : Reg) (l : Bool) : Statement (.rvstat d l) := fun word h => by
  obtain ⟨h0, h1, h2, h3⟩ := layout41 (m := 0x67) (by omega) d l h
  simp [decodeWord, decode58to6A, zeroField, h0, h1, h2, h3]

theorem RoundTrip.qpush (a : Reg) (k : BitVec 2) : Statement (.qpush a k) := fun word h => by
  obtain ⟨h0, h1, h2, h3, h4⟩ := layout42 (m := 0x68) (by omega) a k h
  simp [decodeWord, decode58to6A, zeroField, h0, h1, h2, h3, h4]

theorem RoundTrip.sigset (k : BitVec 4) : Statement (.sigset k) := fun word h => by
  obtain ⟨h0, h1, h2⟩ := layout36 (m := 0x69) (by omega) k h
  simp [decodeWord, decode58to6A, zeroField, h0, h1, h2]

theorem RoundTrip.sigwait (w : Bool) (k : BitVec 4) : Statement (.sigwait w k) := fun word h => by
  obtain ⟨h0, h1, h2, h3⟩ := layout43 (m := 0x6a) (by omega) w k h
  simp [decodeWord, decode58to6A, zeroField, h0, h1, h2, h3]

theorem RoundTrip.growReq (p : BitVec 6) (n : BitVec 6) : Statement (.growReq p n) := fun word h => by
  obtain ⟨h0, h1, h2, h3, h4, h5⟩ := layout44 (m := 0x6c) (by omega) p n h
  simp [decodeWord, decode6Cto75, zeroField, h0, h1, h2, h3, h4, h5]

theorem RoundTrip.growRel (p : BitVec 6) (n : BitVec 6) : Statement (.growRel p n) := fun word h => by
  obtain ⟨h0, h1, h2, h3, h4, h5⟩ := layout45 (m := 0x6c) (by omega) p n h
  simp [decodeWord, decode6Cto75, zeroField, h0, h1, h2, h3, h4, h5]

theorem RoundTrip.launch (a : Reg) : Statement (.launch a) := fun word h => by
  obtain ⟨h0, h1, h2, h3⟩ := layout46 (m := 0x6d) (by omega) a h
  simp [decodeWord, decode6Cto75, zeroField, h0, h1, h2, h3]

theorem RoundTrip.taskdec (k : BitVec 8) : Statement (.taskdec k) := fun word h => by
  obtain ⟨h0, h1, h2⟩ := layout48 (m := 0x6e) (by omega) k h
  simp [decodeWord, decode6Cto75, zeroField, h0, h1, h2]

theorem RoundTrip.yield : Statement (.yield) := fun word h => by
  obtain ⟨h0, h1⟩ := layout1 (m := 0x6f) (by omega) h
  simp [decodeWord, decode6Cto75, zeroField, h0, h1]

theorem RoundTrip.srr (d : Reg) (n : BitVec 12) : Statement (.srr d n) := fun word h => by
  obtain ⟨h0, h1, h2, h3⟩ := layout49 (m := 0x70) (by omega) d n h
  simp [decodeWord, decode6Cto75, zeroField, h0, h1, h2, h3]

theorem RoundTrip.srw (a : Reg) (n : BitVec 12) : Statement (.srw a n) := fun word h => by
  obtain ⟨h0, h1, h2, h3⟩ := layout50 (m := 0x71) (by omega) a n h
  simp [decodeWord, decode6Cto75, zeroField, h0, h1, h2, h3]

theorem RoundTrip.trap (i : BitVec 12) : Statement (.trap i) := fun word h => by
  obtain ⟨h0, h1, h2⟩ := layout51 (m := 0x72) (by omega) i h
  simp [decodeWord, decode6Cto75, zeroField, h0, h1, h2]

theorem RoundTrip.brk (i : BitVec 12) : Statement (.brk i) := fun word h => by
  obtain ⟨h0, h1, h2⟩ := layout51 (m := 0x73) (by omega) i h
  simp [decodeWord, decode6Cto75, zeroField, h0, h1, h2]

theorem RoundTrip.tret (x : Bool) : Statement (.tret x) := fun word h => by
  obtain ⟨h0, h1, h2⟩ := layout52 (m := 0x74) (by omega) x h
  simp [decodeWord, decode6Cto75, zeroField, h0, h1, h2]

theorem RoundTrip.waitev (d : Reg) (a : Reg) (m : BitVec 4) : Statement (.waitev d a m) := fun word h => by
  obtain ⟨h0, h1, h2, h3, h4⟩ := layout53 (m := 0x75) (by omega) d a m h
  simp [decodeWord, decode6Cto75, zeroField, h0, h1, h2, h3, h4]

theorem RoundTrip.fetch (x : Reg) (y : Reg) (l : BitVec 5) (b : BitVec 4) (w : BitVec 3) : Statement (.fetch x y l b w) := fun word h => by
  obtain ⟨h0, h1, h2, h3, h4, h5⟩ := layout54 (m := 0x76) (by omega) x y l b w h
  simp [decodeWord, decode76to7E, h0, h1, h2, h3, h4, h5]

theorem RoundTrip.put (x : Reg) (y : Reg) (l : BitVec 5) (b : BitVec 4) (w : BitVec 3) : Statement (.put x y l b w) := fun word h => by
  obtain ⟨h0, h1, h2, h3, h4, h5⟩ := layout54 (m := 0x77) (by omega) x y l b w h
  simp [decodeWord, decode76to7E, h0, h1, h2, h3, h4, h5]

theorem RoundTrip.copyl (x : Reg) (y : Reg) (l : BitVec 5) (b : BitVec 4) : Statement (.copyl x y l b) := fun word h => by
  obtain ⟨h0, h1, h2, h3, h4, h5⟩ := layout55 (m := 0x78) (by omega) x y l b h
  simp [decodeWord, decode76to7E, zeroField, h0, h1, h2, h3, h4, h5]

theorem RoundTrip.fetchr (x : Reg) (y : Reg) (l : BitVec 5) (b : BitVec 4) (w : BitVec 3) : Statement (.fetchr x y l b w) := fun word h => by
  obtain ⟨h0, h1, h2, h3, h4, h5⟩ := layout54 (m := 0x79) (by omega) x y l b w h
  simp [decodeWord, decode76to7E, h0, h1, h2, h3, h4, h5]

theorem RoundTrip.engmGcreate (x : Reg) (y : Reg) : Statement (.engmGcreate x y) := fun word h => by
  obtain ⟨h0, h1, h2, h3, h4⟩ := layout56 (m := 0x7a) (by omega) x y h
  simp [decodeWord, decode76to7E, zeroField, h0, h1, h2, h3, h4]

theorem RoundTrip.engmGready (x : Reg) (y : Reg) : Statement (.engmGready x y) := fun word h => by
  obtain ⟨h0, h1, h2, h3, h4⟩ := layout57 (m := 0x7a) (by omega) x y h
  simp [decodeWord, decode76to7E, zeroField, h0, h1, h2, h3, h4]

theorem RoundTrip.engmGdestroy (y : Reg) : Statement (.engmGdestroy y) := fun word h => by
  obtain ⟨h0, h1, h2, h3, h4⟩ := layout47 (m := 0x7a) (by omega) y h
  simp [decodeWord, decode76to7E, zeroField, h0, h1, h2, h3, h4]

theorem RoundTrip.engmFill (x : Reg) (y : Reg) (l : BitVec 5) : Statement (.engmFill x y l) := fun word h => by
  obtain ⟨h0, h1, h2, h3, h4, h5⟩ := layout58 (m := 0x7a) (by omega) x y l h
  simp [decodeWord, decode76to7E, zeroField, h0, h1, h2, h3, h4, h5]

theorem RoundTrip.engmCopyf (x : Reg) (y : Reg) (l : BitVec 5) : Statement (.engmCopyf x y l) := fun word h => by
  obtain ⟨h0, h1, h2, h3, h4, h5⟩ := layout59 (m := 0x7a) (by omega) x y l h
  simp [decodeWord, decode76to7E, zeroField, h0, h1, h2, h3, h4, h5]

theorem RoundTrip.wincfg (x : Reg) (k : BitVec 2) (w : BitVec 3) : Statement (.wincfg x k w) := fun word h => by
  obtain ⟨h0, h1, h2, h3, h4⟩ := layout60 (m := 0x7b) (by omega) x k w h
  simp [decodeWord, decode76to7E, zeroField, h0, h1, h2, h3, h4]

theorem RoundTrip.abinit (x : Reg) (y : Reg) (b : BitVec 4) : Statement (.abinit x y b) := fun word h => by
  obtain ⟨h0, h1, h2, h3, h4, h5⟩ := layout61 (m := 0x7c) (by omega) x y b h
  simp [decodeWord, decode76to7E, zeroField, h0, h1, h2, h3, h4, h5]

theorem RoundTrip.waita (p : BitVec 6) (b : BitVec 4) : Statement (.waita p b) := fun word h => by
  obtain ⟨h0, h1, h2, h3, h4⟩ := layout62 (m := 0x7d) (by omega) p b h
  simp [decodeWord, decode76to7E, zeroField, h0, h1, h2, h3, h4]

theorem RoundTrip.waitt (x : Reg) (y : Reg) (t : BitVec 2) : Statement (.waitt x y t) := fun word h => by
  obtain ⟨h0, h1, h2, h3, h4⟩ := layout63 (m := 0x7e) (by omega) x y t h
  simp [decodeWord, decode76to7E, zeroField, h0, h1, h2, h3, h4]

theorem RoundTrip.specCheckpoint (t : Nat) (g : Nat) : Statement (.specCheckpoint t g) := nofun

theorem RoundTrip.specRollback (t : Nat) (g : Nat) : Statement (.specRollback t g) := nofun

theorem RoundTrip.localAccessComplete (t : Nat) (q : Sel) (i : Nat) (row : Nat) : Statement (.localAccessComplete t q i row) := nofun

theorem RoundTrip.storePublish (t : Nat) (q : Sel) (i : Nat) (s : Scope) : Statement (.storePublish t q i s) := nofun

theorem RoundTrip.viewAdvance (t : Nat) (q : Sel) (a : Nat) (pos : Nat) : Statement (.viewAdvance t q a pos) := nofun

theorem RoundTrip.farAtomicRequest (m : Nat) (i : Nat) (w : Walk) : Statement (.farAtomicRequest m i w) := nofun

theorem RoundTrip.farAtomicReply (p : Nat) (i : Nat) : Statement (.farAtomicReply p i) := nofun

theorem RoundTrip.reservationRelease (i : Nat) : Statement (.reservationRelease i) := nofun

theorem RoundTrip.matrixEntryExecute (c : Nat) : Statement (.matrixEntryExecute c) := nofun

theorem RoundTrip.growGrant (c : Nat) : Statement (.growGrant c) := nofun

theorem RoundTrip.growUrgent (c : Nat) : Statement (.growUrgent c) := nofun

theorem RoundTrip.notifyTailWrite (p : Nat) (f : Nat) (j : Nat) (v : Word) : Statement (.notifyTailWrite p f j v) := nofun

theorem RoundTrip.notifyLevelWrite (p : Nat) (f : Nat) (j : Nat) (v : Word) : Statement (.notifyLevelWrite p f j v) := nofun

theorem RoundTrip.completionHeadWrite (p : Nat) (f : Nat) (j : Nat) (v : Word) : Statement (.completionHeadWrite p f j v) := nofun

theorem RoundTrip.qiPacketFetch (p : Nat) (q : Nat) : Statement (.qiPacketFetch p q) := nofun

theorem RoundTrip.gridDispatch (p : Nat) (n : Nat) : Statement (.gridDispatch p n) := nofun

theorem RoundTrip.teamPlacement (p : Nat) (n : Nat) : Statement (.teamPlacement p n) := nofun

theorem RoundTrip.teamRestore (p : Nat) (n : Nat) : Statement (.teamRestore p n) := nofun

theorem RoundTrip.teamRetire (t : Nat) : Statement (.teamRetire t) := nofun

theorem RoundTrip.gridRetire (k : Nat) : Statement (.gridRetire k) := nofun

theorem RoundTrip.mailboxReplicate (m : Nat) : Statement (.mailboxReplicate m) := nofun

theorem RoundTrip.spanCopyReceive (p : Nat) : Statement (.spanCopyReceive p) := nofun

theorem RoundTrip.spanAck (m : Nat) : Statement (.spanAck m) := nofun

theorem RoundTrip.spanRefuse (m : Nat) : Statement (.spanRefuse m) := nofun

theorem RoundTrip.spanGo (p : Nat) : Statement (.spanGo p) := nofun

theorem RoundTrip.mailboxTimeout (m : Nat) (g : Nat) : Statement (.mailboxTimeout m g) := nofun

theorem RoundTrip.spanAbort (p : Nat) : Statement (.spanAbort p) := nofun

theorem RoundTrip.spanRetired (atModule : Bool) (i : Nat) : Statement (.spanRetired atModule i) := nofun

theorem RoundTrip.urgentPreempt (t : Nat) : Statement (.urgentPreempt t) := nofun

theorem RoundTrip.teamSave (t : Nat) : Statement (.teamSave t) := nofun

theorem RoundTrip.cooperativePreempt (t : Nat) : Statement (.cooperativePreempt t) := nofun

theorem RoundTrip.pptTimeout (t : Nat) : Statement (.pptTimeout t) := nofun

theorem RoundTrip.sliceExpiry (p : Nat) (n : Nat) : Statement (.sliceExpiry p n) := nofun

theorem RoundTrip.faultSave (t : Nat) : Statement (.faultSave t) := nofun

theorem RoundTrip.moduleReadRequest (m : Nat) (i : Nat) (w : Walk) : Statement (.moduleReadRequest m i w) := nofun

theorem RoundTrip.chunkSend (l : LinkId) (c : Choice) : Statement (.chunkSend l c) := nofun

theorem RoundTrip.chunkReceive (l : LinkId) (i : Nat) (w : Walk) : Statement (.chunkReceive l i w) := nofun

theorem RoundTrip.rtsArrival (e : End) (i : Nat) : Statement (.rtsArrival e i) := nofun

theorem RoundTrip.rtsRetry (x : Nat) : Statement (.rtsRetry x) := nofun

theorem RoundTrip.tokenIssue (e : End) : Statement (.tokenIssue e) := nofun

theorem RoundTrip.tokenExpiry (e : End) (x : Nat) (k : Nat) : Statement (.tokenExpiry e x k) := nofun

theorem RoundTrip.expiryNoticeReceive (e : End) (i : Nat) : Statement (.expiryNoticeReceive e i) := nofun

theorem RoundTrip.frozenTimeout (e : End) (x : Nat) : Statement (.frozenTimeout e x) := nofun

theorem RoundTrip.deferredReceive (e : End) (i : Nat) : Statement (.deferredReceive e i) := nofun

theorem RoundTrip.purgeComplete (e : End) (x : Nat) : Statement (.purgeComplete e x) := nofun

theorem RoundTrip.contextRevokeMessage (m : Nat) (i : Nat) : Statement (.contextRevokeMessage m i) := nofun

theorem RoundTrip.contextEnableMessage (m : Nat) (i : Nat) : Statement (.contextEnableMessage m i) := nofun

theorem RoundTrip.ackFlitReceive (l : LinkId) (i : Nat) : Statement (.ackFlitReceive l i) := nofun

theorem RoundTrip.ackFlitSend (l : LinkId) : Statement (.ackFlitSend l) := nofun

theorem RoundTrip.nakSend (l : LinkId) : Statement (.nakSend l) := nofun

theorem RoundTrip.replayTimeout (l : LinkId) : Statement (.replayTimeout l) := nofun

theorem RoundTrip.wavelengthFail (p : Nat) (m : Nat) (up : Bool) (planes : List Nat) : Statement (.wavelengthFail p m up planes) := nofun

theorem RoundTrip.laneSubst (p : Nat) (m : Nat) (up : Bool) (plane : Nat) : Statement (.laneSubst p m up plane) := nofun

theorem RoundTrip.spareLockTimeout (p : Nat) (m : Nat) (up : Bool) (plane : Nat) : Statement (.spareLockTimeout p m up plane) := nofun

theorem RoundTrip.spareLockFail (p : Nat) (m : Nat) (up : Bool) (plane : Nat) : Statement (.spareLockFail p m up plane) := nofun

theorem RoundTrip.resumeComplete (l : LinkId) : Statement (.resumeComplete l) := nofun

theorem RoundTrip.retrain (l : LinkId) (sw : Bool) : Statement (.retrain l sw) := nofun

theorem RoundTrip.retrainEnd (l : LinkId) (dead : List Nat) : Statement (.retrainEnd l dead) := nofun

theorem RoundTrip.laserAgeTick (atModule : Bool) (i : Nat) (plane : Nat) (laser : Nat) (drift : Int) : Statement (.laserAgeTick atModule i plane laser drift) := nofun

theorem RoundTrip.bucketRefill (m : Nat) : Statement (.bucketRefill m) := nofun

theorem RoundTrip.groupTimeout (m : Nat) (g : Nat) : Statement (.groupTimeout m g) := nofun

theorem RoundTrip.fenceComplete (i : Nat) : Statement (.fenceComplete i) := nofun

theorem RoundTrip.tfencectlModule (p : Nat) (n : Nat) (lm : Nat) : Statement (.tfencectlModule p n lm) := nofun

theorem RoundTrip.tfencectlDomain (p : Nat) (n : Nat) : Statement (.tfencectlDomain p n) := nofun

theorem RoundTrip.replayControlReplay (p : Nat) (n : Nat) (i : Nat) (w : Walk) : Statement (.replayControlReplay p n i w) := nofun

theorem RoundTrip.replayControlFail (p : Nat) (n : Nat) (i : Nat) : Statement (.replayControlFail p n i) := nofun

theorem RoundTrip.faultRecordWrite (p : Nat) (n : Nat) : Statement (.faultRecordWrite p n) := nofun

theorem RoundTrip.faultQueueHeadWrite (p : Nat) (n : Nat) (v : Word) : Statement (.faultQueueHeadWrite p n v) := nofun

theorem RoundTrip.eventRingHeadWrite (p : Nat) (n : Nat) (v : Word) : Statement (.eventRingHeadWrite p n v) := nofun

theorem RoundTrip.qicfgWrite (p : Nat) (q : Nat) (v : Word) : Statement (.qicfgWrite p q v) := nofun

theorem RoundTrip.pasidRevoke (p : Nat) (i : Nat) : Statement (.pasidRevoke p i) := nofun

theorem RoundTrip.pasidEnable (p : Nat) (i : Nat) (v : DWord) : Statement (.pasidEnable p i v) := nofun

theorem RoundTrip.pasidBusyClear (p : Nat) (i : Nat) : Statement (.pasidBusyClear p i) := nofun

theorem RoundTrip.vfRun (p : Nat) (v : Nat) : Statement (.vfRun p v) := nofun

theorem RoundTrip.vfPause (p : Nat) (v : Nat) : Statement (.vfPause p v) := nofun

theorem RoundTrip.vfDeschedule (p : Nat) (v : Nat) : Statement (.vfDeschedule p v) := nofun

theorem RoundTrip.vfDrain (p : Nat) (v : Nat) : Statement (.vfDrain p v) := nofun

theorem RoundTrip.flr (p : Nat) (v : Nat) : Statement (.flr p v) := nofun

theorem RoundTrip.vfTeardownComplete (p : Nat) (v : Nat) : Statement (.vfTeardownComplete p v) := nofun

theorem RoundTrip.counterLoad (p : Nat) (n : Nat) (c : Nat) (v : Word) : Statement (.counterLoad p n c v) := nofun

theorem RoundTrip.nearMapWrite (p : Nat) (n : Nat) (save : Bool) (i : Nat) (v : DWord) (fw : Bool) : Statement (.nearMapWrite p n save i v fw) := nofun

theorem RoundTrip.remapWrite (p : Nat) (k : Nat) (v : List Byte) (fw : Bool) : Statement (.remapWrite p k v fw) := nofun

theorem RoundTrip.channelAllocWrite (p : Nat) (m : Nat) (plane : Nat) (v : BitVec 16) : Statement (.channelAllocWrite p m plane v) := nofun

theorem RoundTrip.preemptUrgent (p : Nat) (n : Nat) (core : Nat) (slot : Nat) : Statement (.preemptUrgent p n core slot) := nofun

theorem RoundTrip.preemptCooperative (p : Nat) (n : Nat) (core : Nat) (slot : Nat) : Statement (.preemptCooperative p n core slot) := nofun

theorem RoundTrip.chanctlRecommission (p : Nat) (n : Nat) (m : Nat) : Statement (.chanctlRecommission p n m) := nofun

theorem RoundTrip.recommissionComplete (p : Nat) (dead : List Nat) : Statement (.recommissionComplete p dead) := nofun

theorem RoundTrip.hostNearAccess (p : Nat) (a : Nat) (x : HostAccess) : Statement (.hostNearAccess p a x) := nofun

theorem RoundTrip.hostFarAccess (p : Nat) (k : Nat) (o : Nat) (x : HostAccess) (w : Walk) : Statement (.hostFarAccess p k o x w) := nofun

theorem RoundTrip.mgmtApertureAccess (p : Nat) (m : Nat) (o : Nat) (x : HostAccess) (fw : Bool) : Statement (.mgmtApertureAccess p m o x fw) := nofun

theorem RoundTrip.garnetSnapshot (p : Nat) (n : Nat) : Statement (.garnetSnapshot p n) := nofun

theorem RoundTrip.garnetReset (p : Nat) (n : Nat) (mask : BitVec 256) (fw : Bool) : Statement (.garnetReset p n mask fw) := nofun

theorem RoundTrip.getVersion (p : Nat) : Statement (.getVersion p) := nofun

theorem RoundTrip.getCapabilities (p : Nat) : Statement (.getCapabilities p) := nofun

theorem RoundTrip.negotiateAlgorithms (p : Nat) : Statement (.negotiateAlgorithms p) := nofun

theorem RoundTrip.getDigests (p : Nat) : Statement (.getDigests p) := nofun

theorem RoundTrip.getCertificate (p : Nat) : Statement (.getCertificate p) := nofun

theorem RoundTrip.challenge (p : Nat) : Statement (.challenge p) := nofun

theorem RoundTrip.getMeasurements (p : Nat) (i : Nat) : Statement (.getMeasurements p i) := nofun

theorem RoundTrip.powerArbiterTick (p : Nat) (clocks : List Nat) : Statement (.powerArbiterTick p clocks) := nofun

theorem RoundTrip.powerGood (p : Nat) : Statement (.powerGood p) := nofun

theorem RoundTrip.registerWrite (p : Nat) (o : Nat) (v : DWord) (fw : Bool) : Statement (.registerWrite p o v fw) := nofun

theorem RoundTrip.waitevTimeout (t : Nat) : Statement (.waitevTimeout t) := nofun

theorem RoundTrip.localPiecePerformed (x : Nat) : Statement (.localPiecePerformed x) := nofun

theorem RoundTrip.moduleEngineCommand (m : Nat) (i : Nat) (w : Walk) : Statement (.moduleEngineCommand m i w) := nofun

theorem RoundTrip.moduleEngineCompletion (p : Nat) (i : Nat) : Statement (.moduleEngineCompletion p i) := nofun

theorem RoundTrip.codeFetch (k : Nat) (c : Nat) (line : Nat) (w : Walk) : Statement (.codeFetch k c line w) := nofun

theorem RoundTrip.softError (x : ErrSite) : Statement (.softError x) := nofun

end Sys2Proof.Laws
end

