-- ==== Sys2Proof/Laws/Sound.lean ====
section
/-! SUPPORT. The invariant of the state: what it says of each part, and that an update with a sound part keeps it. -/
namespace Sys2Proof.Laws
open Sys2Proof Sys2Proof.Machine

/-! ## The parts of a sound state -/

theorem team_blank_sound : Team.blank.sound = true := by decide
theorem stream_blank_sound (b e : Nat) : (Stream.blank 32 32 b e).sound = true := rfl

/-- The four parts of the invariant. -/
theorem sound_iff (s : State) : s.sound = true ↔
    s.host.wf = true ∧ (∀ e ∈ s.teams, e.2.sound = true) ∧ (∀ e ∈ s.pkgs, e.2.near.wf = true) ∧ ∀ e ∈ s.mods, e.2.sound = true := by
  simp [State.sound, and_assoc]

/-- Every team of a sound state is sound, an absent one too. -/
theorem sound_team {s : State} (h : s.sound = true) (k : Nat) : (s.team k).sound = true :=
  get_all (p := fun (x : Team) => x.sound = true) ((sound_iff s).1 h).2.1 team_blank_sound k
/-- The near memory of every package of a sound state is canonical. -/
theorem sound_pkg {s : State} (h : s.sound = true) (k : Nat) : (s.pkg k).near.wf = true :=
  get_all (p := fun (x : Pkg) => x.near.wf = true) ((sound_iff s).1 h).2.2.1 rfl k
/-- Every module of a sound state is sound. -/
theorem sound_mod {s : State} (h : s.sound = true) (k : Nat) : (s.mod k).sound = true :=
  get_all (p := fun (x : Machine.Module) => x.sound = true) ((sound_iff s).1 h).2.2.2 rfl k

/-- The parts of a sound team. -/
theorem team_sound_iff (x : Team) : x.sound = true ↔
    x.tiles.wf = true ∧ x.acc.wf = true ∧ x.scratch.wf = true ∧ x.ctl.sound = true ∧ (∀ e ∈ x.grps, e.2.sound = true) ∧
    x.queues.length = 4 ∧ x.sigs.length = 16 ∧ x.rvs.length = 24 ∧ x.tsh.length = 16 ∧ x.tls.length = 3 ∧ x.wins.length = 8 ∧
    x.abs.length = 16 ∧ x.specCounts.length = 4 := by
  simp [Team.sound, and_assoc]

/-- Every group of a sound team is sound, an absent one too. -/
theorem sound_grp {x : Team} (h : x.sound = true) (g : Nat) : (x.grp g).sound = true :=
  get_all (p := fun (y : Stream 32) => y.sound = true) ((team_sound_iff x).1 h).2.2.2.2.1 rfl g

/-- A sound stream has its lanes and its lists. -/
theorem stream_sound_iff {w : Nat} (st : Stream w) : st.sound = true ↔ st.shaped = true ∧ st.pend.Pairwise (fun p q => p.at_ ≤ q.at_) := by
  simp [Stream.sound]
/-- The number of lanes of a sound stream. -/
theorem sound_lanes {w : Nat} {st : Stream w} (h : st.sound = true) : st.n = if w = 64 then 1 else 32 := by
  have := ((stream_sound_iff st).1 h).1
  simp only [Stream.shaped, Bool.and_eq_true, beq_iff_eq] at this
  exact this.1.1.1.1.1

/-! ## Updates that keep the invariant -/

theorem sound_setTeam {s : State} (h : s.sound = true) (k : Nat) {x : Team} (hx : x.sound = true) : (s.setTeam k x).sound = true := by
  simp only [State.sound, Bool.and_eq_true, setTeam_host, setTeam_teams, setTeam_pkgs, setTeam_mods] at h ⊢
  exact ⟨⟨⟨h.1.1.1, all_set h.1.1.2 hx⟩, h.1.2⟩, h.2⟩
theorem sound_setPkg {s : State} (h : s.sound = true) (k : Nat) {x : Pkg} (hx : x.near.wf = true) : (s.setPkg k x).sound = true := by
  simp only [State.sound, Bool.and_eq_true, setPkg_host, setPkg_teams, setPkg_pkgs, setPkg_mods] at h ⊢
  exact ⟨⟨h.1.1, all_set h.1.2 hx⟩, h.2⟩
theorem sound_setMod {s : State} (h : s.sound = true) (k : Nat) {x : Module} (hx : x.sound = true) : (s.setMod k x).sound = true := by
  simp only [State.sound, Bool.and_eq_true, setMod_host, setMod_teams, setMod_pkgs, setMod_mods] at h ⊢
  exact ⟨h.1, all_set h.2 hx⟩
@[simp] theorem sound_setGrid (s : State) (k : Nat) (x : Grid) : (s.setGrid k x).sound = s.sound := rfl
@[simp] theorem sound_setCore (s : State) (k : Nat) (x : Core) : (s.setCore k x).sound = s.sound := rfl
@[simp] theorem sound_setLink (s : State) (l : LinkId) (x : Link) : (s.setLink l x).sound = s.sound := rfl
@[simp] theorem sound_setLane (s : State) (p m k : Nat) (u : Bool) (x : Lane) : (s.setLane p m k u x).sound = s.sound := rfl
theorem sound_setPart {s : State} (h : s.sound = true) (p n : Nat) (x : Part) : (s.setPart p n x).sound = true :=
  sound_setPkg h p (sound_pkg h p)
theorem sound_setQi {s : State} (h : s.sound = true) (p n : Nat) (x : Qi) : (s.setQi p n x).sound = true := sound_setPkg h p (sound_pkg h p)
theorem sound_setVf {s : State} (h : s.sound = true) (p n : Nat) (x : Vf) : (s.setVf p n x).sound = true := sound_setPkg h p (sound_pkg h p)
/-- Host memory written anew stays canonical. -/
theorem sound_host {s : State} (h : s.sound = true) (m : Memory) (hm : m.wf = true) : State.sound { s with host := m } = true := by
  simp only [State.sound, Bool.and_eq_true] at h ⊢
  exact ⟨⟨⟨hm, h.1.1.2⟩, h.1.2⟩, h.2⟩

theorem sound_setCtl {x : Team} (h : x.sound = true) {y : Stream 64} (hy : y.sound = true) : Team.sound { x with ctl := y } = true := by
  have := (team_sound_iff x).1 h
  exact (team_sound_iff _).2 ⟨this.1, this.2.1, this.2.2.1, hy, this.2.2.2.2⟩
theorem sound_setGrp {x : Team} (h : x.sound = true) (g : Nat) {y : Stream 32} (hy : y.sound = true) : (x.setGrp g y).sound = true := by
  simp only [Team.sound, Bool.and_eq_true, Team.setGrp] at h ⊢
  simp only [h, true_and, and_true]
  exact all_set h.1.1.1.1.1.1.1.1.2 hy

/-- A change of the current stream that keeps streams sound keeps the state sound. -/
theorem sound_modCur {s : State} (h : s.sound = true) {f : (w : Nat) → Stream w → Stream w}
    (hf : ∀ (w : Nat) (st : Stream w), st.sound = true → (f w st).sound = true) : (s.modCur f).sound = true := by
  unfold State.modCur
  split
  · exact sound_setTeam h _ (sound_setCtl (sound_team h _) (hf _ _ ((team_sound_iff _).1 (sound_team h _)).2.2.2.1))
  · exact sound_setTeam h _ (sound_setGrp (sound_team h _) _ (hf _ _ (sound_grp (sound_team h _) _)))
/-- The same for any stream. -/
theorem sound_modStream {s : State} (h : s.sound = true) (t : Nat) (q : Sel) {f : (w : Nat) → Stream w → Stream w}
    (hf : ∀ (w : Nat) (st : Stream w), st.sound = true → (f w st).sound = true) : (s.modStream t q f).sound = true := by
  cases q
  · exact sound_setTeam h _ (sound_setCtl (sound_team h _) (hf _ _ ((team_sound_iff _).1 (sound_team h _)).2.2.2.1))
  · exact sound_setTeam h _ (sound_setGrp (sound_team h _) _ (hf _ _ (sound_grp (sound_team h _) _)))

/-! ## Streams -/

theorem sound_setReg {w : Nat} {st : Stream w} (h : st.sound = true) (r : Nat) (v : List (Option (BitVec w))) : (st.setReg r v).sound = true := h
theorem sound_setPc {w : Nat} {st : Stream w} (h : st.sound = true) (m : Word) (n : Nat) : (st.setPc m n).sound = true := h
theorem sound_setState {w : Nat} {st : Stream w} (h : st.sound = true) (m : Word) (x : LaneState) : (st.setState m x).sound = true := h
theorem sound_latch {w : Nat} {st : Stream w} (h : st.sound = true) (p : Nat) (v : List (Option (BitVec w))) : (st.latch p v).sound = true := h
theorem sound_setPred {w : Nat} {st : Stream w} (h : st.sound = true) (k : Nat) (v : List (Option Bool)) : (st.setPred k v).sound = true := by
  unfold Stream.setPred; split <;> exact h
theorem sound_leavePkt {w : Nat} {st : Stream w} (h : st.sound = true) (m : Word) : (st.leavePkt m).sound = true := by
  unfold Stream.leavePkt; split <;> exact h
theorem sound_advance {w : Nat} {st : Stream w} (h : st.sound = true) : st.advance.sound = true := by
  unfold Stream.advance; split <;> exact h
theorem sound_flags {w : Nat} {st : Stream w} (h : st.sound = true) {l : List Nat} (hl : l.length = st.flags.length) :
    Stream.sound { st with flags := l } = true := by
  simp only [Stream.sound, Stream.shaped, hl] at h ⊢
  exact h
theorem sound_raise {w : Nat} {st : Stream w} (h : st.sound = true) (f : Option Nat) : (st.raise f).sound = true := by
  cases f with
  | none => exact h
  | some k => exact sound_flags h (by simp)
theorem sound_lower {w : Nat} {st : Stream w} (h : st.sound = true) (f : Option Nat) : (st.lower f).sound = true := by
  cases f with
  | none => exact h
  | some k => exact sound_flags h (by simp)

/-- What is due next stays in the order of cycles when a result is put in. -/
theorem insertPend_sorted {w : Nat} (p : PendWrite w) (l : List (PendWrite w)) (h : l.Pairwise (fun p q => p.at_ ≤ q.at_)) :
    (insertPend p l).Pairwise (fun p q => p.at_ ≤ q.at_) := by
  have mem : ∀ (l : List (PendWrite w)) (x : PendWrite w), x ∈ insertPend p l → x = p ∨ x ∈ l := by
    intro l
    induction l with
    | nil => intro x hx; simpa [insertPend] using hx
    | cons q l ih =>
      intro x hx
      unfold insertPend at hx
      split at hx
      · simpa using hx
      · rcases List.mem_cons.1 hx with rfl | hx
        · simp
        · rcases ih x hx with h | h <;> simp [h]
  induction l with
  | nil => simp [insertPend]
  | cons q l ih =>
    have h' := List.pairwise_cons.1 h
    unfold insertPend
    split
    · rename_i hlt
      refine List.pairwise_cons.2 ⟨?_, h⟩
      intro x hx
      rcases List.mem_cons.1 hx with rfl | hx
      · omega
      · have := h'.1 x hx; omega
    · rename_i hge
      refine List.pairwise_cons.2 ⟨?_, ih h'.2⟩
      intro x hx
      rcases mem l x hx with rfl | hx
      · omega
      · exact h'.1 x hx

/-- Dropping lanes of a result keeps its cycle. -/
@[simp] theorem drop_at {w : Nat} (p : PendWrite w) (k : Nat) (d : Dest) (v : List (Option (BitVec w))) : (p.drop k d v).at_ = p.at_ := by
  unfold PendWrite.drop; split <;> rfl

/-- A result keeps a stream sound. -/
theorem sound_resultF {w : Nat} {st : Stream w} (h : st.sound = true) (f : Option Nat) (clk lat : Nat) (d : Dest) (v : List (Option (BitVec w))) :
    (st.resultF f clk lat d v).sound = true := by
  have hr := (stream_sound_iff _).1 (sound_raise h f)
  refine (stream_sound_iff _).2 ⟨hr.1, insertPend_sorted _ _ ?_⟩
  rw [List.pairwise_map]
  simpa using ((stream_sound_iff _).1 h).2
theorem sound_result {w : Nat} {st : Stream w} (h : st.sound = true) (clk lat : Nat) (d : Dest) (v : List (Option (BitVec w))) :
    (st.result clk lat d v).sound = true := sound_resultF h _ _ _ _ _
theorem sound_produce {w : Nat} {st : Stream w} (h : st.sound = true) (clk : Nat) (p : Pipe) (d : Option Dst) (v : List (Option (BitVec w))) :
    (st.produce clk p d v).sound = true := by
  have hl : (match latchOf p with | some k => st.latch k v | none => st).sound = true := by split <;> exact h
  unfold Stream.produce
  dsimp only
  split <;> exact sound_result hl _ _ _ _
/-- A stream with other registers, predicates and masks kept for its handler is in shape as before. -/
theorem sound_handler {w : Nat} {st : Stream w} (h : st.sound = true) {k : Handler w} (h1 : k.shadow.length = 4) (h2 : k.masks.length = 12) :
    Stream.sound { st with handler := some k } = true := by
  simp only [Stream.sound, Stream.shaped, Bool.and_eq_true] at h ⊢
  exact ⟨⟨⟨h.1.1.1, by simp [h1, h2]⟩, h.1.2⟩, h.2⟩
theorem sound_writeBy {w : Nat} {st : Stream w} (h : st.sound = true) (pkt : Nat) {f : Stream w → Stream w}
    (hf : ∀ t : Stream w, t.sound = true → (f t).sound = true) : (st.writeBy pkt f).sound = true := by
  unfold Stream.writeBy
  dsimp only
  split
  · rename_i k hk
    split
    · exact hf _ h
    · have hs : (k.shadow.length == 4 && k.masks.length == 12) = true := by
        simp only [Stream.sound, Stream.shaped, Bool.and_eq_true, hk] at h
        simpa using h.1.1.2
      simp only [Bool.and_eq_true, beq_iff_eq] at hs
      exact sound_handler (hf _ h) hs.1 hs.2
  · exact hf _ h
theorem sound_land {w : Nat} {st : Stream w} (h : st.sound = true) (p : PendWrite w) : (st.land p).sound = true := by
  unfold Stream.land
  split
  · exact sound_lower (sound_writeBy h _ (fun t ht => sound_setReg ht _ _)) _
  · exact sound_lower (sound_writeBy h _ (fun t ht => sound_setPred ht _ _)) _
theorem sound_landLatch {w : Nat} {st : Stream w} (h : st.sound = true) (p : LatchWrite w) : (st.landLatch p).sound = true := by
  unfold Stream.landLatch
  simp only [Stream.sound, Stream.shaped, length_setAt] at h ⊢
  exact h
theorem sound_fold {w : Nat} {α : Type} (f : Stream w → α → Stream w) (hf : ∀ st a, st.sound = true → (f st a).sound = true) (l : List α)
    {st : Stream w} (h : st.sound = true) : (l.foldl f st).sound = true := by
  induction l generalizing st with
  | nil => exact h
  | cons a l ih => exact ih (hf st a h)
/-- Making results visible keeps a stream sound. -/
theorem sound_settle {w : Nat} {st : Stream w} (h : st.sound = true) (clk : Nat) (c : Bool) : (st.settle clk c).sound = true := by
  have h0 : Stream.sound { st with pend := st.pend.filter (fun p => clk < p.at_) } = true :=
    (stream_sound_iff _).2 ⟨((stream_sound_iff _).1 h).1, ((stream_sound_iff _).1 h).2.filter _⟩
  have h1 := sound_fold Stream.land (fun st p h => sound_land h p) (st.pend.filter (fun p => p.at_ ≤ clk)) h0
  unfold Stream.settle
  split
  · exact h1
  · exact sound_fold Stream.landLatch (fun st p h => sound_landLatch h p) _ h1

/-- The end of a slot keeps the state sound. -/
theorem sound_done {s : State} (h : s.sound = true) : s.done.sound = true := sound_modCur h (fun _ _ h => sound_advance h)

end Sys2Proof.Laws
end

