-- ==== Sys2Proof/Laws/Slots.lean ====
section
/-! SUPPORT. What the shared operations of a slot come to: the checks before an instruction, the end of a slot, a trap, a wait,
and the results that an instruction starts. -/
namespace Sys2Proof.Laws
open Sys2Proof Sys2Proof.Machine

/-! ## The checks before an instruction -/

/-- An instruction that is ready goes on with the values at the fronts of the queues that it is to pop. -/
theorem withPeek_ready {s : State} {u : Use} {act : Word} (h : s.ready u act = true) (k : State → Map Word → List Nat → State) :
    s.withPeek u act k = k s (s.fronts u act) (s.popped u act) := by
  simp only [State.ready, Bool.and_eq_true, Bool.not_eq_true'] at h
  obtain ⟨⟨⟨⟨⟨⟨⟨⟨h1, h2⟩, h3⟩, hc⟩, h4⟩, h5⟩, h6⟩, h8⟩, h7⟩ := h
  have e3 : (latchSrcs s.inLane (s.onCur fun _ st => st.blocks) u.srcs).any (fun i => !s.onCur (fun _ st => st.latchOk i)) = false := by
    rw [List.any_eq_false]
    intro x hx
    simpa using List.all_eq_true.1 h3 x hx
  have e5 : (latchSrcs s.inLane (s.onCur fun _ st => st.blocks) u.srcs).any (fun i => s.onCur (fun _ st => st.latchBusy i)) = false := by
    rw [List.any_eq_false]
    intro x hx
    simpa using List.all_eq_true.1 h5 x hx
  unfold State.withPeek
  simp only [h1, h2.1, h2.2, hc, h4, h6, e3, e5, Bool.not_true, Bool.false_eq_true, if_false, Bool.and_self, Bool.or_self]
  by_cases ha : act = 0#32
  · simp [ha, State.fronts, State.popped]
  · by_cases hq : queueSrcs s.inLane (s.onCur fun _ st => st.blocks) u.srcs = []
    · simp [hq, State.fronts, State.popped]
    · have e7 : (queueSrcs s.inLane (s.onCur fun _ st => st.blocks) u.srcs).any (fun i => (s.curT.front i (s.clkOf s.curTeam)).isNone) = false := by
        rw [List.any_eq_false]
        intro x hx
        have := List.all_eq_true.1 h7 x (by simp [State.popped, ha, hx])
        cases hf : s.curT.front x (s.clkOf s.curTeam) <;> simp_all
      have hn : (queueSrcs s.inLane (s.onCur fun _ st => st.blocks) u.srcs).isEmpty = false := by simpa using hq
      have e8 : (u.mem && s.onCur fun _ st => st.storesBefore) = false := by
        have hp : s.popped u act = queueSrcs s.inLane (s.onCur fun _ st => st.blocks) u.srcs := by simp [State.popped, ha]
        rw [hp, hn] at h8
        simpa using h8
      simp [ha, hn, e7, e8, State.fronts, State.popped]

/-- An instruction that is ready goes on after its pops. -/
theorem withUse_ready {s : State} {u : Use} {act : Word} (h : s.ready u act = true) (k : State → Map Word → State) :
    s.withUse u act k = k ((s.popped u act).foldl State.pop s) (s.fronts u act) := withPeek_ready h _

/-- An instruction without queues among its sources pops nothing. -/
theorem withUse_quiet {s : State} {u : Use} {act : Word} (h : s.ready u act = true) (hq : u.srcs = []) (k : State → Map Word → State) :
    s.withUse u act k = k s [] := by
  have hp : s.popped u act = [] := by simp [State.popped, hq, queueSrcs]
  rw [withUse_ready h, State.fronts, hp]
  rfl

/-- What an instruction that comes to x before its own meaning came to: a trap, a paused speculation, a wait of its chain, a wait
of its own, or its meaning. -/
def Checked (s x : State) (k : State → Map Word → List Nat → State) : Prop :=
  (∃ e, x = s.trap e ∧ (e = .illegalOpcode ∨ e = .illegalOperand ∨ e = .latchStale ∨ e = .illegalConvergence)) ∨
  x = s.pauseSpec ∨ x = s.waitSlot ∨ x = s.holdSlot [] ∨ ∃ m q, x = k s m q

/-- A choice between two outcomes of the checks is one. -/
theorem checked_ite {s x y : State} {k : State → Map Word → List Nat → State} {c : Prop} [Decidable c]
    (hx : Checked s x k) (hy : Checked s y k) : Checked s (if c then x else y) k := by
  split <;> assumption

/-- What may become of an instruction before its own meaning: it goes on, traps, pauses a speculation or waits. -/
theorem withPeek_cases (s : State) (u : Use) (act : Word) (k : State → Map Word → List Nat → State) :
    Checked s (s.withPeek u act k) k :=
  checked_ite (.inl ⟨_, rfl, .inl rfl⟩) <| checked_ite (.inl ⟨_, rfl, .inr (.inl rfl)⟩) <|
  checked_ite (.inl ⟨_, rfl, .inr (.inr (.inl rfl))⟩) <| checked_ite (.inl ⟨_, rfl, .inr (.inr (.inr rfl))⟩) <|
  checked_ite (.inr (.inl rfl)) <| checked_ite (.inr (.inr (.inl rfl))) <|
  checked_ite (.inr (.inr (.inr (.inr ⟨_, _, rfl⟩)))) <|
  checked_ite (checked_ite (.inr (.inr (.inr (.inr ⟨_, _, rfl⟩)))) (.inr (.inr (.inr (.inl rfl))))) <|
  checked_ite (.inr (.inr (.inl rfl))) <| .inr (.inr (.inr (.inr ⟨_, _, rfl⟩)))

/-! ## How a slot ends -/

@[simp] theorem trap_marks (s : State) (x : Trap) (slot imm : Nat) (l : List Nat) : (s.takeTrap x slot imm l).slotEnd = .trapped x imm l := by
  unfold State.takeTrap
  dsimp only
  repeat' split
  all_goals rfl
@[simp] theorem trap_slotEnd (s : State) (x : Trap) : (s.trap x).slotEnd = .trapped x 0 [] := trap_marks ..
@[simp] theorem trapAt_slotEnd (s : State) (x : Trap) (l : List Nat) : (s.trapAt x l).slotEnd = .trapped x 0 l := trap_marks ..
@[simp] theorem holdSlot_slotEnd (s : State) (l : List Byte) : (s.holdSlot l).slotEnd = .held := rfl
@[simp] theorem waitSlot_slotEnd (s : State) : s.waitSlot.slotEnd = .waits := rfl
@[simp] theorem pauseSpec_slotEnd (s : State) : s.pauseSpec.slotEnd = .held := modCur_slotEnd ..

/-- A stream that waits keeps its registers, its predicates and what is in flight. -/
theorem holdHere_keeps {w : Nat} (st : Stream w) (clk : Nat) (l : List Byte) :
    (st.holdHere clk l).regs = st.regs ∧ (st.holdHere clk l).preds = st.preds ∧ (st.holdHere clk l).pend = st.pend ∧
    (st.holdHere clk l).acc = st.acc ∧ (st.holdHere clk l).stores = st.stores ∧ (st.holdHere clk l).masks = st.masks ∧
    (st.holdHere clk l).flags = st.flags := by
  unfold Stream.holdHere; split <;> simp [Stream.setPc]

/-- A lane of a stream after the end of a slot. -/
theorem advance_pcOf {w : Nat} (st : Stream w) (l : Nat) (hl : l < st.n) :
    st.advance.pcOf l = if st.ex.getLsbD l then nextSlot st.pc st.litNext else st.pcOf l := by
  unfold Stream.advance Stream.ex Stream.pc
  split
  · rename_i k hk
    simp [Stream.pcOf, Stream.setPc, List.getD, hl]
  · simp

/-- The end of a slot moves the lanes in it, and changes nothing else of the stream. -/
theorem advance_moved {w : Nat} (st : Stream w) : st.moved st.advance := by
  refine ⟨?_, fun l hl => advance_pcOf st l hl⟩
  unfold Stream.advance
  split <;> simp [Stream.setPc]

/-! ## Results in flight (R67) -/

/-- A register of a stream after it is written. -/
theorem reg_setReg {w : Nat} (st : Stream w) (r k l : Nat) (v : List (Option (BitVec w))) (hl : l < st.n) :
    (st.setReg r v).reg k l = if k = r then (v.getD l none).getD (st.reg k l) else st.reg k l := by
  unfold Stream.setReg Stream.reg
  simp only [get_set]
  split
  · rename_i h
    subst h
    rw [getD_overlay _ _ _ _ _ hl]
  · rfl

/-- The queues that a result stands in do not change what is visible before its cycle. -/
theorem result_pend {w : Nat} (st : Stream w) (f : Option Nat) (clk lat : Nat) (d : Dest) (v : List (Option (BitVec w))) :
    (st.resultF f clk lat d v).pend =
      insertPend { at_ := clk + lat, pkt := st.pktNo, dest := d, flag := f, vals := v } (st.pend.map (fun p => p.drop st.pktNo d v)) := rfl

end Sys2Proof.Laws
end

