-- ==== Sys2Proof/Tests/Slice0.lean ====
section
/-! SUPPORT. Tests: ill-formed terms, the words of the opcode table and of the spec's examples, single steps whose results are
worked out from the spec, and for every statement a state that meets its hypotheses. -/
namespace Sys2Proof.Tests
open Sys2Proof Sys2Proof.Machine

set_option maxRecDepth 20000
set_option Elab.async false

/-! ## Well-formedness: for each check a term that it refuses, in the lane or the control stream -/

theorem test_wf_destinations : ∀ e ∈ ([(true, .add false 48 1 2 0), (true, .add true 1 1 2 0), (false, .add false 32 1 2 0),
    (true, .mov false 56 1 0), (true, .movi true 2 0), (true, .ptov true 3), (true, .ballot false 60 1), (true, .maskopRead false 62 1),
    (true, .add64 false 3 2 4 0), (true, .ffma64 true 2 2 4 0), (true, .cvt false 3 2 .f64 .f32 .rne), (false, .rvstat 40 false),
    (true, .srr 3 0), (false, .srr 33 0), (false, .waitev 36 1 0)] : List (Bool × Instr)), Instr.wf e.1 e.2 = false := by decide

theorem test_wf_sources : ∀ e ∈ ([(true, .add false 1 61 2 0), (true, .sub false 1 1 63 0), (false, .xor false 1 40 2 0), (true, .mov false 1 61 0),
    (true, .popc false 1 63), (true, .bfi false 1 2 61), (true, .vtop 61), (true, .shflIdx false 1 63 2), (true, .fadd false 1 2 61 0),
    (true, .add64 false 2 3 4 0), (true, .icmp64 1 .eq .set 3 2), (true, .fcmp 1 .eq .set 63 2), (true, .txexp false 1 61 .rne false),
    (true, .brx 61 0), (true, .maskopWrite 63 1), (true, .tld 0 61 1 false), (false, .qpush 40 0), (false, .launch 50), (false, .rvinit 41 0),
    (false, .srw 63 0), (false, .fetch 32 1 0 0 0), (false, .engmFill 1 33 0), (false, .wincfg 63 0 0), (false, .abinit 1 40 0),
    (false, .waitt 1 39 0)] : List (Bool × Instr)), Instr.wf e.1 e.2 = false := by decide

theorem test_wf_streams : ∀ e ∈ ([(false, .add64 false 2 2 4 0), (false, .fadd false 1 2 3 0), (false, .pany 1 2), (false, .join 1), (false, .ppt),
    (false, .mmaBf16 0 0 0 false), (false, .accz 0 0), (false, .growReq 1 1), (false, .atfp .add 1 2 3 .rlx), (true, .tfence false 1),
    (true, .rvinit 1 1), (true, .qpush 1 1), (true, .launch 1), (true, .taskdec 1), (true, .waitev 1 1 0), (true, .fetch 1 2 0 0 0),
    (true, .wincfg 1 0 0), (true, .waita 1 0)] : List (Bool × Instr)), Instr.wf e.1 e.2 = false := by decide

theorem test_wf_numbers : ∀ e ∈ ([(true, .shli false 1 2 32), (false, .sari false 1 2 64), (true, .icmp 0 .eq .set 1 2), (true, .pand 0 1 2),
    (true, .por 1 32 2), (true, .pmov 1 40), (true, .join 12), (true, .waitm 15), (true, .maskopClear 12), (true, .rvarrive 24),
    (true, .rvwait false 31), (true, .growReq 0 1), (true, .growRel 32 1), (true, .growReq 1 0), (true, .mmaTe8 0 0 0 24 false),
    (false, .tfence true 1), (false, .waita 0 1), (false, .waitt 1 2 3), (true, .cvt false 1 2 .te8 .f32 .rne), (true, .lds true 1 2 .b32 0),
    (true, .lds false 2 2 .b128 0), (true, .sts 3 2 .b64 0), (true, .ats .load 55 1 0 .rlx), (true, .ats .store 1 2 3 .rlx),
    (true, .atn .cas 55 2 3 .rlx)] : List (Bool × Instr)), Instr.wf e.1 e.2 = false := by decide

theorem test_wf_events : ∀ e ∈ ([.specCheckpoint 1 16, .localAccessComplete 1 (.grp 16) 1 0, .farAtomicReply 64 1, .matrixEntryExecute 65536,
    .notifyTailWrite 0 1025 0 0, .qiPacketFetch 0 4096, .gridDispatch 0 32, .spanRetired true 64, .chunkSend ⟨0, 33, 0, true⟩ .message,
    .rtsArrival (.mod 64) 1, .laneSubst 0 0 true 16, .laserAgeTick true 0 0 68 0, .tfencectlModule 0 0 64] : List Instr),
    Instr.wf true e = false := by decide

/-! ## Decoding: one word for each encoded row of the opcode table, composed from the row's fixed bits and fields -/

theorem test_words_0 : ∀ e ∈ ([(0x00000000, .nop),
    (0x01FA5355, .add true 61 10 26 21),
    (0x020BAC64, .sub false 5 53 35 4),
    (0x03CC2771, .mul true 38 4 59 17),
    (0x0406338E, .mulh false 3 6 28 14),
    (0x0520348E, .mulhu false 16 6 36 14),
    (0x066B291F, .mad false 53 37 8 31),
    (0x07534CDF, .and false 41 41 38 31),
    (0x084B3342, .or false 37 38 26 2),
    (0x090726E5, .xor false 3 36 55 5),
    (0x0AB65464, .andn true 27 10 35 4),
    (0x0BC9AD86, .shl true 36 53 44 6),
    (0x0C4D2D27, .shr false 38 37 41 7),
    (0x0D8F25C3, .sar true 7 36 46 3),
    (0x0E507416, .min false 40 14 32 22),
    (0x0FE4ABD3, .max true 50 21 30 19),
    (0x10B0A21A, .minu true 24 20 16 26),
    (0x115B9203, .maxu false 45 50 16 3),
    (0x12C5072B, .sel true 34 32 57 11),
    (0x13A73803, .mov true 19 39 3),
    (0x1442D979, .add64 false 33 27 11 25),
    (0x1595E40E, .sub64 true 10 60 32 14)] : List (Nat × Instr)), decodeWord e.1 = .ok e.2 := by decide

theorem test_words_1 : ∀ e ∈ ([(0x167D58B9, .mul64 false 62 43 5 25),
    (0x17AD6AF4, .shl64 true 22 45 23 20),
    (0x18CDA3C3, .shr64 true 38 52 30 3),
    (0x197A93F7, .sar64 false 61 18 31 23),
    (0x1A097D9D, .addi false 4 47 1437),
    (0x1BD52FF2, .andi true 42 37 2034),
    (0x1CA77317, .ori true 19 46 791),
    (0x1D85EBB2, .xori true 2 61 946),
    (0x1E9740F0, .shli true 11 40 240),
    (0x1F887626, .shri true 4 14 1574),
    (0x209381FC, .sari true 9 48 508),
    (0x21B40756, .movi true 26 1878),
    (0x228C5800, .popc true 6 11),
    (0x22B52001, .clz true 26 36),
    (0x22F24802, .ctz true 57 9),
    (0x22F12003, .brev true 56 36),
    (0x22DCD804, .not true 46 27),
    (0x22D9C805, .neg true 44 57),
    (0x22FC7806, .abs true 62 15),
    (0x220C6007, .sext8 false 6 12),
    (0x221F5808, .sext16 false 15 43),
    (0x22030009, .zext8 false 1 32)] : List (Nat × Instr)), decodeWord e.1 = .ok e.2 := by decide

theorem test_words_2 : ∀ e ∈ ([(0x2222980A, .zext16 false 17 19),
    (0x2314DC60, .bfx false 10 27 35),
    (0x23D12AA1, .bfxn true 40 37 21),
    (0x235BBC22, .bfi false 45 55 33),
    (0x233DD703, .bmix false 30 58 56),
    (0x24CC369A, .icmp 25 .gtn .xor 26 26),
    (0x2568BA5A, .icmp64 13 .ne .xor 41 26),
    (0x260868A0, .pand 4 13 5),
    (0x261CE961, .por 14 29 11),
    (0x2610B4E2, .pxor 8 22 39),
    (0x26083823, .pandn 4 7 1),
    (0x264A5004, .pnot 37 10),
    (0x26463805, .pmov 35 7),
    (0x26D00006, .ptov true 40),
    (0x26001007, .vtop 2),
    (0x26707008, .ballot false 56 14),
    (0x2650C809, .pany 40 25),
    (0x2615480A, .pall 10 41),
    (0x27FCBCE0, .shflIdx true 62 23 39),
    (0x27BE4101, .shflUp true 31 8 8),
    (0x27FEF3E2, .shflDn true 63 30 31),
    (0x27A83143, .shflXor true 20 6 10)] : List (Nat × Instr)), decodeWord e.1 = .ok e.2 := by decide

theorem test_words_3 : ∀ e ∈ ([(0x2760B004, .bcast false 48 22),
    (0x27BFB005, .lredAdd true 31 54),
    (0x27441006, .lredMin false 34 2),
    (0x277BE807, .lredMax false 61 61),
    (0x27956808, .lredFadd true 10 45),
    (0x27631009, .lscanAdd false 49 34),
    (0x28FF5703, .fadd true 63 42 56 3),
    (0x29C4C766, .fsub true 34 24 59 6),
    (0x2AE47C72, .fmul true 50 15 35 18),
    (0x2BD27D1A, .ffma true 41 15 40 26),
    (0x2C6886AD, .fmin false 52 16 53 13),
    (0x2D1B140C, .fmax false 13 34 32 12),
    (0x2E059A50, .fadd64 false 2 51 18 16),
    (0x2F9B6CFF, .fmul64 true 13 45 39 31),
    (0x30BBA798, .ffma64 true 29 52 60 24),
    (0x31FDFB03, .hxadd true 62 63 24 3),
    (0x320E7BE7, .hxmul false 7 15 31 7),
    (0x339CFD1D, .hxfma true 14 31 40 29),
    (0x343FDD4C, .bxadd false 31 59 42 12),
    (0x356D591E, .bxmul false 54 43 8 30),
    (0x36E77627, .bxfma true 51 46 49 7),
    (0x37F26000, .fabs true 57 12)] : List (Nat × Instr)), decodeWord e.1 = .ok e.2 := by decide

theorem test_words_4 : ∀ e ∈ ([(0x37E74801, .fneg true 51 41),
    (0x378DA002, .frcp true 6 52),
    (0x37BCD003, .frsq true 30 26),
    (0x375E5804, .fsqrt false 47 11),
    (0x37121005, .fexp2 false 9 2),
    (0x374DD006, .flog2 false 38 58),
    (0x37E95007, .fsinpi true 52 42),
    (0x3751A808, .fcospi false 40 53),
    (0x37D7E009, .ffloor true 43 60),
    (0x3795200A, .fceil true 10 36),
    (0x3704080B, .ftrunc false 2 1),
    (0x3745800C, .frint false 34 48),
    (0x3739C00D, .fclass false 28 56),
    (0x3839844E, .fcmp 7 .le .set 17 14),
    (0x3951C551, .fcmp64 10 .le .andNot 21 17),
    (0x3AEC485A, .cvt true 54 9 .i32 .n8 .rup),
    (0x3BD736B2, .txcvPack true 43 38 53 .rto true),
    (0x3B465451, .txcvUnpack false 35 10 34 .rto false),
    (0x3CE46010, .txexp true 50 12 .rto false),
    (0x4018539F, .lds false 12 10 .b64 159),
    (0x415E4410, .sts 47 8 .b128 16),
    (0x42D9148F, .ldn true 44 34 .b128 143)] : List (Nat × Instr)), decodeWord e.1 = .ok e.2 := by decide

theorem test_words_5 : ∀ e ∈ ([(0x433F98E3, .stn 31 51 .b8 227),
    (0x44811036, .ats .xchg 4 16 13 .rel),
    (0x450C8787, .atn .add 50 7 33 .acqrel),
    (0x4680B1E8, .atfp .xchg 2 49 58 .rlx),
    (0x477568FD, .atfd .xor 21 40 63 .acq),
    (0x48B49D87, .atfs .fmin 18 29 33 .acqrel),
    (0x49821301, .mmaBf16 520 4 12 true),
    (0x4AEC67C0, .mmaF16 945 9 15 false),
    (0x4BD760DC, .mmaTe8 861 8 3 14 false),
    (0x4C64A186, .mmaTe4 402 8 6 3 false),
    (0x4D6DC901, .mmaF32 439 2 4 true),
    (0x4ED23A00, .tld 13 8 58 false),
    (0x4FCAAB01, .tst 12 42 43 true),
    (0x50000005, .phase .die .rel),
    (0x5100003E, .tfence false 62),
    (0x52000001, .drain .near),
    (0x53387000, .accz 225 12),
    (0x53F4082E, .accrd 976 2 .rdn true),
    (0x5329EC40, .accwr 167 11),
    (0x53D55060, .accadd 853 4),
    (0x53000C80, .tzero 3),
    (0x58B9B9E1, .bra 23 113121)] : List (Nat × Instr)), decodeWord e.1 = .ok e.2 := by decide

theorem test_words_6 : ∀ e ∈ ([(0x59899D81, .call 17 105857),
    (0x5A01600E, .brx 22 14),
    (0x5B00D00C, .ret 13 12),
    (0x5C00000B, .exit 11),
    (0x5D000002, .join 2),
    (0x5E00000C, .leave 12),
    (0x5F000006, .waitm 6),
    (0x602C0480, .maskopRead false 22 36),
    (0x6000F3A1, .maskopWrite 30 29),
    (0x600005C2, .maskopClear 46),
    (0x6103E000, .ppt),
    (0x6400200D, .rvinit 2 13),
    (0x6500000B, .rvarrive 11),
    (0x66000031, .rvwait true 17),
    (0x67F80000, .rvstat 62 false),
    (0x68008001, .qpush 8 1),
    (0x6900000F, .sigset 15),
    (0x6A000002, .sigwait false 2),
    (0x6C440012, .growReq 17 18),
    (0x6C0C083A, .growRel 3 58),
    (0x6D032000, .launch 50),
    (0x6E00002F, .taskdec 47)] : List (Nat × Instr)), decodeWord e.1 = .ok e.2 := by decide

theorem test_words_7 : ∀ e ∈ ([(0x6F000000, .yield),
    (0x70480C18, .srr 18 3096),
    (0x71009D1E, .srw 9 3358),
    (0x720006C2, .trap 1730),
    (0x73000D98, .brk 3480),
    (0x74000001, .tret true),
    (0x7568A009, .waitev 26 10 9),
    (0x76EE19C6, .fetch 59 33 19 8 6),
    (0x7754648F, .put 21 6 9 1 7),
    (0x78B4C778, .copyl 45 12 14 15),
    (0x79152F8E, .fetchr 5 18 31 1 6),
    (0x7A1B4000, .engmGcreate 6 52),
    (0x7A446100, .engmGready 17 6),
    (0x7A9A7200, .engmGdestroy 39),
    (0x7ADCF318, .engmFill 55 15 3),
    (0x7A478420, .engmCopyf 17 56 4),
    (0x7B78000B, .wincfg 30 1 3),
    (0x7C91B078, .abinit 36 27 15),
    (0x7DEC0028, .waita 59 5),
    (0x7EA09001, .waitt 40 9 1)] : List (Nat × Instr)), decodeWord e.1 = .ok e.2 := by decide

/-- The examples that the rules give. -/
theorem test_words_examples : ∀ e ∈ ([(0x00000000, .nop), (0x01060840, .add false 3 1 2 0), (0x1205F6E2, .sel false 2 62 55 2),
    (0x1A0A2FFD, .addi false 5 5 0x7FD), (0x27122005, .lredAdd false 9 4), (0x2B1010A3, .ffma false 8 2 5 3),
    (0x33080840, .hxfma false 4 1 2 0), (0x382B2042, .fcmp 5 .un .or 1 2), (0x3A821520, .cvt true 1 2 .i8 .f32 .rne),
    (0x3B185943, .txcvUnpack false 12 11 10 .rne true), (0x42842100, .ldn true 2 4 .b16 0), (0x4490C214, .ats .cas 3 2 5 .rlx),
    (0x4E108301, .tld 1 2 3 true), (0x53000820, .accrd 0 2 .rne false), (0x51000040, .tfence true 0), (0x5B02F000, .ret 47 0),
    (0x600030A1, .maskopWrite 6 5), (0x6103E000, .ppt), (0x70140041, .srr 5 0x041), (0x7524A005, .waitev 9 10 5), (0x7CFA6010, .abinit 62 38 2),
    (0x7D040010, .waita 1 2)] : List (Nat × Instr)), decodeWord e.1 = .ok e.2 := by decide

/-- A must-be-zero bit, a reserved code and a reserved major are no instruction. -/
theorem test_words_refused :
    decodeWord 0x00000001 = .illegalOperand ∧ decodeWord 0x13000020 = .illegalOperand ∧ decodeWord 0x2200000B = .illegalOpcode ∧
    decodeWord 0x49000002 = .illegalOperand ∧ decodeWord 0x54000000 = .illegalOpcode ∧ decodeWord 0x7F000000 = .illegalOpcode ∧
    decodeWord 0x6103D000 = .illegalOperand ∧ decodeWord 0x24050000 = .illegalOpcode := by decide

/-- The same word with C = 1 is the same instruction. -/
theorem test_words_chain : decodeWord 0x81060840 = .ok (.add false 3 1 2 0) ∧ chainBit 0x81060840 = true := by decide

/-- encode writes the examples of the spec. -/
theorem test_encode_examples : encode (.add false 3 1 2 0) = some 0x01060840#32 ∧ encode (.bra 2 0x3FFF8#18) = some 0x5813FFF8#32 ∧
    encode (.waitt 3 7 0) = some 0x7E0C7000#32 ∧ encode (.teamRetire 1) = none := by decide

/-! ## Small states: the packet of a word has begun, in the lane or the control stream (log entry 2) -/

/-- The state at the slot of a word, its packet begun. -/
def begun (w : Nat) : State :=
  let s := State.reset.placeWord w
  let ex : Word := if s.inLane then BitVec.allOnes 32 else 1
  (s.modCur (fun _ st => st.beginPacket 4 (wordCw w) ex)).beginSlot false
/-- A group at a NOP, and the control thread at a TASKDEC. -/
def lane : State := begun 0x00000000
/-- The control thread. -/
def ctl : State := begun 0x6E000000

/-- What holds of the group that acts holds of the current stream. -/
theorem onCur_grp {s : State} {f : (w : Nat) → Stream w → Prop} (g : Nat) (h : s.curSel = .grp g) (p : f 32 (s.curT.grp g)) : s.onCur f := by
  unfold State.onCur State.onStream; rw [h]; exact p
/-- What holds of the control thread that acts holds of the current stream. -/
theorem onCur_ctl {s : State} {f : (w : Nat) → Stream w → Prop} (h : s.curSel = .ctl) (p : f 64 s.curT.ctl) : s.onCur f := by
  unfold State.onCur State.onStream; rw [h]; exact p

/-! ## The hypotheses of the statements can be met: integer, float and control instructions -/

theorem witness_form3 : lane.sound = true ∧ resultDst lane.inLane lane.blocks false 3 = some (some (.reg 3)) ∧
    lane.ready { both with srcs := [1, 2] } (lane.guarded 0) = true ∧ lane.ready { laneUse with srcs := [1, 2] } (lane.guarded 0) = true := by
  decide +kernel
theorem witness_form3_control : ctl.sound = true ∧ resultDst ctl.inLane ctl.blocks true 0 = some none ∧
    ctl.ready { both with srcs := [1, 31] } (ctl.guarded 0) = true := by decide +kernel
theorem witness_forms_executing : lane.ready { both with srcs := [1] } lane.executing = true ∧
    lane.ready { both with srcs := [1] } (lane.guarded 0) = true ∧ lane.ready { both with srcs := [62, 52] } lane.executing = true ∧
    lane.ready both lane.executing = true ∧ (31#11).toNat ≤ (if lane.inLane then 31 else 63) := by decide +kernel
theorem witness_pairs : lane.inLane = true ∧ pairOk lane.blocks 46 = true ∧ pairSrcOk lane.blocks 62 = true ∧
    pairSrcOk lane.blocks 4 = true ∧ lane.ready laneUse (lane.guarded 0) = true ∧ lane.ready laneUse lane.executing = true := by decide +kernel
theorem witness_predicates : (31#5 ≠ 0) ∧ isPredDst 31 = true ∧ isPred 0 = true ∧ lane.ready both lane.executing = true ∧
    lane.ready { laneUse with srcs := [47] } lane.executing = true ∧ resultDst true lane.blocks true 0 = some none := by decide +kernel
theorem witness_lane_exchange : resultDst true lane.blocks false 55 = some (some .zero) ∧
    lane.ready { laneUse with srcs := [1, 2] } lane.executing = true ∧ lane.ready { laneUse with srcs := [1] } lane.executing = true := by
  decide +kernel
theorem witness_conversions : cvtFmt .f64 = true ∧ cvtFmt .i8 = true ∧ fmtWide .f64 = true ∧ fmtWide .i8 = false ∧
    dstOf true lane.blocks 47 = some (.reg 47) ∧ lane.executing = BitVec.allOnes 32 := by decide +kernel
theorem witness_wait_forms : lane.ready both 0 = true ∧ lane.ready { both with pauses := true } 0 = true ∧ ctl.ready both 0 = true := by
  decide +kernel

/-- The target of a branch: S2 of the packet at offset 0. -/
theorem witness_branch : let target := relTarget (lane.onCur fun _ st => st.pc) 1
    target = 8 ∧ lane.guarded 0 ≠ 0 ∧ lane.codeHere lane.curTeam target = true ∧ lane.targetOk lane.curTeam target = true ∧ 6 ≤ lane.blocks := by decide +kernel
/-- A group whose v1 holds 12, S3 of the packet, in every lane. -/
def lane12 : State := lane.modCur (fun w st => { st with regs := [(1, copies st.n (BitVec.ofNat w 12))] })
theorem witness_register_branch : lane12.ready { both with srcs := [1] } (lane12.guarded 0) = true ∧
    lane12.onCur (fun _ st => ∀ l, l < st.n → st.ex.getLsbD l = true → st.pred (0#5).toNat l = true →
      lane12.codeHere lane12.curTeam (st.value (lane12.ctx (lane12.fronts { both with srcs := [1] } (lane12.guarded 0))) 1 l).toNat = true ∧
      lane12.targetOk lane12.curTeam (st.value (lane12.ctx (lane12.fronts { both with srcs := [1] } (lane12.guarded 0))) 1 l).toNat = true) := by
  refine ⟨by decide +kernel, onCur_grp 0 (by decide +kernel) ?_⟩
  intro l h
  have h : l < 32 := h
  revert l
  decide +kernel

theorem witness_masks : lane.sound = true ∧ (11#4).toNat < 12 ∧ (0#6).toNat < 12 ∧ lane.ready laneUse 0 = true ∧
    lane.ready { laneUse with srcs := [1] } lane.executing = true ∧ lane.inLane = true ∧ lane.handling = false := by decide +kernel
/-- Lanes 0 and 1 belong to mask 0, lane 0 executes, lane 1 is ready elsewhere. -/
def split : State := lane.modCur (fun _ st => { st with masks := setAt st.masks 0 3, pkt := st.pkt.map (fun k => { k with ex := 1 }) })
theorem witness_waitm_goes_on : lane.onCur (fun _ st => st.ex &&& st.mask (0#4).toNat = 0 ∨
    ∀ l, l < st.n → (st.mask (0#4).toNat).getLsbD l = true → st.laneState l ≠ .exited → st.ex.getLsbD l = true) :=
  onCur_grp 0 (by decide +kernel) (Or.inl (by decide +kernel))
theorem witness_waitm_parks : split.sound = true ∧ split.ready laneUse 0 = true ∧ split.handling = false ∧
    split.onCur (fun _ st => st.ex &&& st.mask (0#4).toNat ≠ 0 ∧
      (∃ l, l < st.n ∧ (st.mask (0#4).toNat).getLsbD l = true ∧ st.laneState l ≠ .exited ∧ st.ex.getLsbD l = false ∧
        st.laneState l ≠ .maskWait) ∧
      (∃ l, l < st.n ∧ st.laneState l ≠ .exited ∧ st.laneState l ≠ .maskWait ∧ (st.ex &&& st.mask (0#4).toNat).getLsbD l = false)) :=
  ⟨by decide +kernel, by decide +kernel, by decide +kernel, onCur_grp 0 (by decide +kernel)
    ⟨by decide +kernel, ⟨1, by decide +kernel⟩, ⟨2, by decide +kernel⟩⟩⟩
/-- As split, but all other lanes wait at mask 1, lane 2 for a reply in the second state. -/
def stuck (r : Bool) : State := split.modCur (fun _ st =>
  { st with lst := (List.range st.n).map (fun l => if l = 0 then .ready else if r && l == 2 then .replyWait else .maskWait), waits := copies st.n 1 })
theorem witness_mask_deadlock : (stuck false).sound = true ∧ (stuck false).ready laneUse 0 = true ∧ (stuck false).handling = false ∧
    (stuck false).onCur (fun _ st => st.ex &&& st.mask (0#4).toNat ≠ 0 ∧
      ∃ l, l < st.n ∧ (st.mask (0#4).toNat).getLsbD l = true ∧ st.laneState l ≠ .exited ∧ st.ex.getLsbD l = false ∧
        (st.parkedOn (0#4).toNat l = false ∨ st.pcOf l ≠ st.pc)) ∧
    (stuck false).onCur (fun _ st => ∀ l, l < st.n → st.laneState l = .exited ∨ st.laneState l = .maskWait ∨
      (st.ex &&& st.mask (0#4).toNat).getLsbD l = true) :=
  ⟨by decide +kernel, by decide +kernel, by decide +kernel,
    onCur_grp 0 (by decide +kernel) ⟨by decide +kernel, ⟨1, by decide +kernel⟩⟩,
    onCur_grp 0 (by decide +kernel) (fun l h => by have h : l < 32 := h; revert l; decide +kernel)⟩
theorem witness_mask_deadlock_prevented : (stuck true).sound = true ∧ (stuck true).ready laneUse 0 = true ∧ (stuck true).handling = false ∧
    (stuck true).onCur (fun _ st => st.ex &&& st.mask (0#4).toNat ≠ 0 ∧
      ∃ l, l < st.n ∧ (st.mask (0#4).toNat).getLsbD l = true ∧ st.laneState l ≠ .exited ∧ st.ex.getLsbD l = false ∧
        (st.parkedOn (0#4).toNat l = false ∨ st.pcOf l ≠ st.pc)) ∧
    (stuck true).onCur (fun _ st => ∃ l, l < st.n ∧ (st.ex &&& st.mask (0#4).toNat).getLsbD l = false ∧
      (st.laneState l = .replyWait ∨ st.laneState l = .rvWait)) :=
  ⟨by decide +kernel, by decide +kernel, by decide +kernel,
    onCur_grp 0 (by decide +kernel) ⟨by decide +kernel, ⟨1, by decide +kernel⟩⟩, onCur_grp 0 (by decide +kernel) ⟨2, by decide +kernel⟩⟩

/-- A cooperative preemption of the current team is pending. -/
def asked (s : State) (coop : Bool) : State :=
  s.setTeam s.curTeam { s.curT with preempt := some { coop := coop, reason := 1, since := 0, at_ := 0 } }
theorem witness_ppt : lane.ready { laneUse with pauses := true } 0 = true ∧ lane.handling = false ∧
    bits (lane.onCur fun _ st => st.lit.toNat) 15 0 < 2 ^ (lane.gridOf lane.curTeam).tilesDecl ∧
    bits (lane.onCur fun _ st => st.lit.toNat) 25 16 + bits (lane.onCur fun _ st => st.lit.toNat) 31 26 ≤ lane.curT.accDecl / 32 ∧
    lane.curT.preempt.any (fun p => p.coop) = false := by decide +kernel
theorem witness_ppt_halts : (asked lane true).ready { laneUse with pauses := true } 0 = true ∧ (asked lane true).handling = false ∧
    bits ((asked lane true).onCur fun _ st => st.lit.toNat) 15 0 < 2 ^ ((asked lane true).gridOf (asked lane true).curTeam).tilesDecl ∧
    (asked lane true).curT.preempt.any (fun p => p.coop) = true ∧ (asked lane true).wholeGroup = true := by decide +kernel

/-- A point that expects two arrivals; with one other stream arrived. -/
def point (s : State) (who : List Sel) : State :=
  s.setTeam s.curTeam (s.curT.setRv 3 { Rv.blank with expect := 2, arrived := who.length, who := who })
theorem witness_rvinit : ctl.sound = true ∧ (23#5).toNat < 24 ∧ ctl.ready { ctlUse with srcs := [1] } 0 = true ∧ ctl.ctlValue 1 ≤ 17 ∧
    (ctl.curT.rv (23#5).toNat).waiters = [] ∧ ctl.curT.speculatesOn (23#5).toNat = false := by decide +kernel
theorem witness_rv_arrive : let s := point lane []
    s.sound = true ∧ s.ready { both with pauses := true } 0 = true ∧ s.handling = false ∧ (s.curT.rv 3).who.contains s.curSel = false ∧
    (s.curT.rv 3).arrived < (s.curT.rv 3).expect ∧ s.releasable .team = true ∧ (s.curT.grp 0).stores = [] ∧
    (s.curT.rv 3).arrived + 1 < (s.curT.rv 3).expect := by decide +kernel
theorem witness_rv_completes : let s := point lane [.ctl]
    s.sound = true ∧ s.ready { both with pauses := true } 0 = true ∧ s.handling = false ∧ (s.curT.rv 3).who.contains s.curSel = false ∧
    (s.curT.rv 3).arrived < (s.curT.rv 3).expect ∧ s.releasable .team = true ∧ (s.curT.grp 0).stores = [] ∧
    (s.curT.rv 3).arrived + 1 = (s.curT.rv 3).expect := by decide +kernel
theorem witness_no_stores : lane.onCur (fun _ st => st.stores = []) := onCur_grp 0 (by decide +kernel) (by decide +kernel)
theorem witness_rvstat : ctl.sound = true ∧ dstOf false 0 38 = some .zero ∧ ctl.ready ctlUse 0 = true := by decide +kernel
theorem witness_qpush : ctl.ready { ctlUse with srcs := [1] } 0 = true ∧ (ctl.curT.queues.getD 3 []).length < 8 ∧ ctl.releasableTo .team = true ∧
    ctl.releasable .team = true ∧
    ctl.onCur (fun _ st => st.stores = []) := ⟨by decide +kernel, by decide +kernel, by decide +kernel, by decide +kernel, onCur_ctl (by decide +kernel) (by decide +kernel)⟩
/-- The control thread behind a load of its own chain. -/
def chained (s : State) : State :=
  s.modCur (fun _ st => { st with
    acc := [{ Access.blank with id := 5, size := 4, lanes := [(0, 16)], rows := [1] }], accNext := 6, pkt := st.pkt.map (fun k => { k with mark := 5 }) })
theorem witness_qpush_chained : (chained ctl).sound = true ∧ (chained ctl).ready { ctlUse with srcs := [1] } 0 = true ∧
    (chained ctl).releasableTo .team = true ∧ (chained ctl).releasable .team = false := by decide +kernel
/-- Flag 15 is set. -/
def signalled : State := lane.setTeam lane.curTeam { lane.curT with sigs := setAt lane.curT.sigs 15 { SigFlag.blank with set := true } }
theorem witness_signals : lane.ready { both with pauses := true } 0 = true ∧ lane.releasable .team = true ∧ signalled.sound = true ∧
    signalled.ready { both with pauses := true, mem := true } 0 = true ∧
    (signalled.curT.sigs.getD (15#4).toNat SigFlag.blank).set = true ∧
    signalled.firstWaiter (15#4).toNat (signalled.curT.sigs.getD (15#4).toNat SigFlag.blank) = true := by decide +kernel

/-- A slot held with a wait. -/
def waiting (s : State) (pair : List Byte) : State :=
  s.modCur (fun _ st => { st with hold := some { pc := st.pc, ex := st.ex, since := 0, pair := pair, own := true } })
theorem witness_grow : let s := waiting lane [3, 1]
    s.sound = true ∧ 1 ≤ (31#6).toNat ∧ (31#6).toNat ≤ 31 ∧ 1 ≤ (5#6).toNat ∧ s.ready { laneUse with pauses := true } 0 = true ∧
    s.growConverged = true ∧ s.growPair = [3, if true then 1 else 0] ∧ (5#6).toNat < s.blocks := by decide +kernel
theorem witness_launch_record : let s := waiting ctl (copies 64 0)
    s.ready { ctlUse with srcs := [1], mem := true } 0 = true ∧ s.ctlValue 1 % 64 = 0 ∧ s.keptPair 64 = some (copies 64 0) ∧
    s.launchFault (copies 64 0) = none ∧ s.releasable .package = true ∧
    s.pkg s.curT.port = (s.pkg s.curT.port).widen s.curTeam allDies := by decide +kernel
/-- The partition takes packets. -/
def enabled (s : State) : State := s.setPart 0 0 { s.part 0 0 with pctl := 1 }
theorem witness_launch : let s := enabled (waiting ctl (copies 64 0))
    s.ready { ctlUse with srcs := [1], mem := true } 0 = true ∧ s.keptPair 64 = some (copies 64 0) ∧ s.launchFault (copies 64 0) = none ∧
    s.releasable .package = true ∧ s.pkg s.curT.port = (s.pkg s.curT.port).widen s.curTeam allDies ∧
    (s.part s.curT.port s.curT.part).enabled = true ∧ (s.part s.curT.port s.curT.part).queue.length < 512 ∧ s.ctlValue 1 % 64 = 0 ∧
    s.onCur (fun _ st => st.accBefore) = false ∧ s.curT.ctl.stores = [] := by decide +kernel
/-- The first try of a LAUNCH reads its descriptor, of 64 zero bytes; its grid has depth 1 or 10. -/
theorem witness_launch_first : ∀ d ∈ [1, 10],
    let s := (enabled ctl).setGrid 1 { ctl.grid 1 with depth := d }
    s.sound = true ∧ s.curT.errs = [] ∧ (s.pkg s.curT.port).errs = [] ∧ s.ready { ctlUse with srcs := [1], mem := true } 0 = true ∧
    s.onCur (fun _ st => st.accBefore) = false ∧ s.keptPair 64 = none ∧ s.ctlValue 1 % 64 = 0 ∧ s.localBad s.curTeam (s.ctlValue 1) 64 = none ∧
    (s.publish s.curTeam s.curSel true allDies).localRead s.curTeam (s.ctlValue 1) 64 = copies 64 0 ∧
    s.launchFault (copies 64 0) = (if d = 10 then some (.depthExceeded, 0) else none) ∧ s.releasable .package = true ∧
    (s.part s.curT.port s.curT.part).enabled = true ∧ (s.part s.curT.port s.curT.part).queue.length < 512 ∧ (s.gridOf s.curTeam).depth = d := by
  decide +kernel
theorem witness_launch_read : Claims.recordRead (enabled ctl) ((enabled ctl).ctlValue 1) (copies 64 0) := Or.inr (by decide +kernel)
theorem witness_launch_completes : (match exec (.launch 1) (enabled ctl) with | .next t => t.slotEnd == .none | _ => false) = true := by decide +kernel
/-- Counter 255 of the partition is at 1. -/
def counted : State := ctl.setPart 0 0 { ctl.part 0 0 with depc := [(255, 1)] }
theorem witness_taskdec : counted.ready ctlUse 0 = true ∧ Map.get (counted.part counted.curT.port counted.curT.part).depc (255#8).toNat 0 = 1 := by
  decide +kernel

theorem witness_system_read : (lane.sysReg lane.curTeam (0x011#12).toNat) = some 0x4E20 ∧ lane.inLane = true ∧ pairOk lane.blocks 4 = true ∧
    lane.ready both 0 = true ∧ (ctl.sysReg ctl.curTeam (0x020#12).toNat) = some 0x0007101F ∧ ctl.inLane = false ∧
    dstOf false 0 31 = some (.reg 31) ∧ ctl.ready both 0 = true := by decide +kernel
theorem witness_system_write : lane.ready { both with srcs := [1], pauses := true } 0 = true ∧ (lane.sysReg lane.curTeam (0x010#12).toNat).isSome = true ∧
    ctl.ready { both with srcs := [1], pauses := true } 0 = true ∧ (ctl.sysReg ctl.curTeam (0x042#12).toNat).isSome = true := by decide +kernel

/-- The lane vector is offset 12 of the code segment. -/
def vectored : State := lane.setTeam lane.curTeam { lane.curT with ltrapvec := 12 }
theorem witness_trap : vectored.ready { both with pauses := true } 0 = true ∧ vectored.handling = false ∧
    vectored.onCur (fun _ st => st.specFault.isNone) = true ∧ vectored.codeHere vectored.curTeam 12 = true ∧
    vectored.targetOk vectored.curTeam 12 = true ∧ (vectored.curT.grp 0).pkt.map (fun k => k.pc / 4 % 4) = some 1 := by decide +kernel
theorem witness_trap_packet : vectored.onCur (fun _ st => st.pkt = some { entry := 4, pc := 4, cw := 0x000FFF00, ex := BitVec.allOnes 32, lit := 0, mark := 1, acq := false, last := 0, owner := copies 32 0, rest := false }) :=
  onCur_grp 0 (by decide +kernel) (by decide +kernel)
theorem witness_unhandled : lane.ready { both with pauses := true } 0 = true ∧ lane.onCur (fun _ st => st.specFault.isNone) = true ∧
    (if lane.inLane then lane.curT.ltrapvec else lane.curT.ctrapvec).toNat % 2 ^ 32 = 0xFFFFFFFF ∧ (lane.grid lane.curT.grid).retired = false := by
  decide +kernel
/-- A child of the grid, with a team. -/
def withChild : State :=
  let s := lane.setGrid 2 { Grid.blank with num := 2, depth := 2, parent := some 1 }
  s.setTeam 2 { Team.blank with grid := 2, place := .resident }
theorem witness_unhandled_child : (2 : Nat) ≠ 1 ∧ (withChild.grid 2).parent = some 1 ∧ (withChild.grid 2).retired = false ∧
    2 ∈ withChild.teamsOf 2 := by decide +kernel
/-- The group is in the handler, which it entered from offset 4. -/
def handled : State := lane.modCur (fun _ st => { st with handler := some { lanes := st.ex, epc := 4, shadow := st.latches, pkt := 0, owner := [], regs := [], preds := [], masks := st.masks, mid := none } })
theorem witness_trap_return : handled.ready { both with pauses := true } 0 = true ∧ handled.onCur (fun _ st => st.handler.map (fun h => h.epc)) = some 4 ∧
    handled.codeHere handled.curTeam 4 = true ∧ handled.targetOk handled.curTeam 4 = true ∧ handled.handling = true := by decide +kernel
theorem witness_trap_return_next : handled.codeHere handled.curTeam (4 / 16 * 16 + 20) = true ∧
    handled.targetOk handled.curTeam (4 / 16 * 16 + 20) = true := by decide +kernel
/-- The control thread waits in WAITEV and an event has come. -/
def event : State :=
  let s := (waiting ctl (copies 8 0)).setCore 0 { ctl.core 0 with clk := 5 }
  s.setTeam s.curTeam { s.curT with evMask := 1, evs := 1 }
theorem witness_waitev : event.sound = true ∧ dstOf false 0 9 = some (.reg 9) ∧ event.ready { ctlUse with srcs := [1] } 0 = true ∧
    event.onCur (fun _ st => st.pkt.isSome) = true ∧ event.keptPair 8 = some (copies 8 0) ∧ event.curT.evs ≠ 0 ∧
    event.curT.evCycle < event.clkOf event.curTeam := by decide +kernel
/-- The first try of a WAITEV without a timeout, for no event or for one. -/
theorem witness_waitev_first : ctl.ready { ctlUse with srcs := [1] } 0 = true ∧ ctl.keptPair 8 = none ∧ (0#4 : BitVec 4) = 0 ∧ ctl.ctlValue 1 = 0 ∧
    (1#4 : BitVec 4) ≠ 0 ∧ ctl.onCur (fun _ st => st.pkt.isSome) = true := by decide +kernel
/-- A WAITEV with a timeout of five cycles from cycle 0, at a cycle, with an event of a cycle or without. -/
def timed (clk evs cycle : Nat) : State :=
  let s := (waiting ctl (bytesOf 8 5)).setCore 0 { ctl.core 0 with clk := clk }
  s.setTeam s.curTeam { s.curT with evMask := 1, evs := evs, evCycle := cycle }
theorem witness_waitev_cases : let e (s : State) : Nat := (s.heldSince s.curTeam .ctl).getD (s.clkOf s.curTeam) + 5
    (∀ s ∈ [timed 6 0 0, timed 5 0 0, timed 9 1 6, timed 3 1 3, timed 6 1 5], s.sound = true ∧ s.ready { ctlUse with srcs := [1] } 0 = true ∧
      s.keptPair 8 = some (bytesOf 8 5) ∧ e s = 5) ∧
    (timed 6 0 0).curT.evs = 0 ∧ 5 < (timed 6 0 0).clkOf 1 ∧ (timed 5 0 0).clkOf 1 ≤ 5 ∧ 5 < (timed 9 1 6).curT.evCycle ∧
    (timed 3 1 3).clkOf 1 ≤ (timed 3 1 3).curT.evCycle ∧ (timed 3 1 3).curT.evCycle ≤ 5 ∧ (timed 6 1 5).curT.evCycle < (timed 6 1 5).clkOf 1 ∧
    (timed 6 1 5).curT.evCycle = 5 := by decide +kernel
/-- R323: the event of cycle 5 falls into the cycle of the timeout, so D is event 0 and bit 4. -/
theorem test_waitev_both : (match exec (.waitev 9 1 1) (timed 6 1 5) with
    | .next t => t.curT.ctl.pend.map (fun p => p.vals.getD 0 none) | _ => []) = [some 17] := by decide +kernel

/-! ## Local memory and far atomics -/

/-- A value in a register of every lane of the current stream. -/
def holds (s : State) (r v : Nat) : State := s.modCur (fun w st => { st with regs := Map.set st.regs r (copies st.n (BitVec.ofNat w v)) })

theorem witness_scratch_access : let u : Use := { both with srcs := [1, 2], pauses := false, mem := true }
    let ea := lane.addrs (lane.ctx (lane.fronts u lane.executing)) 1 ((3#8).toNat * szBytes .b16)
    lane.ready u lane.executing = true ∧ memOk lane.inLane lane.blocks false false (2#6).toNat .b16 = true ∧
    lane.localFault false (szBytes .b16) ea = none ∧ lane.onCur (fun _ st => st.speculating) = false := by decide +kernel
theorem witness_near_load : let s := holds ctl 1 0x40000010
    let u : Use := { both with srcs := [1], pauses := true, mem := true }
    s.ready u s.executing = true ∧ memOk s.inLane s.blocks true true (2#6).toNat .b32 = true ∧
    s.localFault true (szBytes .b32) (s.addrs (s.ctx (s.fronts u s.executing)) 1 0) = none ∧ s.onCur (fun _ st => st.speculating) = false := by
  decide +kernel
theorem witness_local_atomic : let u : Use := { both with srcs := atomicSrcs .cas 1 2, pauses := true, mem := true }
    ordRel .acq = false ∧ lane.ready u lane.executing = true ∧ atomicOk lane.inLane lane.blocks .cas (3#6).toNat (2#6).toNat = true ∧
    lane.localFault false 4 (lane.addrs (lane.ctx (lane.fronts u lane.executing)) 1 0) = none := by decide +kernel

/-- One scratchpad access of lane 31 to bytes 16 to 19. -/
def one (k : AccKind) (op : Aop) : Access :=
  { Access.blank with id := 1, kind := k, size := 4, lanes := [(31, 16)], data := [(31, 5)], aop := op, dest := some 3, rows := [1] }
/-- A group with an access outstanding. -/
def accessing (a : Access) : State := lane.modCur (fun _ st => { st with acc := [a] })
theorem witness_served : ∀ k ∈ [AccKind.load, .store], let a := { one k .load with data := if k = .load then [] else [(31, 5)] }
    let s := accessing a
    s.sound = true ∧ (s.team 1).place = .resident ∧ ((s.team 1).grp 0).acc.find? (fun b => b.id = 1) = some a ∧
    ((s.team 1).grp 0).mayServe a 1 = true ∧ (s.team 1).errs = [] ∧ a.got = [] ∧
    ((s.team 1).grp 0).wasKilled 0 1 3 31 = false := by decide +kernel
theorem witness_served_access : ∀ k ∈ [AccKind.load, .store, .atomic], (accessing (one k .add)).onStream 1 (.grp 0) (fun w st =>
    st.acc.find? (fun b => b.id = 1) = some (one k .add) ∧ st.mayServe (one k .add) 1 = true ∧ 31 < st.n ∧ 8 * (one k .add).size = w ∧
      ∀ d, (one k .add).dest = some d → st.wasKilled (one k .add).pkt (one k .add).id d 31 = false) := by
  intro k h
  simp only [List.mem_cons, List.mem_nil_iff, or_false] at h
  rcases h with rfl | rfl | rfl <;>
    exact ⟨by decide +kernel, by decide +kernel, by decide +kernel, by decide +kernel, fun d h => by cases h; decide +kernel⟩

/-- A pending near store of two bytes at 64. -/
def storing : State := lane.modCur (fun _ st => { st with stores := [{ seq := 1, addr := 64, bytes := [1, 2] }] })
theorem witness_publish : storing.sound = true ∧ storing.onStream 1 (.grp 0) (fun _ st =>
    st.stores.find? (fun z => z.seq = 1) = some { seq := 1, addr := 64, bytes := [1, 2] } ∧
    ∀ z ∈ st.stores, z.seq < 1 → z.addr + z.bytes.length ≤ 64 ∨ 64 + 2 ≤ z.addr) :=
  ⟨by decide +kernel, by decide +kernel, by decide +kernel⟩
theorem witness_view : (lane.team 1).place = .resident := by decide +kernel
theorem witness_phase : lane.ready { both with pauses := true, mem := true } 0 = true ∧ lane.farsOf lane.curTeam lane.curSel = [] := by
  decide +kernel
theorem witness_nothing_outstanding : lane.onCur (fun _ st => st.acc = [] ∧ st.stores = []) ∧ ctl.onCur (fun _ st => st.acc = [] ∧ st.stores = []) :=
  ⟨onCur_grp 0 (by decide +kernel) (by decide +kernel), onCur_ctl (by decide +kernel) (by decide +kernel)⟩

/-- Package 0 is up, plane 0 to module 0 belongs to partition 0, whose logical module 0 it is; the module has a bucket for
tenant 0 and a cached translation of the first 64 KiB to the second. -/
def mapped (s : State) : State :=
  let k := s.pkg 0
  let s := s.setPkg 0 { k with up := true, alloc := [(0, 0x8000)], parts := Map.set k.parts 0 { s.part 0 0 with modMap := [(0, 0x80000000)] } }
  s.setMod 0 { Module.blank with
    buckets := [(0, { Bucket.blank with flags := 1 })]
    tlb := [{ port := 0, part := 0, pasid := 0, va := 0, size := 16, pa := 1, perms := 7 }] }
theorem witness_tfence : ctl.ready { ctlUse with mem := true } 0 = true ∧ (ctl.part ctl.curT.port ctl.curT.part).modules = [] ∧
    ((mapped ctl).part (mapped ctl).curT.port (mapped ctl).curT.part).module (0#6).toNat = some (0, 0) ∧
    (waiting (mapped ctl) [1]).ready { ctlUse with mem := true } 0 = true ∧
    (waiting (mapped ctl) [1]).fences.any (fun f => f.team == some (waiting (mapped ctl) [1]).curTeam) = false := by decide +kernel
theorem witness_tfence_started : (waiting (mapped ctl) [1]).onCur (fun _ st => ∃ h, st.hold = some h ∧ h.pc = st.pc ∧ h.pair = [1]) :=
  onCur_ctl (by decide +kernel) ⟨_, rfl, by decide +kernel, rfl⟩
theorem witness_drain : lane.ready { both with pauses := true, mem := true } 0 = true ∧
    (∀ e ∈ lane.xfers, e.2.core = lane.curT.core → e.2.onPath .far = true → e.2.done = true) ∧
    (let x : Xfer := { Xfer.blank with kind := .put, team := 1, saved := true, done := false }
     ({ lane with xfers := [(1, x)] } : State).drained .far = []) := by decide +kernel
theorem witness_far_issue : let s := mapped lane
    let u : Use := { laneUse with srcs := [6], pauses := true, mem := true }
    s.sound = true ∧ ordRel .rlx = false ∧ s.ready u s.executing = true ∧ pairSrcOk s.blocks (4#6).toNat = true ∧
    atomicOk true s.blocks .add (3#6).toNat (6#6).toNat = true ∧
    s.farFault ((lanesOf (s.curT.grp 0).ex 32).map (fun l => (l, ((s.curT.grp 0).pair 4 l).toNat))) = none ∧
    s.isDown s.curT.port s.curT.part 0 = false := by decide +kernel
theorem witness_far_up : ∀ m, (mapped lane).isDown (mapped lane).curT.port (mapped lane).curT.part m = false := fun _ => rfl

/-- A far atomic of one lane on byte 8 of module 0. -/
def far (performed : Bool) : FarReq :=
  { team := 1, sel := .grp 0, grid := 1, port := 0, part := 0, pmod := 0, lmod := 0, tenant := 0, pasid := 0, secure := false, addr := 8,
    aop := .add, lanes := [(2, 5, 0)], dest := some 3, ret := true, flag := none, insn := 1, pkt := 0, performed := performed,
    vals := if performed then [(2, 7)] else [], rels := [], acquire := none, seen := [], arrived := false, reserved := none }
/-- The request is at the head of its channel at module 0. -/
def requested : State :=
  let s := { mapped lane with fars := [(1, far false)] }
  s.setMod 0 { s.mod 0 with inbox := [(0, 0, .farReq 1)] }
theorem witness_far_performed : requested.sound = true ∧ Map.find requested.fars 1 = some (far false) ∧ (far false).pmod = 0 ∧
    (requested.mod 0).head 0 0 = some (.farReq 1) ∧ (far false).lanes = [(2, 5, 0)] ∧ (far false).ret = true ∧
    (requested.mod 0).judge (far false).ctx ((far false).addr % 2 ^ 50) (needOf (far false).aop) .cached = .ok 65544 ∧
    bits (requested.mod 0).hotctl 7 7 = 0 := by decide +kernel
/-- The reply is in the inbox of its package, and the lane waits for it. -/
def replied : State :=
  let s := { (lane.modCur (fun _ st => st.setState 4 .replyWait)) with fars := [(1, far true)] }
  s.setPkg 0 { s.pkg 0 with inbox := [(0, 0, .farRep 1)] }
theorem witness_far_reply : replied.sound = true ∧ (replied.pkg 0).inbox.find? (fun e => e.2.2 == .farRep 1) = some (0, 0, .farRep 1) ∧
    Map.find replied.fars 1 = some (far true) ∧ (replied.team (far true).team).place = .resident ∧ (far true).dest = some 3 ∧
    (far true).lanes.map (fun x => x.1) = [2] ∧ (far true).vals = [(2, 7)] := by decide +kernel
theorem witness_far_reply_lane : replied.onStream 1 (.grp 0) (fun _ st => 2 < st.n ∧ st.laneState 2 = .replyWait ∧ st.wasKilled 0 1 3 2 = false) :=
  ⟨by decide +kernel, by decide +kernel, by decide +kernel⟩
theorem witness_reservation : Map.find [(1, { far true with reserved := some 5 })] 1 = some { far true with reserved := some 5 } ∧ 5 + 48000 ≤ 48005 := by
  decide +kernel

/-! ## The matrix engine and engine commands -/

/-- A group with two tiles declared, shaped 32 × 32 BF16. -/
def tiled : State :=
  let s := lane.setGrid 1 { lane.grid 1 with packet := putBytes (lane.grid 1).packet 20 (bytesOf 4 ((lane.grid 1).res / 2 ^ 21 * 2 ^ 21 + 2 * 2 ^ 16 + (lane.grid 1).res % 2 ^ 16)) }
  s.setTeam 1 { s.team 1 with tsh := copies 16 0x0007101F }
theorem witness_matrix : let u : Use := { laneUse with pauses := true, mem := true }
    tiled.sound = true ∧ tiled.executing = BitVec.allOnes 32 ∧ tiled.ready u tiled.executing = true ∧
    (tiled.core tiled.curT.core).mq.length < 64 ∧ tiled.hasTile 0 = true ∧ tiled.hasTile 1 = true ∧ (31 : Nat) < tiled.curT.accDecl ∧
    pairOk tiled.blocks (2 * (23#5).toNat) = true ∧ shOk (tiled.shape 0) = true ∧ shBlock (tiled.shape 0) = false ∧
    (31#10).toNat + coverBlocks (tiled.shape 0) ≤ tiled.curT.accDecl ∧ (16#10).toNat + (15#4).toNat + 1 ≤ tiled.curT.accDecl := by decide +kernel
/-- The shapes that MMA needs, by format code and columns. -/
def shaped (code cols : Nat) : State := tiled.setTeam 1 { tiled.team 1 with tsh := copies 16 (BitVec.ofNat 32 (31 + cols * 128 + code * 65536)) }
theorem witness_mma : ∀ f ∈ [(Fmt.bf16, 64), (.f16, 32), (.f32, 32), (.te8, 64), (.te4, 128)],
    mmaShape ((shaped (mmaCode f.1) f.2).shape 1) (mmaCode f.1) 0 = true ∧ (shaped (mmaCode f.1) f.2).hasTile 1 = true := by decide +kernel
theorem witness_tile_move : let u : Use := { laneUse with srcs := [1, 2], pauses := true, mem := true }
    tiled.ready u tiled.executing = true ∧ (tiled.core tiled.curT.core).mq.length < 64 ∧ tiled.hasTile 1 = true ∧ shOk (tiled.shape 1) = true ∧
    tiled.onCur (fun _ st => st.accBefore) = false ∧
    (true && shBlock (tiled.shape 1)) = false ∧ (tileExtent (tiled.shape 1) 0 0 true).2 < (tiled.gridOf tiled.curTeam).scratchLen := by decide +kernel
theorem witness_not_converged : split.executing ≠ BitVec.allOnes 32 ∧ split.ready { laneUse with pauses := true, mem := true } 0 = true ∧
    split.ready { laneUse with srcs := [1, 2], pauses := true, mem := true } 0 = true ∧ split.ready { laneUse with srcs := [1] } 0 = true := by
  decide +kernel
/-- A matrix entry at the head of the queue of core 0. -/
def entry (op : MatOp) : MatEntry := { team := 1, g := 0, op := op, shapes := [], num := 1, flag := none, seq := 1 }
theorem witness_matrix_execute : ∀ op ∈ [MatOp.accz 31 1, .tzero 1],
    let s := lane.setCore 0 { lane.core 0 with mq := [entry op] }
    s.sound = true ∧ (s.core 0).mq.find? (fun x => !(s.team x.team).standing) = some (entry op) ∧ s.mayRun (entry op) = true ∧ (s.core 0).eq_ = [] := by
  decide +kernel
/-- A tile move waits for a load of its own chain; of a team that has halted for its save no step executes. -/
theorem witness_matrix_waits : let e := { entry (.tld 1 0 64 false) with shapes := [BitVec.ofNat 32 (31 + 32 * 128 + 7 * 65536)], after := 6 }
    let s := (chained lane).setCore 0 { lane.core 0 with mq := [e] }
    s.sound = true ∧ (s.core 0).mq.find? (fun x => !(s.team x.team).standing) = some e ∧ s.mayRun e = false ∧
    (let x := lane.team 1
     let h := (lane.setTeam 1 { x with
       preempt := some { coop := false, reason := 0, since := 0, at_ := 0 }, ctl := { x.ctl with halted := true }, grps := x.grps.map (fun g => (g.1, { g.2 with halted := true })) }
       ).setCore 0 { lane.core 0 with mq := [entry (.tzero 1)] }
     ∀ y ∈ (h.core 0).mq, (h.team y.team).standing = true) := by decide +kernel

/-- Entries of the other kinds, with the shapes that they captured: 32 rows of 64 BF16 elements, or 32 by 32. -/
def moreEntries : List MatEntry :=
  let w (cols : Nat) : Word := BitVec.ofNat 32 (31 + cols * 128 + 7 * 65536)
  [{ entry (.mma .bf16 31 0 1 1 [] []) with shapes := [w 64, w 64] }, { entry (.tld 1 0 64 false) with shapes := [w 32] },
   { entry (.tld 1 0 64 true) with shapes := [w 32] }, { entry (.tst 1 0 64 false) with shapes := [w 32] },
   { entry (.tst 1 0 64 true) with shapes := [w 32] }, { entry (.accrd 31 1 .rne true) with shapes := [w 32] },
   { entry (.accwr 31 1) with shapes := [w 32] }, { entry (.accadd 31 1) with shapes := [w 32] }]
theorem witness_matrix_steps : (lane.team 1).errs = [] ∧ (∀ e ∈ moreEntries, let s := lane.setCore 0 { lane.core 0 with mq := [e] }
    s.sound = true ∧ (s.core 0).mq.find? (fun x => !(s.team x.team).standing) = some e ∧ s.mayRun e = true ∧ (s.core 0).eq_ = [] ∧
    (e.shapes.all (fun w => shOk w && !shBlock w)) = true) ∧ (moreEntries.map (fun e => e.shapes.length)) = [2, 1, 1, 1, 1, 1, 1, 1] := by
  decide +kernel

/-- A record of one element of 2^code bytes. -/
def record (code : Nat) : List Byte := bytesOf 4 (1 + 8 * code) ++ bytesOf 12 (1 + 2 ^ code * 2 ^ 48) ++ copies 48 0
/-- The control thread with its layout pair read. -/
def paired (code : Nat) : State := waiting (mapped ctl) (record code ++ record code)
/-- The control thread, whose layout pair 0 stands in scratchpad. -/
def laid (code : Nat) : State :=
  let s := mapped ctl
  s.setTeam 1 { s.team 1 with scratch := Memory.writeN [] 0 (record code ++ record code) }
theorem witness_engine : ∀ c ∈ [2, 4], ∀ s ∈ [paired c, laid c],
    s.sound = true ∧ s.queueFree = true ∧ s.ready { ctlUse with srcs := [4, 6], mem := true } 0 = true ∧
    s.ready { ctlUse with srcs := [4], mem := true } 0 = true ∧ s.ready { ctlUse with srcs := [6], mem := true } 0 = true ∧
    s.onCur (fun _ st => st.accBefore) = false ∧ s.nextXfer ∉ (s.core s.curT.core).eq_ ∧
    (∀ j ∈ (s.core s.curT.core).eq_, (s.xfer j).started = true) ∧ s.isDown s.curT.port s.curT.part 0 = false := by decide +kernel
theorem witness_engine_chained : (chained (laid 4)).onCur (fun _ st => st.accBefore) = false ∧ (chained (laid 4)).sound = true ∧
    (chained (laid 4)).ready { ctlUse with srcs := [4, 6], mem := true } 0 = true ∧ (chained (laid 4)).releasableTo .domain = true := by decide +kernel
theorem witness_record_kept : Claims.recordRead (paired 2) 0 (record 2 ++ record 2) := Or.inl (by decide +kernel)
theorem witness_record_read : Claims.recordRead (laid 2) 0 (record 2 ++ record 2) ∧ Claims.recordRead (laid 4) 0 (record 4 ++ record 4) ∧
    Claims.recordRead (laid 2) 64 (record 2) := by
  refine ⟨Or.inr ?_, Or.inr ?_, Or.inr ?_⟩ <;> decide +kernel
theorem witness_transfers : ∀ e ∈ [(XKind.fetch, 4), (.put, 4), (.copyl, 4), (.fetchr, 2)], ∀ s ∈ [paired e.2, laid e.2],
    let k := e.1
    let r := layOf (record e.2)
    let x1 := s.ctlValue 4
    let x2 := s.ctlValue 6
    let bytes := if k = .fetchr then 4 * r.count else if r.indexed then 16 * r.size 0 * r.count else r.esz * r.count
    let base := if k = .fetchr then 0 else x2
    let lmod := if k = .fetchr then bits x2 55 50 else (r.extent base).lmod
    (record e.2).length = 64 ∧ recordsOk k r r x2 = true ∧ r.aligned = true ∧ r.indexed = false ∧ base % r.esz = 0 ∧ x1 % r.esz = 0 ∧
    s.extentFault s.curTeam (if k = .copyl then [(x1, r.extent x1), (x2, r.extent base)] else [(x1, r.extent x1)])
      (if k = .fetch ∨ k = .put then [r.extent base] else []) none = none ∧
    s.reachable s.curT.port s.curT.part lmod = true ∧ (s.curT.wins.getD (7#3).toNat Window.blank).admits bytes = true := by decide +kernel
/-- An indexed fetch: record 0 is an index tensor of two indices at 256, record 1 two rows of 16 bytes. -/
def indexPair : List Byte :=
  (bytesOf 4 (1 + 8 * 2 + 64) ++ bytesOf 12 (2 + 4 * 2 ^ 48) ++ copies 36 0 ++ bytesOf 12 256) ++
  (bytesOf 4 (2 + 8 * 4) ++ bytesOf 12 (1 + 16 * 2 ^ 48) ++ bytesOf 12 (2 + 16 * 2 ^ 48) ++ copies 36 0)
theorem witness_indexed : let s := waiting (mapped ctl) indexPair
    let r0 := layOf (indexPair.take 64)
    let r1 := layOf (indexPair.drop 64)
    indexPair.length = 128 ∧ r0.indexed = true ∧ (∀ k ∈ [XKind.fetch, .copyl], recordsOk k r0 r1 (s.ctlValue 6) = true) ∧ r0.aligned = true ∧
    s.ctlValue 4 % 16 = 0 ∧ r0.ibase % 4 = 0 ∧ 16 * r1.size 0 * r0.count = 32 ∧
    s.extentFault s.curTeam [(0, extentAt 0 32)] [extentAt 0 (16 * r1.size 0 * r1.size 1)] (some (r0.extent r0.ibase)) = none := by decide +kernel
/-- A reduction-group descriptor: two members, BF16. -/
def descriptor : List Byte := [2, 7, 0, 0] ++ bytesOf 4 1000 ++ bytesOf 8 64 ++ copies 48 0 ++ copies 512 0
theorem witness_gcreate : ∀ s ∈ [waiting (mapped ctl) descriptor, (mapped ctl).setTeam 1 { (mapped ctl).team 1 with scratch := Memory.writeN [] 0 descriptor }],
    s.ready { ctlUse with srcs := [4], mem := true } 0 = true ∧ s.ctlValue 4 % 64 = 0 ∧ descriptor.length = 576 ∧
    descriptorOk descriptor = true ∧
    s.extentFault s.curTeam [] (((descOf descriptor).bases.take (descOf descriptor).n).map (fun v => extentAt v (max 1 (descOf descriptor).len))) none = none := by
  decide +kernel
theorem witness_gcreate_read : Claims.recordRead (waiting (mapped ctl) descriptor) 0 descriptor ∧
    Claims.recordRead ((mapped ctl).setTeam 1 { (mapped ctl).team 1 with scratch := Memory.writeN [] 0 descriptor }) 0 descriptor :=
  ⟨Or.inl (by decide +kernel), Or.inr (by decide +kernel)⟩
theorem witness_group_commands : let s := mapped ctl
    s.reachable s.curT.port s.curT.part (bits (s.ctlValue 6) 55 50) = true ∧ s.onCur (fun _ st => st.acc.isEmpty) = true ∧
    s.ready { ctlUse with srcs := [4, 6], mem := true } 0 = true ∧ s.ready { ctlUse with srcs := [6], mem := true } 0 = true ∧
    s.releasable .domain = true ∧ s.queueFree = true := by decide +kernel
theorem witness_fill_copyf : let r := layOf (record 2)
    (record 2).length = 64 ∧ (record 2 ++ record 2).length = 128 ∧ r.ok false = true ∧ r.noLb = true ∧ r.code = 2 ∧
    recordsOk .put r r 0 = true ∧ ∀ s ∈ [paired 2, laid 2],
    s.extentFault s.curTeam [] [r.extent (s.ctlValue 6)] none = none ∧ (r.extent (s.ctlValue 4)).lmod = (r.extent (s.ctlValue 6)).lmod ∧
    s.extentFault s.curTeam [] [r.extent (s.ctlValue 4), r.extent (s.ctlValue 6)] none = none := by decide +kernel
theorem witness_fill_record : Claims.recordRead (waiting (mapped ctl) (record 2)) 64 (record 2) := Or.inl (by decide +kernel)
theorem witness_window : ctl.ready { ctlUse with srcs := [1] } 0 = true ∧ (holds ctl 1 0x100000).ctlValue 1 ≤ 0x100000 := by decide +kernel
theorem witness_barrier : let s := holds (holds ctl 1 1) 2 255
    s.ready { ctlUse with srcs := [1, 2] } 0 = true ∧ 1 ≤ s.ctlValue 1 ∧ s.ctlValue 1 < 2 ^ 32 ∧ s.ctlValue 2 ≤ 255 := by decide +kernel
/-- Barrier 15 has fired with an error. -/
def fired : State := ctl.setTeam 1 { ctl.team 1 with abs := setAt (ctl.team 1).abs 15 { Barrier.blank with state := .fired, err := true } }
theorem witness_waita : fired.sound = true ∧ fired.ready { ctlUse with mem := true } 0 = true ∧
    (fired.curT.abs.getD (15#4).toNat Barrier.blank).state = .fired ∧ (fired.curT.abs.getD (15#4).toNat Barrier.blank).ovr = false := by decide +kernel
/-- Timeline 2 with its first command failed. -/
def failed : State := (holds ctl 1 1).setTeam 1 { (holds ctl 1 1).team 1 with
  tls := [Timeline.blank, Timeline.blank, { issued := 2, done := 1, ahead := [], failNo := 1, failCode := 3 }] }
theorem witness_waitt : failed.sound = true ∧ ((3#6).toNat ≤ 31 ∨ (3#6) = 38) ∧ (2#2) ≠ 3 ∧ failed.ready { ctlUse with srcs := [1], mem := true } 0 = true ∧
    failed.ctlValue 1 ≤ (failed.curT.tls.getD 2 Timeline.blank).done ∧
    (failed.curT.tls.getD 2 Timeline.blank).done ≤ (failed.curT.tls.getD 2 Timeline.blank).issued := by decide +kernel

/-! ## Events of streams -/

/-- A group between packets. -/
def between (s : State) : State := s.modCur (fun _ st => { st with pkt := none, latchNew := [] })
/-- A team whose grid may speculate, its group at a stage of a speculation past point 23. -/
def speculating (stage : SpecStage) : State :=
  let s := between lane
  let g := s.grid 1
  let s := s.setGrid 1 { g with packet := putBytes g.packet 20 (bytesOf 4 (g.res + 4)) }
  let st := (s.team 1).grp 0
  s.setTeam 1 ((s.team 1).setGrp 0 { st with
    spec := some { rv := 23, stage := stage, ckpt := { regs := st.regs, preds := st.preds, latches := st.latches, masks := st.masks, vpc := st.vpc, lst := st.lst, waits := st.waits, goesOn := st.goesOn }, blocks := 6, buf := [], lines := [], paused := false, passed := false, writers := [] } })
theorem witness_checkpoint : let s := speculating .wanted
    s.sound = true ∧ (s.settled 1 0).spec.any (fun sp => sp.stage == .wanted && sp.rv == 23) = true ∧ s.quiet 1 0 = true ∧
    (s.team 1).place = .resident ∧ s.maySpeculate 1 0 23 = true := by decide +kernel
theorem witness_rollback : let s := speculating .rolling
    s.sound = true ∧ ((s.team 1).grp 0).spec.any (fun sp => sp.stage == .rolling && !sp.passed && decide (sp.rv < 24)) = true ∧
    s.quiet 1 0 = true := by decide +kernel

/-- A group of some blocks that waits in GROW for n more since cycle 0, at a cycle of its core. -/
def growing (blocks : Nat) (n : Byte) (clk : Nat) : State :=
  let s := waiting (between lane) [n, 2]
  let st := (s.team 1).grp 0
  (s.setTeam 1 ((s.team 1).setGrp 0 { st with blocks := blocks })).setCore 0 { s.core 0 with clk := clk }
theorem witness_grow_granted : let s := growing 6 255 4095
    s.growWaits 0 = [(1, 0, 0, 0, [255, 2])] ∧ ((s.team 1).grp 0).hold.isSome = true ∧ (s.core 0).clk < 0 + 4096 ∧
    (255#8).toNat ≤ s.freeBlocks 0 := by decide +kernel
theorem witness_grow_denied : let s := growing 300 200 4095
    s.growWaits 0 = [(1, 0, 0, 0, [200, 2])] ∧ ((s.team 1).grp 0).hold.isSome = true ∧ (s.core 0).clk < 0 + 4096 ∧
    s.freeBlocks 0 < (200#8).toNat ∧ s.allGrow 0 = true := by decide +kernel
theorem witness_grow_urgent : let s := growing 300 200 4096
    s.growWaits 0 = [(1, 0, 0, 0, [200, 2])] ∧ 0 + 4096 ≤ (s.core 0).clk := by decide +kernel
theorem witness_timeout : let s := (waiting ctl (bytesOf 8 5)).setCore 0 { ctl.core 0 with clk := 5 }
    (s.team 1).ctl.hold.any (fun h => h.pair.length == 8 && ofBytes h.pair != 0 && decide (h.since + ofBytes h.pair ≤ s.clkOf 1)) = true ∧
    (s.team 1).evs = 0 := by decide +kernel

/-! ## Launch queues, dispatch, placement -/

/-- A queue interface of the physical function with a ring of 16, one entry submitted, its partition enabled. -/
def queueing : State :=
  let s := enabled ctl
  s.setPkg 0 { s.pkg 0 with qis := [(0, { Qi.blank with en := true, log2 := 4, tail := 1 })] }
theorem witness_notify : queueing.pageQi 0 0 0 = some 0 ∧ (queueing.qi 0 0).en = true := by decide +kernel
theorem witness_notify_clauses : let x := queueing.qi 0 0
    ((x.tail - x.head).toNat ≤ (16#32 - x.head).toNat ∧ (16#32 - x.head).toNat ≤ 2 ^ x.log2) ∧
    ¬((x.tail - x.head).toNat ≤ (17#32 - x.head).toNat ∧ (17#32 - x.head).toNat ≤ 2 ^ x.log2) ∧
    (7#32).toNat ≤ 7 ∧ 7 < (8#32).toNat ∧ (0#32 - x.chead).toNat ≤ (x.written - x.chead).toNat ∧
    ¬((1#32 - x.chead).toNat ≤ (x.written - x.chead).toNat) := by decide +kernel
theorem witness_queue_disabled : (State.reset.qi 0 1).en = false ∧ (State.reset.qi 0 1).part < 32 ∧ (State.reset.qi 0 1).fn < 2048 ∧
    (State.reset.qi 0 1).log2 < 32 := by decide +kernel
theorem witness_queue_sizes : bits (0x80000010#32).toNat 31 31 = 1 ∧ bits (0x80000010#32).toNat 4 0 = 16 ∧
    bits (0x80000004#32).toNat 31 31 = 1 ∧ bits (0x80000004#32).toNat 4 0 = 4 := by decide +kernel
theorem witness_fetch_packet : queueing.mayFetch 0 0 = true := by decide +kernel

/-- The packet of the grid of `placeWord`, in the launch queue, from queue interface 0. -/
def queuedPacket (s : State) : Queued :=
  { packet := (s.grid 1).packet, order := 0, qi := some 0, fn := 0, parent := none, depth := 1, pasid := 0, prio := 0, held := none, view := View.none }
/-- The packet is queued, with or without a context. -/
def launching (known : Bool) : State :=
  let s := queueing
  let s := s.setPart 0 0 { s.part 0 0 with queue := [queuedPacket s] }
  s.setPkg 0 { s.pkg 0 with pasids := if known then [(0, 0x8000000000000000)] else [] }
theorem witness_accepted : let s := launching true
    (s.part 0 0).front = some (queuedPacket s) ∧ s.refusal 0 0 (queuedPacket s) = none ∧ bits (pk (queuedPacket s).packet 24 4) 17 12 = 0 := by
  decide +kernel
theorem witness_refused : let s := launching false
    s.sound = true ∧ (s.part 0 0).front = some (queuedPacket s) ∧ s.refusal 0 0 (queuedPacket s) = some stRevoked ∧
    (queuedPacket s).qi = some 0 := by decide +kernel

/-- Slice 0 of package 0 is core 0 for partition 0. -/
def sliced (s : State) : State :=
  s.setPkg 0 { s.pkg 0 with remap := [(0, 0 :: copies 11 0xFF ++ [0, 0, 0, 0])] }
theorem witness_accepted_span : let s := mapped (sliced (launching true))
    let q := { queuedPacket s with packet := putBytes (putBytes (s.grid 1).packet 24 (bytesOf 4 (2 ^ 12))) 48 (bytesOf 8 3) }
    let s := s.setPart 0 0 { s.part 0 0 with queue := [q], modMap := [(0, 0x80000000)] }
    (s.part 0 0).front = some q ∧ s.refusal 0 0 q = none ∧ bits (pk q.packet 24 4) 17 12 ≠ 0 ∧ q.copy = none ∧
    (s.mod ((((s.part 0 0).module 0).map (fun e => e.1)).getD 0)).mail.length +
      (s.mod ((((s.part 0 0).module 0).map (fun e => e.1)).getD 0)).mailDue < 64 := by decide +kernel
/-- A grid of one team that is not placed yet heads the placement list. -/
def placing : State :=
  let s := sliced ctl
  let s := { s with teams := [] }
  let s := s.setGrid 1 { s.grid 1 with placed := 0 }
  s.setPart 0 0 { s.part 0 0 with placement := [1] }
theorem witness_placed : let s := placing
    (s.part 0 0).placement = 1 :: [] ∧ s.waiting 1 = [] ∧ (s.grid 1).placed < (s.grid 1).nteams ∧ (s.grid 1).span = none ∧
    (s.grid 1).cohort = false ∧ s.pickCore 0 0 (s.grid 1).needs = some 0 := by decide +kernel
/-- A saved team that is on the placement list again. -/
def restoring : State :=
  let s := sliced ctl
  let s := s.setTeam 1 { s.team 1 with place := .saved 0 0, listed := true, mats := [entry (.tzero 1)] }
  s.setPart 0 0 { s.part 0 0 with placement := [1] }
theorem witness_restored : let s := restoring
    (s.part 0 0).placement = 1 :: [] ∧ s.waiting 1 = 1 :: [] ∧ s.pickCore 0 0 (s.savedNeeds 1) = some 0 ∧ s.xfers = [] ∧ s.fars = [] ∧
    (s.core 0).eq_ = [] := by decide +kernel
/-- All streams of the team have exited. -/
def exited : State :=
  ctl.setTeam 1 { ctl.team 1 with
    ctl := { (ctl.team 1).ctl with lst := [.exited] }
    grps := [(0, { (ctl.team 1).grp 0 with lst := copies 32 .exited })] }
theorem witness_team_retired : let x := exited.team 1
    x.place = .resident ∧ x.ctl.live = 0 ∧ x.grps.all (fun e => e.2.live == 0) = true ∧ x.tls.all (fun l => l.done == l.issued) = true ∧
    x.ctl.acc = [] ∧ x.grps.all (fun e => e.2.acc.isEmpty) = true ∧ exited.fars.any (fun e => e.2.team == 1 && e.2.ret) = false := by
  decide +kernel
theorem witness_grid_retired : let s := ctl.setTeam 1 { ctl.team 1 with place := .retired }
    let q := s.setGrid 1 { s.grid 1 with qi := some 3 }
    let c := s.setGrid 1 { s.grid 1 with crec := 0x40000020 }
    s.gridOver 1 = true ∧ (s.grid 1).span = none ∧ (s.grid 1).qi = none ∧ (s.grid 1).crec = 0 ∧
    q.gridOver 1 = true ∧ (q.grid 1).qi = some 3 ∧ c.gridOver 1 = true ∧ (c.grid 1).span = none ∧ (c.grid 1).qi = none ∧ (c.grid 1).crec ≠ 0 ∧
    (c.part (c.grid 1).port (c.grid 1).part).near ((c.grid 1).crec - 0x40000000) = some (0x20, false) := by decide +kernel

/-! ## Launches of several packages -/

/-- A packet of span 2 over packages 0 and 1. -/
def spanPacket : List Byte := putBytes (putBytes (ctl.grid 1).packet 24 (bytesOf 4 (2 ^ 12))) 48 (bytesOf 8 3)
/-- A message waits at module 0 or at a package. -/
def atModule (s : State) (p : Nat) (m : Msg) : State := s.setMod 0 { s.mod 0 with inbox := [(p, mgmt, m)] }
/-- A message waits at a package. -/
def atPackage (s : State) (p : Nat) (m : Msg) : State := s.setPkg p { s.pkg p with inbox := [(0, mgmt, m)] }
theorem witness_replicated : let s := atModule ctl 0 (.span spanPacket 0 0 1)
    s.message (.mod 0) (fun x => match x with | .span _ _ _ _ => true | _ => false) = some (0, mgmt, .span spanPacket 0 0 1) ∧
    (s.mod 0).mail.length < 64 ∧ spanPorts spanPacket = [0, 1] := by decide +kernel
/-- Generation 1 waits in the mailbox, package 0 has answered. -/
def mailed (now : Nat) : State :=
  let s := { ctl with now := now }
  s.setMod 0 { s.mod 0 with mail := [{ g := 1, packet := spanPacket, part := 0, port := 0, grid := 1, acks := [(0, 0)], start := some 0, ended := false }], gNext := 2 }
theorem witness_span_decided : let e : MailEntry := { g := 1, packet := spanPacket, part := 0, port := 0, grid := 1, acks := [(0, 0)], start := some 0, ended := false }
    ((atModule (mailed 0) 1 (.ack 1 1)).message (.mod 0) (fun x => match x with | .ack _ _ => true | _ => false) = some (1, mgmt, .ack 1 1) ∧
      ((atModule (mailed 0) 1 (.ack 1 1)).mod 0).entry 1 = some e ∧ (spanPorts e.packet).all (fun i => i == 1 || e.acks.any (fun a => a.1 == i)) = true) ∧
    ((atModule (mailed 0) 1 (.refuse 1 1)).message (.mod 0) (fun x => match x with | .refuse _ _ => true | _ => false) = some (1, mgmt, .refuse 1 1) ∧
      ((atModule (mailed 0) 1 (.refuse 1 1)).mod 0).entry 1 = some e) ∧
    (((mailed 100000).mod 0).entry 1 = some e ∧ e.start = some 0 ∧ 0 + 100000 ≤ (mailed 100000).now ∧ (mailed 99999).now < 0 + 100000) ∧
    ((atModule (mailed 0) 1 (.ack 2 1)).message (.mod 0) (fun x => match x with | .ack _ _ => true | _ => false) = some (1, mgmt, .ack 2 1) ∧
      ((atModule (mailed 0) 1 (.ack 2 1)).mod 0).entry 2 = none) := by decide +kernel
/-- Package 1 gets its copy of generation 1; it may take it or not. -/
def copied (may : Bool) : State :=
  let s := ctl
  let s := s.setPkg 1 { s.pkg 1 with
    remap := [(0, 0 :: copies 11 0xFF ++ [0, 0, 0, 0])]
    pasids := [(0, 0x8000000000000000)] }
  let s := s.setPart 1 0 { (s.part 0 0) with pctl := if may then 1 else 0, modMap := [(0, 0x80000000)] }
  atPackage s 1 (.copy 1 0 0 1 spanPacket)
theorem witness_copies : ∀ may ∈ [false, true],
    (copied may).message (.pkg 1) (fun x => match x with | .copy _ _ _ _ _ => true | _ => false) = some (0, mgmt, .copy 1 0 0 1 spanPacket) ∧
    (0 : Nat) ≠ 1 ∧ ((copied may).pkg 1).aborts.contains (0, 1) = false ∧ (copied may).takesCopy 1 0 0 0 spanPacket = may := by decide +kernel
/-- Grid 1 is a copy of generation 1 of module 0 in package 0, its team reserved. -/
def spanned (s : State) : State :=
  let s := s.setGrid 1 { s.grid 1 with span := some (1, 0, 0) }
  s.setTeam 1 { s.team 1 with place := .reserved }
theorem witness_span_go : let s := atPackage (spanned ctl) 0 (.go 1)
    s.message (.pkg 0) (fun x => match x with | .go _ => true | _ => false) = some (0, mgmt, .go 1) ∧ s.copyOf 0 0 1 = some 1 ∧
    1 ∈ s.teamsOf 1 ∧ (s.team 1).place = .reserved := by decide +kernel
theorem witness_span_abort : let s := atPackage ctl 0 (.abort 1)
    s.message (.pkg 0) (fun x => match x with | .abort _ => true | _ => false) = some (0, mgmt, .abort 1) ∧ s.copyOf 0 0 1 = none := by
  decide +kernel
theorem witness_span_reports : let m : Msg := .retired 1 0 1 0
    (atModule ctl 1 m).message (.mod 0) (fun x => match x with | .retired _ _ _ _ => true | _ => false) = some (1, mgmt, m) ∧
    (atPackage (spanned ctl) 0 m).message (.pkg 0) (fun x => match x with | .retired _ _ _ _ => true | _ => false) = some (0, mgmt, m) ∧
    (atPackage (spanned ctl) 0 m).copyOf 0 0 1 = some 1 := by decide +kernel

/-! ## Preemption -/

theorem witness_preempt_request : let s := sliced ctl
    (s.team 1).place = .resident ∧ s.preempting 0 = false ∧ (coresOf (s.pkg 0) 0 0)[0]? = some 0 ∧
    (s.teamsAt 0).find? (fun t => (s.team t).slot == 0 && (s.team t).place == .resident && (s.team t).part == 0) = some 1 ∧
    (s.team 1).preempt = none := by decide +kernel
/-- A grid of a higher level waits, and the slice of the team is over. -/
def slicedOut : State :=
  let s := { ctl with now := 1000 }
  let s := s.setGrid 2 { Grid.blank with packet := putBytes (s.grid 1).packet 24 (bytesOf 4 7) }
  s.setPart 0 0 { s.part 0 0 with quantum := 1, placement := [2] }
theorem witness_slice : slicedOut.expired 0 0 = some 1 ∧ (slicedOut.team 1).preempt = none ∧ (slicedOut.team 1).place = .resident := by
  decide +kernel
/-- The control thread waits in WAITA 0 on a barrier whose command holds a fault, and the group does not qualify. -/
def faultWaiting : State :=
  let s := between (waiting (begun 0x7D000000) [])
  let s := s.setCore 0 { s.core 0 with clk := 64 }
  let s := s.setTeam 1 { s.team 1 with stuck := 64, grps := [(0, { (s.team 1).grp 0 with halted := true })] }
  { s with xfers := [(1, { Xfer.blank with team := 1, ab := 0, done := false, held := [(0, 0)] })] }
theorem witness_fault_save : let s := faultWaiting
    (s.team 1).place = .resident ∧ (s.team 1).preempt = none ∧ s.stuckOnFault 1 = true ∧ 64 ≤ (s.team 1).stuck := by decide +kernel
theorem witness_halts : ∀ coop ∈ [false, true], let s := asked (between ctl) coop
    (s.team 1).preempt.any (fun p => p.coop == coop) = true ∧ (s.team 1).ctl.pkt = none ∧ (s.team 1).ctl.live ≠ 0 := by decide +kernel
theorem witness_ppt_timeout : let s := { asked lane true with now := (lane.team 1).pptto.toNat }
    (s.team 1).preempt.any (fun p => p.coop && decide (p.since + (s.team 1).pptto.toNat ≤ s.now)) = true ∧
    (s.team 1).grps.any (fun e => e.2.live != 0 && !e.2.halted) = true := by decide +kernel
/-- A halted team with room for its frame. -/
def halted : State :=
  let s := asked (between ctl) false
  let x := s.team 1
  let s := s.setTeam 1 { x with
    ctl := { x.ctl with halted := true }
    grps := x.grps.map (fun e => (e.1, { e.2 with halted := true })) }
  s.setPart 0 0 { s.part 0 0 with saveMap := [(0, 0x8000000000400010)] }
theorem witness_saved : let s := halted
    s.sound = true ∧ (s.team 1).preempt.any (fun p => !p.coop && decide (p.reason < 256)) = true ∧ (s.team 1).place = .resident ∧
    (s.team 1).standing = true ∧ (s.freezeRequests 1).saveReady 1 = true ∧ (s.team 1).errs = [] ∧
    (({ s with xfers := [(1, { Xfer.blank with team := 1, done := false, started := true, local_ := [0], unacct := 16 })] } : State).freezeRequests 1).saveReady 1 = false := by
  decide +kernel
theorem witness_saved_room : (halted.part 0 0).frameAt 1000000 = some 0 := by decide +kernel

/-! ## Faults, fences, lines, errors -/

/-- A fault record. -/
def fault (h : Option Faulted) : FaultRec :=
  { cause := 1, source := 2, count := 0, held := h, pasid := 0, addr := 0, grid := 1, tid := 0, lmod := 0, tl := 0, num := 0, time := 0, page := 0 }
theorem witness_fault_record : let s := ctl.setPart 0 0 { ctl.part 0 0 with fqTail := 255, fqWait := [fault none] }
    s.sound = true ∧ (s.part 0 0).fqWait = [fault none] ∧ (s.part 0 0).tailFree = true := by decide +kernel
theorem witness_heads : let s := ctl.setPart 0 0 { ctl.part 0 0 with fqTail := 3, erTail := 5 }
    let x := s.part 0 0
    (3#32 - x.fqHead).toNat ≤ (x.fqTail - x.fqHead).toNat ∧ ¬((4#32 - x.fqHead).toNat ≤ (x.fqTail - x.fqHead).toNat) ∧
    (5#32 - x.erHead).toNat ≤ (x.erTail - x.erHead).toNat ∧ x.erLost = 0 ∧ ¬((6#32 - x.erHead).toNat ≤ (x.erTail - x.erHead).toNat) := by
  decide +kernel
theorem witness_overflow : let s := ctl.setPart 0 0 { ctl.part 0 0 with erTail := 256, erLost := 1 }
    let x := s.part 0 0
    (1#32 - x.erHead).toNat ≤ (x.erTail - x.erHead).toNat ∧ x.erLost ≠ 0 ∧ (x.erTail - 1).toNat < 256 ∧ s.sound = true := by decide +kernel
/-- The record at place 255 of the fault queue holds command 1, whose page has no translation. -/
def heldCommand : State :=
  let s := mapped ctl
  let s := s.setPart 0 0 { s.part 0 0 with fqRecs := [(255, fault (some (.command 1)))] }
  { s with xfers := [(1, { Xfer.blank with kind := .fetch, team := 1, done := false })] }
theorem witness_not_held : (heldCommand.part 0 0).heldAt 0 = none := by decide +kernel
theorem witness_held : let s := heldCommand
    (s.part 0 0).heldAt 511 = some (fault (some (.command 1)), .command 1) ∧ (s.xfer 1).done = false ∧ (s.xfer 1).status = none ∧
    (fault (some (.command 1))).count + 1 < 4 := by decide +kernel
theorem witness_held_faults : ∃ st, heldCommand.unitVerdict 1 (fault (some (.command 1))).page .fresh = .fault st := ⟨2, by decide +kernel⟩
theorem witness_fences : let s := mapped ctl
    s.fencing 0 = false ∧ (s.part 0 0).module 0 = some (0, 0) ∧ (s.part 0 0).modules ≠ [] := by decide +kernel
theorem witness_fence_done : let f : Fence := { id := 1, port := 0, part := 0, mods := [0], team := none }
    ({ mapped ctl with fences := [f] }).fences.find? (fun f => f.id = 1) = some f := by decide +kernel
theorem witness_line : let s := ctl
    (s.grid 1).retired = false ∧ (s.grid 1).far = false ∧ (s.teamsAt 0).any (fun t => (s.team t).grid == 1) = true ∧
    64 * 63 < (s.grid 1).segLen ∧ (s.core 0).icache.any (fun e => e.1 == 1 && e.2.1 == 63) = false ∧ s.codeHeld 1 0 63 = false ∧
    (s.part (s.grid 1).port (s.grid 1).part).near ((s.grid 1).segBase + 64 * 63) = some (4032, false) ∧
    (s.pkg (s.grid 1).port).errCount (4032 / 64) = 0 := by decide +kernel
theorem witness_errors : (0, 0, 0) ∉ (ctl.team 1).errs ∧ (1, 0, 0) ∉ (ctl.team 1).errs ∧ (0, 0) ∉ (ctl.pkg 0).errs := by decide +kernel

/-! ## Grants -/

/-- A fetch of 16 bytes of module 0 for team 1, as transfer 1. -/
def transfer : Xfer := { Xfer.blank with kind := .fetch, team := 1, grid := 1, done := false }
/-- The transfer in the domain, with a message at the package. -/
def sending (x : Xfer) (m : Msg) : State :=
  let s := { mapped ctl with xfers := [(1, x)] }
  s.setPkg 0 { s.pkg 0 with inbox := [(0, 0, m)] }
theorem witness_rts : let s := sending transfer (.rts 1 16 2 true)
    s.message (.pkg 0) (fun m => match m with | .rts j _ _ _ => j == 1 && (s.xfer 1).receiver == .pkg 0 | _ => false) = some (0, 0, .rts 1 16 2 true) ∧
    (s.xfer 1).done = false ∧ (16 : Nat) ≠ 0 ∧ (s.xfer 1).req = none ∧ (s.xfer 1).kind ≠ .put ∧ s.entryFree 1 = true := by decide +kernel
/-- Every place of the table that the partition may take is taken, by other requests. -/
def taken : Req := { state := .active, remaining := 16, born := 0, tokens := [], expiries := 0, frozenAt := 0, deferred := false }
/-- A full table. -/
def crowded : State :=
  let s := sending transfer (.rts 1 16 2 true)
  let s := { s with xfers := (1, transfer) :: [(2, { transfer with req := some taken })] }
  s.setPkg 0 { s.pkg 0 with table := copies (2048 + 64) 2 }
theorem witness_rts_full : let s := crowded
    s.message (.pkg 0) (fun m => match m with | .rts j _ _ _ => j == 1 && (s.xfer 1).receiver == .pkg 0 | _ => false) = some (0, 0, .rts 1 16 2 true) ∧
    (s.xfer 1).done = false ∧ (s.xfer 1).req = none ∧ (s.xfer 1).kind ≠ .put := by decide +kernel
theorem witness_rts_full_table : crowded.entryFree 1 = false := by decide +kernel
theorem witness_rts_retry : let s := sending { transfer with rts := some 0 } (.deferred 2)
    (s.xfer 1).rts = some 0 ∧ (s.xfer 1).done = false ∧ 0 ≤ s.now := by decide +kernel
/-- The request stands in the table of package 0. -/
def requesting (r : Req) (now : Nat) : State :=
  let s := { sending { transfer with req := some r } (.deferred 2) with now := now }
  s.setPkg 0 { s.pkg 0 with table := [1] }
theorem witness_token : let s := requesting taken 0
    s.pick (s.candidates (.pkg 0)) = some 1 ∧ (s.xfer 1).req = some taken := by decide +kernel
/-- The token of the request. -/
def token : Token := { id := 7, bytes := 16, start := 0 }
theorem witness_token_expiry : let r : Req := { taken with tokens := [token] }
    let s := requesting r 16000
    (s.xfer 1).req = some r ∧ r.tokens.find? (fun t => t.id = 7) = some token ∧ (s.xfer 1).receiver = .pkg 0 ∧
    s.timersRun (s.xfer 1) = true ∧ token.start + 16000 ≤ s.now ∧ r.state = .active ∧ s.leaving (s.xfer 1) = false ∧ r.expiries + 1 < 3 := by decide +kernel
theorem witness_expiry_notice : let s := (sending transfer (.deferred 2)).setMod 0 { (sending transfer (.deferred 2)).mod 0 with inbox := [(0, 0, .expiry 1 7)] }
    s.message (.mod 0) (fun m => match m with | .expiry j _ => j == 1 && (s.xfer 1).source == .mod 0 | _ => false) = some (0, 0, .expiry 1 7) ∧
    (s.xfer 1).done = false := by decide +kernel
theorem witness_frozen : let r : Req := { taken with state := .frozen }
    let s := requesting r 1000000
    (s.xfer 1).req = some r ∧ (s.xfer 1).receiver = .pkg 0 ∧ r.state = .frozen ∧ r.deferred = false ∧ r.frozenAt + 1000000 ≤ s.now := by
  decide +kernel
theorem witness_deferred : let s := (sending transfer (.deferred 2)).setMod 0 { (sending transfer (.deferred 2)).mod 0 with inbox := [(0, 0, .deferred 1)] }
    let s := s.setTeam 1 { s.team 1 with place := .saved 0 0 }
    (s.message (.mod 0) (fun m => m == .deferred 1 && (s.xfer 1).source == .mod 0)).isSome = true ∧ (s.xfer 1).done = false ∧
    s.leaving (s.xfer 1) = true := by decide +kernel
theorem witness_purged : let r : Req := { taken with state := .purging }
    let s := requesting r 0
    (s.xfer 1).req = some r ∧ (s.xfer 1).receiver = .pkg 0 ∧ r.state = .purging ∧ s.inFlight 1 = false := by decide +kernel

/-! ## The link layer -/

/-- The direction from package 0 to module 0 of partition 0. -/
def up : LinkId := ⟨0, 0, 0, true⟩
/-- A link state on that direction or its counterpart. -/
def linked (l : LinkId) (k : Link) : State := (mapped ctl).setLink l k
theorem witness_send : let k : Link := { Link.blank 16 with outq := [.deferred 1] }
    let s := linked up k
    s.moving up = true ∧ (s.link up).sendFrom = (s.link up).next ∧ (s.link up).open_ = true ∧ (s.link up).outq = .deferred 1 :: [] := by decide +kernel
theorem witness_resend : let k : Link := { Link.blank 16 with next := 1, retry := [(0, .deferred 1)] }
    let s := linked up k
    s.moving up = true ∧ (s.link up).sendFrom ≠ (s.link up).next ∧
    (s.link up).retry.find? (fun e => e.1 = (s.link up).sendFrom) = some (0, .deferred 1) := by decide +kernel
theorem witness_duplicate : let k : Link := { Link.blank 16 with expect := 1, flights := [(0, 0, .deferred 1, none)] }
    let s := linked up k
    (s.link up).flights.find? (fun e => e.2.1 = 0) = some (0, 0, .deferred 1, none) ∧ s.mayLand (.deferred 1) = true ∧
    2 ^ 47 ≤ seqSub 0 (s.link up).expect := by decide +kernel
theorem witness_reply : let l : LinkId := ⟨0, 0, 0, false⟩
    let s := linked l { Link.blank 256 with flights := [(0, 0, .farRep 1, none)] }
    (s.link l).flights.find? (fun e => e.2.1 = 0) = some (0, 0, .farRep 1, none) ∧ s.mayLand (.farRep 1) = true ∧ l.up = false ∧
    0 = (s.link l).expect ∧ (s.link l).heldBack = [] := by decide +kernel
theorem witness_flit : let s := { linked up { Link.blank 16 with gapAt := some 0 } with now := 256 }
    s.canFlit up = true ∧ (s.link up).gapAt = some 0 ∧ 0 + 256 ≤ s.now := by decide +kernel
theorem witness_flit_arrives : let s := linked up { Link.blank 16 with next := 1, retry := [(0, .deferred 1)], flits := [{ ack := 1, freed := 17, used := 1, nak := false }] }
    (s.link up).flits[0]? = some { ack := 1, freed := 17, used := 1, nak := false } ∧ s.inRetrain up = false ∧
    (s.link up).retry.all (fun e => match e.2 with | .data _ _ _ _ _ => false | .farReq _ => false | _ => true) = true ∧
    1 ≤ seqSub 1 (s.link up).ack ∧ seqSub 1 (s.link up).ack ≤ seqSub (s.link up).next (s.link up).ack := by decide +kernel
theorem witness_replay : let s := { linked up { Link.blank 16 with next := 1 } with now := 1000 }
    s.moving up = true ∧ (s.link up).next ≠ (s.link up).ack ∧ (s.link up).ackAt + 1000 ≤ s.now := by decide +kernel

/-! ## Optics -/

theorem witness_lane_ok : ((mapped ctl).pkg 0).up = true ∧ (mapped ctl).lane 0 0 15 true = .ok ∧ (mapped ctl).attached 0 0 true = true ∧
    ({ mapped ctl with dark := [lanePort 0 0 true] } : State).attached 0 0 true = false := by decide +kernel
/-- The lane of plane 0 locks on spare 0 since time 0. -/
def locking (now : Nat) : State := { mapped ctl with lanes := [((0, 0, 0, true), .locking 0 0 0)], now := now }
theorem witness_locking : (locking 50000).lane 0 0 0 true = .locking 0 0 0 ∧ (locking 50000).attached 0 0 true = true ∧ (locking 50000).now ≤ 0 + 50000 ∧ 0 + 50000 ≤ (locking 50000).now := by
  decide +kernel
theorem witness_resume : let s := linked up { Link.blank 16 with resume := some 0 }
    (s.link up).resume = some 0 ∧ s.live up ≠ [] ∧ (s.link up).retry = [] := by decide +kernel
theorem witness_retrain : let s := linked up { Link.blank 16 with replays := copies 16 0 }
    up.part ≠ mgmt ∧ (s.pkg up.port).up = true ∧ (s.link up).down = false ∧ (s.link up).retrain = none ∧
    16 ≤ ((s.link up).replays.filter (fun t => s.now < t + 100000)).length := by decide +kernel
theorem witness_retrain_end : let s := linked up { Link.blank 16 with retrain := some 0 }
    (s.link up).retrain = some 0 ∧ s.now ≤ 0 + 100000 ∧ (s.link up).down = false ∧ (s.pkg up.port).allocWait = [] ∧
    downLimit (s.planes up.port up.part up.pmod).length ≤ (s.live up).length := by decide +kernel
theorem witness_planes : let s := requesting taken 0
    ((mapped ctl).pkg 0).allocWait = [] ∧ (mapped ctl).allocReady 0 63 15 0x8000 ((mapped ctl).holders 0 63 15) = true ∧
    s.planeOwner 0 0 0 = some 0 ∧ s.holders 0 0 0 = some [1] ∧ s.allocReady 0 0 0 0x8001 (s.holders 0 0 0) = false ∧
    (s.pkg 0).allocWait = [] := by decide +kernel
theorem witness_recommission : let s := linked up { Link.blank 16 with down := true }
    (s.pkg 0).chanBusy = none ∧ s.isDown 0 0 0 = true := by decide +kernel
theorem witness_recommissioned : let s := (mapped ctl).setPkg 0 { (mapped ctl).pkg 0 with chanBusy := some (0, 0) }
    (s.pkg 0).chanBusy = some (0, 0) := by decide +kernel
theorem witness_laser : (mapped ctl).litLane true 0 15 0 = some (0, 0) ∧ ((mapped ctl).pkg 0).up = true := by decide +kernel

/-! ## Modules and local pieces -/

/-- A message at the head of the channel of partition 0 at module 0. -/
def heading (x : Xfer) (m : Msg) : State :=
  let s := { mapped ctl with xfers := [(1, x)] }
  s.setMod 0 { s.mod 0 with inbox := [(0, 0, m)] }
theorem witness_read_request : let s := heading transfer (.readReq 1)
    (s.xfer 1).pmod = 0 ∧ (s.mod 0).head (s.xfer 1).port (s.xfer 1).part = some (.readReq 1) ∧ (s.xfer 1).kind = .fetch ∧
    (s.xfer 1).done = false ∧ (s.xfer 1).todo = [] := by decide +kernel
theorem witness_engine_command : let s := heading { transfer with kind := .gcreate } (.engm 1)
    (s.xfer 1).pmod = 0 ∧ (s.mod 0).head (s.xfer 1).port (s.xfer 1).part = some (.engm 1) ∧ (s.xfer 1).kind = .gcreate ∧
    (s.xfer 1).done = false ∧ (s.mod 0).revoked.contains ((s.xfer 1).port, (s.xfer 1).part, (s.xfer 1).pasid) = false ∧
    (s.mod 0).tenantOk (s.xfer 1).tenant = true ∧ (s.mod 0).freeGroup.isSome = true := by decide +kernel
theorem witness_engine_completion : let s := sending { transfer with kind := .fill } (.engmDone 1 0 0)
    (s.pkg 0).inbox.find? (fun e => match e.2.2 with | .engmDone y _ _ => y == 1 | _ => false) = some (0, 0, .engmDone 1 0 0) ∧
    (s.xfer 1).done = false ∧ (s.xfer 1).kind ≠ .gcreate := by decide +kernel
/-- A reduction group of two members of which none is ready. -/
def group : Group :=
  { port := 0, part := 0, pasid := 0, n := 2, ifmt := 7, tmo := 1, len := 64, bases := [0, 64], ready := [], born := 0, err := false, stopped := none, rels := [] }
theorem witness_group_timeout : let s := { (mapped ctl).setMod 0 { (mapped ctl).mod 0 with groups := [(0, group)] } with now := 1000 }
    Map.find (s.mod 0).groups 0 = some group ∧ group.err = false ∧ group.stopped = none ∧ group.ready.length ≠ group.n ∧
    group.born + 1000 * group.tmo ≤ s.now := by decide +kernel
theorem witness_refill : ({ ctl with now := 1000 }.mod 0).refillAt + 1000 ≤ 1000 := by decide +kernel
/-- A COPYL of two 16-byte elements of which the first piece is next. -/
def copying : State :=
  let r := bytesOf 4 (1 + 8 * 4) ++ bytesOf 12 (2 + 16 * 2 ^ 48) ++ copies 48 0
  let s := { ctl with xfers := [(1, { Xfer.blank with team := 1, done := false, started := true, rec0 := r, rec1 := r, sent := [0, 1], local_ := [0, 1], unacct := 32, x1 := 0x40 })] }
  s.setCore 0 { s.core 0 with eq_ := [1] }
theorem witness_copy_piece : let s := copying
    let x := s.xfer 1
    s.sound = true ∧ x.kind = .copyl ∧ x.done = false ∧ x.started = true ∧ (s.team x.team).place = .resident ∧ x.local_ = 0 :: [1] ∧
    x.esize = 16 ∧ x.elementsOf (16 * 0) (min 16 (x.streamLen - 16 * 0)) = [0] ∧ min 16 (x.streamLen - 16 * 0) < x.unacct ∧
    x.farAddr 0 % 16 = 0 ∧ x.localAddr 0 % 16 = 0 ∧ x.farAddr 0 < 0x40000000 ∧ x.localAddr 0 < 0x40000000 ∧ (s.team x.team).errs = [] ∧
    (s.core (s.team x.team).core).eq_ = [1] := by decide +kernel

/-! ## Contexts, functions, host, firmware -/

/-- Entry 4095 of the context table is PASID 0 of partition 0 for function 0. -/
def context (e : DWord) : State := let s := mapped ctl; s.setPkg 0 { s.pkg 0 with pasids := [(4095, e)] }
theorem witness_revoke : let s := context 0x8000000000000000
    ((s.pkg 0).pasidEntry 4095).getLsbD 61 = false ∧ ((s.pkg 0).pasidEntry 4095).getLsbD 63 = true ∧ s.contextGrids 0 0 0 = [1] ∧
    (s.grid 1).retired = false ∧ (s.grid 1).status = none ∧ (s.part 0 0).modules.length = 1 := by decide +kernel
theorem witness_enable : let s := context 0
    (0x8000000000000000#64).getLsbD 62 = false ∧ (0x8000000000000000#64).getLsbD 63 = true ∧
    ((s.pkg 0).pasidEntry 4095).getLsbD 61 = false ∧ ((s.pkg 0).pasidEntry 4095).getLsbD 63 = false := by decide +kernel
theorem witness_busy_clears : let s := context 0xE000000000000000
    let s := { s.setPkg 0 { s.pkg 0 with pasidWait := [(4095, 1)], inbox := [(0, mgmt, .revokeDone 4095)] } with grids := [] }
    ((s.pkg 0).pasidEntry 4095).getLsbD 61 = true ∧
    Map.get (s.pkg 0).pasidWait 4095 0 ≤ ((s.pkg 0).inbox.filter (fun m => m.2.2.answers 4095)).length ∧ s.contextGone 0 0 0 = true := by
  decide +kernel
theorem witness_context_messages :
    (atModule ctl 0 (.revoke 0 0 4095)).message (.mod 0) (fun x => match x with | .revoke _ _ _ => true | _ => false) = some (0, mgmt, .revoke 0 0 4095) ∧
    (atModule ctl 0 (.enable 0 0 4095)).message (.mod 0) (fun x => match x with | .enable _ _ _ => true | _ => false) = some (0, mgmt, .enable 0 0 4095) := by
  decide +kernel
/-- Function 1024 is in a state, and the grid belongs to it or not. -/
def functioning (x : VfState) (f : Nat) : State :=
  let s := ctl.setGrid 1 { ctl.grid 1 with fn := f }
  s.setPkg 0 { s.pkg 0 with vfs := [(1024, { Vf.blank with state := x, pending := 0x8000000000000001 })] }
theorem witness_functions : ∀ x ∈ [VfState.off, .running, .paused, .descheduled], ((functioning x 1024).vf 0 1024).state = x ∧
    (functioning x 1024).vfTeams 0 1024 = [1] ∧ ((functioning x 1024).team 1).place = .resident := by decide +kernel
theorem witness_teardown : ∀ x ∈ [VfState.running, .paused, .descheduled], ((functioning x 1024).vf 0 1024).up = true ∧
    (functioning x 1024).vfGrids 0 1024 = [1] ∧ ((functioning x 1024).grid 1).retired = false ∧ ((functioning x 1024).grid 1).status = none := by
  decide +kernel
theorem witness_teardown_complete : let s := functioning .draining 0
    (s.vf 0 1024).state = .draining ∧ s.vfGrids 0 1024 = [] ∧
    s.xfers.all (fun e => !((s.grid e.2.grid).port == 0 && (s.grid e.2.grid).fn == 1024 && e.2.req.isSome)) = true ∧
    s.fars.all (fun e => !((s.grid e.2.grid).port == 0 && (s.grid e.2.grid).fn == 1024 && e.2.ret)) = true := by decide +kernel

theorem witness_host_near : ctl.sound = true ∧ 0x3FFFFFFC + (bytesOf 4 5).length ≤ 0x40000000 ∧ 0x3FFFFFFC + 4 ≤ 0x40000000 ∧ (ctl.pkg 0).errs = [] := by
  decide +kernel
/-- Far window 0 shows the first bytes of logical module 0 to the host. -/
def windowed : State := let s := mapped ctl; s.setPkg 0 { s.pkg 0 with farwin := [(0, 0x8000000000000000)] }
theorem witness_host_far : let s := windowed
    let e := (Map.get (s.pkg 0).farwin 0 0).toNat
    s.sound = true ∧ bits e 63 63 = 1 ∧ (s.part 0 0).module (bits e 37 32) = some (0, 0) ∧ s.reaches 0 0 0 = true ∧
    bits (s.mod 0).hotctl 7 7 = 0 ∧ bits e 42 38 = 0 ∧ 65532 + 4 ≤ 65536 := by decide +kernel
theorem witness_host_far_page : ∀ n ∈ [Need.read, .write],
    (windowed.mod 0).judge { port := 0, part := 0, pasid := 0, tenant := 0, secure := false } 0 n .cached = .ok 65536 := by decide +kernel
theorem witness_host_far_invalid : bits (Map.get (ctl.pkg 0).farwin 0 0).toNat 63 63 = 0 ∧ (0xFFFFFFFF : Nat) + 1 ≤ 2 ^ 32 := by decide +kernel
theorem witness_apertures : (ctl.mod 0).managers.getLsbD 63 = true ∧
    ((ctl.setMod 0 { ctl.mod 0 with managers := 1 }).mod 0).managers.getLsbD 63 = false ∧ 0x3000 ≤ 0xAFF8 ∧ 0xAFF8 < 0xB000 ∧ 0xAFF8 % 16 = 8 ∧
    0xFF0 < 0x1000 ∧ 0xFF0 % 16 = 0 := by decide +kernel
theorem witness_map_set : State.reset.idlePart 0 31 = true ∧ (State.reset.pkg 0).badExtent 31 true 3 (0x8000000000400000#64 &&& 0x80000007007F003F#64) = false ∧
    ctl.idlePart 0 0 = false ∧ State.reset.idlePart 0 ((Map.get (State.reset.pkg 0).remap 31 []).getD 12 0xFF).toNat = true := by decide +kernel
theorem witness_power : (State.reset.pkg 0).up = false ∧ (copies 8 21).length = 8 ∧ ∀ c ∈ copies 8 21, (State.reset.pkg 0).floor ≤ c ∧ c ≤ 21 := by
  decide +kernel

/-! ## The machine as a whole -/

theorem test_reset_sound : State.reset.sound = true := by decide +kernel
/-- An outcome that goes on gives a next state. -/
theorem goes_on {o : Out} (h : (match o with | .next _ => true | _ => false) = true) : ∃ t, o = .next t := by
  cases o with
  | next t => exact ⟨t, rfl⟩
  | _ => simp at h
theorem witness_invariant : lane.sound = true ∧ ∃ t, step lane = .next t := ⟨by decide +kernel, goes_on (by decide +kernel)⟩

/-! ## Steps: the value that an instruction gives a lane of the current stream, worked out from the spec -/

/-- The value that an instruction leaves in flight for a lane. -/
def result (i : Instr) (s : State) (l : Nat) : Option Nat :=
  match exec i s with
  | .next t => t.onCur (fun _ st => st.pend.getLast?.bind (fun p => (p.vals.getD l none).map (fun v => v.toNat)))
  | _ => none
/-- The trap that ends the slot of an instruction. -/
def trapped (i : Instr) (s : State) : Option Trap :=
  match exec i s with
  | .next t => (match t.slotEnd with | .trapped x _ _ => some x | _ => none)
  | _ => none
/-- v1, v2 and v3 of every lane, or s1, s2 and s3. -/
def with3 (s : State) (a b c : Nat) : State := holds (holds (holds s 1 a) 2 b) 3 c
/-- v1 of every lane is its number. -/
def counting : State := lane.modCur (fun w st => { st with regs := Map.set st.regs 1 ((List.range 32).map (fun l => BitVec.ofNat w l)) })
/-- Only lanes 0 to 3 execute. -/
def four (s : State) : State := s.modCur (fun _ st => { st with pkt := st.pkt.map (fun k => { k with ex := 15 }) })

/-- R268: the sum wraps at 32 and at 64 bits. -/
theorem test_add_wraps : result (.add false 4 1 2 0) (with3 lane 0xFFFFFFFF 2 0) 31 = some 1 ∧
    result (.add false 4 1 2 0) (with3 ctl 0xFFFFFFFF 2 0) 0 = some 0x100000001 := by decide +kernel
/-- R268: a − b, not b − a. -/
theorem test_sub : result (.sub false 4 1 2 0) (with3 lane 1 2 0) 0 = some 0xFFFFFFFF := by decide +kernel
/-- R268: (−1) × (−1) has high part 0, unsigned 0xFFFFFFFE. -/
theorem test_mulh : result (.mulh false 4 1 2 0) (with3 lane 0xFFFFFFFF 0xFFFFFFFF 0) 0 = some 0 ∧
    result (.mulhu false 4 1 2 0) (with3 lane 0xFFFFFFFF 0xFFFFFFFF 0) 0 = some 0xFFFFFFFE := by decide +kernel
/-- R268: MAD adds to the destination. -/
theorem test_mad : result (.mad false 3 1 2 0) (with3 lane 3 5 7) 0 = some 22 := by decide +kernel
/-- R268: a AND NOT b. -/
theorem test_andn : result (.andn false 4 1 2 0) (with3 lane 0xF0 0x30 0) 0 = some 0xC0 := by decide +kernel
/-- R268: an amount of 32 gives 0, or the sign from SAR; 64 in the control stream. -/
theorem test_shifts : result (.shl false 4 1 2 0) (with3 lane 1 32 0) 0 = some 0 ∧ result (.shr false 4 1 2 0) (with3 lane 0x80000000 31 0) 0 = some 1 ∧
    result (.sar false 4 1 2 0) (with3 lane 0x80000000 33 0) 0 = some 0xFFFFFFFF ∧ result (.shl false 4 1 2 0) (with3 ctl 1 32 0) 0 = some 0x100000000 := by
  decide +kernel
/-- R268: signed and unsigned minimum and maximum. -/
theorem test_min_max : result (.min false 4 1 2 0) (with3 lane 0xFFFFFFFF 1 0) 0 = some 0xFFFFFFFF ∧ result (.minu false 4 1 2 0) (with3 lane 0xFFFFFFFF 1 0) 0 = some 1 ∧
    result (.max false 4 1 2 0) (with3 lane 0xFFFFFFFF 1 0) 0 = some 1 ∧ result (.maxu false 4 1 2 0) (with3 lane 0xFFFFFFFF 1 0) 0 = some 0xFFFFFFFF := by decide +kernel
/-- R268: SEL writes b where its predicate is false. -/
theorem test_sel : result (.sel false 4 1 2 3) (with3 lane 5 6 0) 0 = some 6 ∧ result (.sel false 4 1 2 0) (with3 lane 5 6 0) 0 = some 5 := by decide +kernel
/-- R269: w1 + w1 carries into the high word, v5; both words in one write each. -/
theorem test_add64 : (match exec (.add64 false 4 2 2 0) (with3 lane 0 0x80000000 0) with
    | .next t => ((t.team 1).grp 0).pend.map (fun p => (p.dest, p.vals.getD 0 none)) | _ => []) =
    [(.reg 4, some 0), (.reg 5, some 1)] := by decide +kernel
/-- R270, with the example of R271: the immediate is signed; clz of 1 in the control stream is 63. -/
theorem test_immediates : result (.addi false 4 1 0x7FD) (with3 lane 2 0 0) 0 = some 0xFFFFFFFF ∧ result (.movi false 4 0x400) ctl 0 = some 0xFFFFFFFFFFFFFC00 ∧
    result (.clz false 3 1) (with3 ctl 1 0 0) 0 = some 63 ∧ result (.abs false 3 1) (with3 lane 0x80000000 0 0) 0 = some 0x80000000 := by decide +kernel
/-- R272: the examples of the rule, and BFI with the field at the top. -/
theorem test_bit_fields : result (.bmix false 1 2 3) (with3 lane 0x44332211 0x88776655 0xB740) 0 = some 0xFF441155 ∧
    result (.bmix false 1 2 3) (with3 lane 0x44332211 0x88776655 0x8740) 0 = some 0x00441155 ∧
    result (.bfx false 4 1 2) (with3 lane 0x00000800 0x0804 0) 0 = some 0xFFFFFF80 ∧
    result (.bfi false 3 1 2) (with3 lane 0xFF (31 + 2 * 256) 5) 0 = some 0x80000005 := by decide +kernel
/-- R273: signed below unsigned; `.andn` and `.nset`. -/
theorem test_compare : result (.icmp 4 .lt .set 1 2) (with3 lane 0xFFFFFFFF 1 0) 0 = some 1 ∧ result (.icmp 4 .ltn .set 1 2) (with3 lane 0xFFFFFFFF 1 0) 0 = some 0 ∧
    result (.icmp 4 .eq .setNot 1 2) (with3 lane 1 1 0) 0 = some 0 := by decide +kernel
/-- R274: p0 is true; BALLOT sees the executing lanes only. -/
theorem test_ballot : result (.ballot false 4 0) (four lane) 0 = some 15 ∧ result (.ptov false 4) lane 9 = some 1 ∧
    result (.pnot 4 0) lane 0 = some 0 := by decide +kernel
/-- R275, R276: shuffles, an own value out of range, reductions and the inclusive scan. -/
theorem test_exchange : let s := holds counting 2 30
    result (.shflIdx false 4 1 2) s 0 = some 30 ∧ result (.shflUp false 4 1 2) s 31 = some 1 ∧ result (.shflUp false 4 1 2) s 5 = some 5 ∧
    result (.shflXor false 4 1 2) s 1 = some 31 ∧ result (.shflIdx false 4 1 2) (four s) 2 = some 2 := by decide +kernel
/-- R275: 0 + 1 + … + 31 = 496; over lanes 0 to 3, 6; the scan of lane 3 is 6. -/
theorem test_reductions : result (.lredAdd false 4 1) counting 7 = some 496 ∧ result (.lredAdd false 4 1) (four counting) 3 = some 6 ∧
    result (.lscanAdd false 4 1) counting 3 = some 6 ∧ result (.lredMax false 4 1) counting 0 = some 31 := by decide +kernel
/-- R261, the example of the rule: 1.0, 2^24, −2^24, 1.0 in lanes 0 to 3 give 1.0. -/
theorem test_tree_sum : result (.lredFadd false 4 1) (four (lane.modCur (fun w st => { st with
    regs := Map.set st.regs 1 (([0x3F800000, 0x4B800000, 0xCB800000, 0x3F800000].map (fun v => BitVec.ofNat w v)) ++ copies 28 0) }))) 0 = some 0x3F800000 := by
  decide +kernel
/-- R277, R245: 1.0 + 2^−24 is a tie to even; a fused multiply-add rounds once: (1 + 2^−23)² − (1 + 2^−22) = 2^−46. -/
theorem test_float : result (.fadd false 4 1 2 0) (with3 lane 0x3F800000 0x33800000 0) 0 = some 0x3F800000 ∧
    result (.ffma false 3 1 2 0) (with3 lane 0x3F800001 0x3F800001 0xBF800002) 0 = some 0x28800000 := by decide +kernel
/-- The examples of R279, R280 and R281. -/
theorem test_float_examples : result (.hxadd false 4 1 2 0) (with3 lane 0x3C003C00 0x4000BC00 0) 0 = some 0x42000000 ∧
    result (.frsq false 4 1) (with3 lane 0x40800000 0 0) 0 = some 0x3F000000 ∧ result (.fclass false 4 1) (with3 lane 0xFF800001 0 0) 0 = some 0x100 ∧
    result (.fclass false 4 1) (with3 lane 1 0 0) 0 = some 0x20 ∧ result (.cvt false 4 1 .bf16 .f32 .rto) (with3 lane 0x3F808000 0 0) 0 = some 0x3F81 ∧
    result (.cvt true 4 1 .i8 .f32 .rne) (with3 lane 0x43965999 0 0) 0 = some 0x7F := by decide +kernel
/-- The lanes hold 0.5 × l in v1 for the lanes of the worked example of R287 that its table gives. -/
def row : State :=
  let v (l : Nat) : Nat := if l = 1 then 0x3F000000 else if l = 2 then 0x3F800000 else if l = 3 then 0x3FC00000 else if l = 31 then 0x41780000 else 0
  lane.modCur (fun w st => { st with regs := Map.set st.regs 1 ((List.range 32).map (fun l => BitVec.ofNat w (v l))) })
/-- The worked example of chapter 14: the pair 0x827E, the elements 0x20, 0x84, 0x86 and 0xBE, and back. -/
theorem test_quantize : let s := holds row 2 0x827E
    result (.txexp false 4 1 .rne false) row 31 = some 0x827E ∧ result (.txcvPack false 4 1 2 .rne false) s 1 = some 0x20 ∧
    result (.txcvPack false 4 1 2 .rne false) s 2 = some 0x84 ∧ result (.txcvPack false 4 1 2 .rne false) s 3 = some 0x86 ∧
    result (.txcvPack false 4 1 2 .rne false) s 31 = some 0xBE ∧ result (.txcvUnpack false 4 3 2 .rne false) (holds s 3 0xBE) 0 = some 0x41780000 := by
  decide +kernel
/-- R282, R284: an unordered compare of a NaN is true. -/
theorem test_fcmp : result (.fcmp 5 .un .set 1 2) (with3 lane 0x7FC00000 0 0) 0 = some 1 ∧ result (.fcmp 5 .eq .set 1 2) (with3 lane 0 0x80000000 0) 0 = some 1 := by
  decide +kernel
/-- R109: an access past the declared scratchpad, and one that is not aligned. -/
theorem test_access_traps : trapped (.lds false 4 1 .b32 0) (with3 lane 0x10000 0 0) = some .scratchBounds ∧
    trapped (.lds false 4 1 .b32 0) (with3 lane 2 0 0) = some .misaligned ∧ trapped (.lds false 4 1 .b32 0) (with3 lane 0xFFFC 0 0) = none := by decide +kernel
/-- R80: a latch without a producer in this or the preceding packet is stale. -/
theorem test_stale : trapped (.add false 4 48 1 0) lane = some .latchStale := by decide +kernel
/-- R93: a pop of an empty queue waits; R320, R324: TRAP ends the slot. -/
theorem test_pop_waits : (match exec (.mov false 4 56 0) lane with | .next t => t.slotEnd | _ => .none) = .held := by decide +kernel
/-- R271, R274, R275: what is not valid in the control stream is ILLEGAL_OPCODE. -/
theorem test_wrong_stream : trapped (.pany 1 2) ctl = some .illegalOpcode ∧ trapped (.waita 0 1) lane = some .illegalOpcode := by decide +kernel

/-! ## Steps of the machine -/

/-- R66: the placed word runs at the first step, and the packet stays open at its next slot. -/
theorem test_step_runs : (match step (State.reset.withFetchWord 32 0x1A0A2FFD) with
    | .next t => (t.team 1).grp 0 |>.pend.map (fun p => p.vals.getD 0 none) | _ => []) = [some 0xFFFFFFFD] := by decide +kernel
/-- An instruction in flight: the step is its meaning. -/
theorem witness_step_in_flight : let s := lane.tick 0
    s.slotEnd = .none ∧ s.curT.place = .resident ∧ s.onCur (fun _ st => st.pkt.isSome) = true ∧ s.slotDue = true ∧
    let b := (s.modCur (fun _ st => st.restart)).beginSlot false
    let w := b.codeWord b.curTeam (b.onCur fun _ st => st.pc)
    b.chains = false ∧ streamWord b.inLane w = true ∧ decodeWord w = .ok .nop ∧
    (match exec .nop b with | .next t => t.slotEnd == .none | _ => false) = true := by decide +kernel
theorem witness_step_runs : (lane.tick 0).onCur (fun _ st => st.halted = false ∧ st.stalled = false) := onCur_grp 0 (by decide +kernel) (by decide +kernel)
/-- A packet that begins: the group stands at a packet of one ADDI. -/
def beginning : State := State.reset.placeWord 0x1A0A2FFD
theorem witness_packet_begins : let s := beginning
    let cw := s.codeWord s.curTeam (4 / 16 * 16)
    let ws := s.slotWords s.curTeam 4
    let now := s.modCur (fun _ st => st.settle (s.clkOf s.curTeam) false)
    let b := (now.modCur (fun _ st => st.beginPacket 4 cw (BitVec.allOnes 32))).beginSlot false
    s.onCur (fun _ st => st.pkt.isSome) = false ∧ s.onCur (fun _ st => st.issuePoint) = some (4, BitVec.allOnes 32) ∧
    s.codeHere s.curTeam 4 = true ∧ 4 < (s.gridOf s.curTeam).segLen ∧ s.targetOk s.curTeam 4 = true ∧ s.slotEnd = .none ∧
    now.onCur (fun _ st => st.packetReady (s.clkOf s.curTeam) cw 4 ws) = true ∧
    malformed cw (ws.getD 0 0) (ws.getD 1 0) (ws.getD 2 0) = false ∧ b.check = .pass ∧ b.chains = false ∧
    streamWord b.inLane (b.codeWord b.curTeam (b.onCur fun _ st => st.pc)) = true ∧
    decodeWord (b.codeWord b.curTeam (b.onCur fun _ st => st.pc)) = .ok (.addi false 5 5 0x7FD) ∧ (s.due 0).isSome = true ∧
    (match exec (.addi false 5 5 0x7FD) b with | .next t => t.slotEnd == .none | _ => false) = true := by decide +kernel
theorem witness_event : ({ lane with agenda := [.event (.growGrant 0)] }).agenda = .event (.growGrant 0) :: [] := rfl
theorem test_event_step : (match step { ctl with agenda := [.event (.softError (.scratch 1 0 0))] } with
    | .next t => (t.team 1).errs | _ => []) = [(0, 0, 0)] := by decide +kernel

/-! ## Packets -/

/-- R71: SET 12, a literal that no slot names, a chain from S3, and a chain within a pipe. -/
theorem witness_malformed : 12 ≤ bits 0x000C0000 19 16 ∧ bits 0x000C0000 19 16 ≤ 14 ∧ bits 1 0 0 = 1 ∧ namesLit 0 = false ∧ bits 2 1 1 = 1 ∧ bits 0 0 0 ≠ 1 ∧
    namesLit 0x1205F6E2 = true ∧ chainBit 0x81060840 = true ∧ pipeOf (bits 0x81060840 30 24) = pipeOf (bits 0x01060840 30 24) ∧
    (pipeOf (bits 0x01060840 30 24)).isSome = true ∧ bits 0x000FFF00 1 0 = 0 ∧ bits 0x000FFF00 11 8 = 15 := by decide +kernel
/-- The placed packet has SET 12, or the stream stands past its segment, or at a slot that is a literal. -/
def placedWith (cw pc : Nat) : State :=
  let s := State.reset.placeWord 0
  let s := s.setCore 0 { s.core 0 with icache := [(1, 0, bytesOf 4 cw ++ copies 60 0)] }
  s.modCur (fun _ st => { st with vpc := copies st.n pc, started := false })
theorem witness_bad_packet : let s := placedWith 0x000CFF00 4
    s.codeHere s.curTeam 4 = true ∧ s.vectorHere = true ∧ 4 < (s.gridOf s.curTeam).segLen ∧ s.targetOk s.curTeam 4 = true ∧
    s.codeWord s.curTeam 0 = 0x000CFF00 ∧ malformed 0x000CFF00 (s.codeWord s.curTeam 4) (s.codeWord s.curTeam 8) (s.codeWord s.curTeam 12) = true := by
  decide +kernel
theorem witness_bad_target : let s := placedWith 0x000FFF00 4096
    s.codeHere s.curTeam 4096 = true ∧ s.vectorHere = true ∧ (s.gridOf s.curTeam).segLen ≤ 4096 := by decide +kernel
theorem witness_bad_slot : let s := placedWith 0x000FFF01 8
    s.codeHere s.curTeam 8 = true ∧ s.vectorHere = true ∧ 8 < (s.gridOf s.curTeam).segLen ∧ s.targetOk s.curTeam 8 = false ∧
    s.onCur (fun _ st => st.started) = false := by decide +kernel
theorem witness_reserved : let s := begun 0x7F000000
    let w := s.codeWord s.curTeam (s.onCur fun _ st => st.pc)
    decodeWord w = .illegalOpcode := by decide +kernel
theorem witness_reserved_operand : let s := begun 0x00000001
    let w := s.codeWord s.curTeam (s.onCur fun _ st => st.pc)
    decodeWord w = .illegalOperand ∧ streamWord s.inLane w = true := by decide +kernel

/-! ## The other clauses of the statements: a state for each -/

/-- The current stream has an access outstanding, which holds its releases. -/
def holding (s : State) : State := s.modCur (fun _ st => { st with acc := [one .load .load] })
/-- The current stream waits for an access from before its chain. -/
def behind (s : State) : State :=
  s.modCur (fun _ st => { st with acc := [one .load .load], accNext := 5, pkt := st.pkt.map (fun k => { k with mark := 5 }) })
/-- A point at which all that it expects have arrived. -/
def full (s : State) : State := s.setTeam s.curTeam (s.curT.setRv 3 { Rv.blank with expect := 2, arrived := 2, who := [.grp 8, .grp 9] })
theorem witness_rvinit_traps : let u : Use := { ctlUse with srcs := [1] }
    (holds ctl 1 18).ready u 0 = true ∧ 17 < (holds ctl 1 18).ctlValue 1 ∧
    let s := ctl.setTeam 1 (ctl.curT.setRv 23 { Rv.blank with waiters := [.grp 0] })
    s.ready u 0 = true ∧ s.ctlValue 1 ≤ 17 ∧ (s.curT.rv 23).waiters ≠ [] := by decide +kernel
theorem witness_rv_again : let s := point lane [.grp 0]
    s.sound = true ∧ s.ready { both with pauses := true } 0 = true ∧ s.handling = false ∧ (s.curT.rv 3).who.contains s.curSel = true := by decide +kernel
/-- The last arrival finds the control thread in rv-wait. -/
def awaited : State :=
  let s := point lane [.ctl]
  let x := s.curT.setRv 3 { s.curT.rv 3 with waiters := [.ctl] }
  s.setTeam 1 { x with ctl := { x.ctl with lst := [.rvWait], waits := [3] } }
theorem witness_rv_wakes : awaited.sound = true ∧ (awaited.curT.rv 3).who.contains awaited.curSel = false ∧
    (awaited.curT.rv 3).arrived + 1 = (awaited.curT.rv 3).expect ∧ .ctl ∈ (awaited.curT.rv 3).waiters ∧ .ctl ≠ awaited.curSel := by decide +kernel
theorem witness_rv_wakes_stream : awaited.onStream awaited.curTeam .ctl (fun _ st => 0 < st.n ∧ st.laneState 0 = .rvWait ∧ st.waits.getD 0 0 = (3#5).toNat) :=
  ⟨by decide +kernel, by decide +kernel, by decide +kernel⟩
theorem witness_rv_stops : handled.ready { both with pauses := true } 0 = true ∧ handled.handling = true ∧
    (full lane).ready { both with pauses := true } 0 = true ∧ (full lane).handling = false ∧ ((full lane).curT.rv 3).who.contains (full lane).curSel = false ∧
    ((full lane).curT.rv 3).arrived = ((full lane).curT.rv 3).expect ∧
    let s := holding (point lane [])
    s.ready { both with pauses := true } 0 = true ∧ s.handling = false ∧ (s.curT.rv 3).who.contains s.curSel = false ∧
    (s.curT.rv 3).arrived ≠ (s.curT.rv 3).expect ∧ s.releasable .team = false := by decide +kernel
theorem witness_rv_speculates : (point lane []).curSel = .grp 0 ∧ ctl.curSel = .ctl ∧ ctl.ready { both with pauses := true } 0 = true ∧
    (match exec (.rvwait false 3) (point lane []) with | .next _ => true | _ => false) = true := by decide +kernel
theorem witness_queue_waits : let s := ctl.setTeam 1 { ctl.curT with queues := setAt ctl.curT.queues 3 (copies 8 { val := 1, from_ := 0, view := View.none }) }
    s.sound = true ∧ s.ready { ctlUse with srcs := [1] } 0 = true ∧ 8 ≤ (s.curT.queues.getD 3 []).length ∧
    (behind ctl).ready { ctlUse with srcs := [1] } 0 = true ∧ (behind ctl).releasableTo .team = false := by decide +kernel
/-- A group at a consuming SIGWAIT of flag 15. -/
def consuming : State := begun 0x6A00001F
theorem witness_signal_waits : let u : Use := { both with pauses := true, mem := true }
    let late := lane.setTeam 1 { lane.curT with sigs := setAt lane.curT.sigs 15 { SigFlag.blank with set := true, from_ := 1 } }
    let second := (waiting consuming []).setTeam 1 { (waiting consuming []).curT with
      ctl := { consuming.curT.ctl with hold := some { pc := 4, ex := 1, since := 0, pair := [], own := true } }
      sigs := setAt lane.curT.sigs 15 { SigFlag.blank with set := true, waiters := [.ctl] } }
    lane.sound = true ∧ lane.ready u 0 = true ∧ (lane.curT.sigs.getD 15 SigFlag.blank).set = false ∧ late.ready u 0 = true ∧
    late.clkOf late.curTeam < (late.curT.sigs.getD 15 SigFlag.blank).from_ ∧
    (signalled.curT.sigs.getD 15 SigFlag.blank).from_ ≤ signalled.clkOf signalled.curTeam ∧
    second.ready u 0 = true ∧ second.firstWaiter 15 (second.curT.sigs.getD 15 SigFlag.blank) = false := by decide +kernel
theorem witness_taskdec_zero : ctl.ready ctlUse 0 = true ∧ Map.get (ctl.part ctl.curT.port ctl.curT.part).depc (255#8).toNat 0 = 0 := by decide +kernel
theorem witness_unhandled_in_handler : handled.ready { both with pauses := true } 0 = true ∧ handled.handling = true ∧
    handled.onCur (fun _ st => st.specFault.isNone) = true ∧ (handled.grid handled.curT.grid).retired = false := by decide +kernel
theorem witness_atomic_release : let u : Use := { both with srcs := atomicSrcs .add 1 2, pauses := true, mem := true }
    ordRel .rel = true ∧ lane.sound = true ∧ lane.ready u lane.executing = true ∧ lane.releasable .team = true ∧ lane.releasable .die = true ∧
    (holding lane).ready u lane.executing = true ∧ (holding lane).releasable .team = false ∧ (holding lane).releasable .die = false ∧
    atomicOk lane.inLane lane.blocks .add (3#6).toNat (2#6).toNat = true := by decide +kernel
theorem witness_bank_free : ∀ k ∈ [AccKind.load, .store, .atomic], (accessing (one k .add)).bankFree 1 (.grp 0) (one k .add) 1 = true := by decide +kernel
theorem witness_not_behind : storing.onStream 1 (.grp 0) (fun _ st => st.behindAccess { seq := 1, addr := 64, bytes := [1, 2] }) = false := by
  decide +kernel
/-- A stream that has read from a release at domain scope. -/
def hasRead : State := lane.modCur (fun _ st => { st with acqReads := [{ scope := .domain, dies := allDies, port := 0, team := 9, view := View.upto 3 }] })
theorem witness_phase_clear : let s := hasRead
    s.sound = true ∧ s.ready { both with pauses := true, mem := true } 0 = true ∧ s.releasable .domain = true ∧
    (∀ f ∈ s.farsOf s.curTeam s.curSel, f.ret = false ∧ f.aop = .store) ∧
    ({ scope := .domain, dies := allDies, port := 0, team := 9, view := View.upto 3 } : Release).reaches .domain s.curTeam s.curT.port = true := by
  decide +kernel
theorem witness_phase_acc : lane.onCur (fun _ st => ∀ a ∈ st.acc, a.near = true ∧ a.kind = .store) ∧
    ¬ (holding lane).onCur (fun _ st => ∀ a ∈ st.acc, a.near = true ∧ a.kind = .store) ∧
    (holding lane).ready { both with pauses := true, mem := true } 0 = true :=
  ⟨onCur_grp 0 (by decide +kernel) (by decide +kernel),
    fun h => absurd ((h : ∀ a ∈ [one .load .load], a.near = true ∧ a.kind = .store) _ (List.mem_singleton.mpr rfl)).1 (by decide), by decide +kernel⟩
theorem witness_tfence_stands : let s := { waiting (mapped ctl) [1] with fences := [{ id := 1, port := 0, part := 0, mods := [0], team := some 1 }] }
    s.ready { ctlUse with mem := true } 0 = true ∧ (∃ f ∈ s.fences, f.team = some s.curTeam) ∧
    ((s.part s.curT.port s.curT.part).module (0#6).toNat).toList.map (fun e => e.1) ≠ [] ∧
    ((mapped ctl).part 0 0).modules.map (fun e => e.2.1) ≠ [] := by decide +kernel
theorem witness_tfence_starts : ¬ (mapped ctl).onCur (fun _ st => ∃ h, st.hold = some h ∧ h.pc = st.pc ∧ h.pair.length = 1) :=
  fun ⟨_, h, _⟩ => by
    have n : (none : Option Hold) = some _ := h
    cases n
/-- A PUT that the group's path covers, not done. -/
def putting : State :=
  let s := { lane with xfers := [(1, { Xfer.blank with kind := .put, team := 1, seq := 0, done := false })] }
  s.modCur (fun _ st => { st with view := { st.view with cmds := [(1, 0)] } })
theorem witness_drain_waits : putting.ready { both with pauses := true, mem := true } 0 = true ∧
    ∃ e ∈ putting.xfers, (e.2.core = putting.curT.core ∧ e.2.onPath .far = true ∧ ¬(e.2.team = putting.curTeam ∧ e.2.saved = true) ∧
      e.2.seq ≤ putting.onCur (fun _ st => Map.get st.view.cmds e.2.team 0)) ∧ e.2.done = false := by decide +kernel
theorem witness_far_release : let u : Use := { laneUse with srcs := [6], pauses := true, mem := true }
    let s := mapped lane
    ordRel .acqrel = true ∧ s.releasable .package = true ∧ s.releasable .system = true ∧ (holding s).ready u s.executing = true ∧
    (holding s).releasable .domain = false := by decide +kernel
theorem witness_windows : let s := holds (holds ctl 1 0x100001) 2 256
    s.sound = true ∧ s.ready { ctlUse with srcs := [1] } 0 = true ∧ 0x100000 < s.ctlValue 1 ∧ s.ready { ctlUse with srcs := [1, 2] } 0 = true ∧
    ((2 : Reg) ≠ 38 ∧ 255 < s.ctlValue 2) ∧ 2 ^ 32 ≤ (holds ctl 1 0x100000000).ctlValue 1 ∧ ctl.ctlValue 1 = 0 ∧ ctl.ctlValue 2 ≤ 255 ∧
    ctl.ready { ctlUse with srcs := [1, 2] } 0 = true := by decide +kernel
/-- Barrier 15 stands so. -/
def barred (a : Barrier) : State := ctl.setTeam 1 { ctl.team 1 with abs := setAt (ctl.team 1).abs 15 a }
theorem witness_barrier_stops : ∀ a ∈ [Barrier.blank, { Barrier.blank with state := .armed, expect := 1 }, { Barrier.blank with state := .fired, ovr := true }],
    (barred a).ready { ctlUse with mem := true } 0 = true ∧ (barred a).curT.abs.getD (15#4).toNat Barrier.blank = a := by decide +kernel
theorem witness_timeline_stops : let u : Use := { ctlUse with srcs := [1], mem := true }
    (holds failed 1 3).ready u 0 = true ∧ ((holds failed 1 3).curT.tls.getD 2 Timeline.blank).issued < (holds failed 1 3).ctlValue 1 ∧
    (holds failed 1 2).ready u 0 = true ∧ ((holds failed 1 2).curT.tls.getD 2 Timeline.blank).done < (holds failed 1 2).ctlValue 1 ∧
    (holds failed 1 2).ctlValue 1 ≤ ((holds failed 1 2).curT.tls.getD 2 Timeline.blank).issued := by decide +kernel
theorem witness_refused_copy : let q : Queued := { queuedPacket ctl with qi := none, copy := some (1, 1, 0) }
    let s := ctl.setPart 0 0 { ctl.part 0 0 with queue := [q] }
    s.sound = true ∧ (s.part 0 0).front = some q ∧ s.refusal 0 0 q = some stRevoked ∧ q.copy = some (1, 1, 0) := by decide +kernel

theorem witness_span_ack : let s := (mailed 0)
    let s := s.setMod 0 { s.mod 0 with mail := [{ g := 1, packet := spanPacket, part := 0, port := 0, grid := 1, acks := [], start := some 0, ended := false }] }
    let s := atModule s 1 (.ack 1 1)
    s.message (.mod 0) (fun x => match x with | .ack _ _ => true | _ => false) = some (1, mgmt, .ack 1 1) ∧
    (∃ e, (s.mod 0).entry 1 = some e ∧ (spanPorts e.packet).all (fun i => i == 1 || e.acks.any (fun a => a.1 == i)) = false ∧
      e.acks.any (fun a => a.1 == 1) = false) ∧
    (atModule (mailed 0) 1 (.refuse 2 1)).message (.mod 0) (fun x => match x with | .refuse _ _ => true | _ => false) = some (1, mgmt, .refuse 2 1) ∧
    ((atModule (mailed 0) 1 (.refuse 2 1)).mod 0).entry 2 = none :=
  ⟨by decide +kernel, ⟨_, rfl, by decide +kernel, by decide +kernel⟩, by decide +kernel, by decide +kernel⟩
theorem witness_copy_queued : ((copied true).part 1 0).queue.length < 448 ∧
    448 ≤ ((let s := copied true; s.setPart 1 0 { s.part 1 0 with queue := copies 448 (queuedPacket ctl) }).part 1 0).queue.length := by decide +kernel
/-- Package 0 issued generation 1, which comes back to it as its own copy. -/
def ownCopy : State :=
  let s := ctl.setGrid 1 { ctl.grid 1 with span := some (0, 0, 0) }
  atPackage s 0 (.copy 1 0 0 1 spanPacket)
theorem witness_own_copy : ownCopy.message (.pkg 0) (fun x => match x with | .copy _ _ _ _ _ => true | _ => false) = some (0, mgmt, .copy 1 0 0 1 spanPacket) ∧
    (ownCopy.grids.find? (fun e => e.2.port == 0 && e.2.part == 0 && e.2.num == 1 && e.2.span == some (0, 0, 0) && !e.2.retired)).map (fun e => e.1) =
      some 1 ∧ (ownCopy.pkg 0).aborts.contains (0, 1) = false ∧ (ownCopy.grid 1).status = none := by decide +kernel
theorem witness_span_ends : let go := atPackage ctl 0 (.go 1)
    let ab := atPackage (spanned ctl) 0 (.abort 1)
    let qd := atPackage (ctl.setPart 0 0 { ctl.part 0 0 with queue := [{ queuedPacket ctl with copy := some (1, 1, 0) }] }) 0 (.abort 1)
    go.message (.pkg 0) (fun x => match x with | .go _ => true | _ => false) = some (0, mgmt, .go 1) ∧ go.copyOf 0 0 1 = none ∧
    ab.message (.pkg 0) (fun x => match x with | .abort _ => true | _ => false) = some (0, mgmt, .abort 1) ∧ ab.copyOf 0 0 1 = some 1 ∧
    qd.copyOf 0 0 1 = none ∧ ((qd.pkg 0).parts.find? (fun e => e.2.queue.any (fun q => q.copy.any (fun c => c.1 == 1 && c.2.2 == 0)))).isSome = true ∧
    ((atPackage ctl 0 (.abort 1)).pkg 0).parts.find? (fun e => e.2.queue.any (fun q => q.copy.any (fun c => c.1 == 1 && c.2.2 == 0))) = none := by
  decide +kernel
theorem witness_preempt_kinds : let s := sliced (asked ctl true)
    (s.team 1).preempt.any (fun x => x.coop) = true ∧ s.preempting 0 = false ∧ (sliced ctl).curT.pptto ≠ 0 ∧
    (ctl.setTeam 1 { ctl.team 1 with pptto := 0 }).curT.pptto = 0 := by decide +kernel
theorem witness_fault_places : let s (r : FaultRec) (old : FaultRec) : State := ctl.setPart 0 0 { ctl.part 0 0 with
      fqTail := 256, fqRecs := [(7, old)], fqWait := [r] }
    let ecc := { fault none with cause := 5 }
    ((s ecc (fault none)).part 0 0).tailFree = false ∧ ecc.correctable = true ∧ (fault none).correctable = false ∧ (ctl.part 0 0).fqWait = [] ∧
    ((s (fault none) ecc).part 0 0).oldestCorrectable = some 7 ∧ ((s (fault none) (fault none)).part 0 0).oldestCorrectable = none ∧
    (fault (some (.command 1))).held ≠ none ∧ (s (fault none) ecc).sound = true := by decide +kernel
theorem witness_lost_events : let s := ctl.setPart 0 0 { ctl.part 0 0 with erTail := 300, erLost := 2 }
    (44#32 - (s.part 0 0).erHead).toNat ≤ ((s.part 0 0).erTail - (s.part 0 0).erHead).toNat ∧ 256 ≤ ((s.part 0 0).erTail - 44).toNat := by decide +kernel
/-- The record at place 255 holds a far atomic, a code fetch, or a command that has faulted three times. -/
def heldAccess (r : FaultRec) : State :=
  let s := mapped ctl
  let s := s.setPart 0 0 { s.part 0 0 with fqRecs := [(255, r)] }
  { s with fars := [(1, far false)], xfers := [(1, { Xfer.blank with kind := .fetch, team := 1, grid := 1, done := false, held := [(0, 0), (1, 9)] })] }
theorem witness_held_others : let c := { fault (some (.command 1)) with count := 3 }
    ((heldAccess (fault (some (.far 1)))).part 0 0).heldAt 255 = some (fault (some (.far 1)), .far 1) ∧
    ((heldAccess (fault (some (.far 1)))).grid (far false).grid).retired = false ∧
    ((heldAccess (fault (some (.code 1 0 3 0 0 false)))).part 0 0).heldAt 255 = some (fault (some (.code 1 0 3 0 0 false)), .code 1 0 3 0 0 false) ∧
    ((heldAccess c).part 0 0).heldAt 255 = some (c, .command 1) ∧ 4 ≤ c.count + 1 ∧ ((heldAccess c).xfer 1).status = none ∧
    (heldAccess c).unitVerdict 1 0 .fresh = .fault 2 ∧ (heldAccess c).unitVerdict 1 0 .cached = .ok 65536 ∧
    (∀ j ∈ ((heldAccess c).core (((heldAccess c).team ((heldAccess c).xfer 1).team).core)).eq_, ((heldAccess c).xfer j).started = true) := by
  decide +kernel
theorem witness_fence_waits : let f : Fence := { id := 1, port := 0, part := 0, mods := [0], team := some 1 }
    let s := { mapped ctl with fences := [f], fars := [(1, { far false with sel := .ctl })] }
    let s := s.setTeam 1 { s.team 1 with ctl := { (s.team 1).ctl with view := { (s.team 1).ctl.view with fars := [(streamKey 1 .ctl, 1)] } } }
    (∀ g ∈ s.fences, g.id = 1 → s.fenceReady g = false) ∧ (mapped ctl).fenceReady { f with team := none } = true ∧
    ({ (s.setPkg 0 { s.pkg 0 with tfBusy := some 1 }) with fences := [f] }).fencing 0 = true ∧
    (s.part 0 0).module 5 = none ∧ ((ctl.part 0 0).modules).isEmpty = true := by decide +kernel
/-- Grid 1 runs far code of a logical module. -/
def farCode (lm : Nat) : State :=
  let s := mapped lane
  s.setGrid 1 { s.grid 1 with packet := putBytes (s.grid 1).packet 0 (bytesOf 8 (lm * 2 ^ 50 + 1)) }
theorem witness_far_lines : let s := farCode 0
    (s.grid 1).far = true ∧ 64 * 63 < (s.grid 1).segLen ∧ (s.core 0).icache.any (fun e => e.1 == 1 && e.2.1 == 63) = false ∧ s.codeHeld 1 0 63 = false ∧
    (match s.codeWalk 1 0 63 .cached with | .ok m pa => m == 0 && pa == 65536 + 64 * 63 | _ => false) = true ∧
    (match s.codeWalk 1 0 63 .fresh with | .fault st m => st == 2 && m == 0 | _ => false) = true ∧
    (match (farCode 5).codeWalk 1 0 63 .fresh with | .perm false => true | _ => false) = true ∧
    (match (s.setLink ⟨0, 0, 0, true⟩ { s.link ⟨0, 0, 0, true⟩ with down := true }).codeWalk 1 0 63 .fresh with | .nothing => true | _ => false) = true ∧
    bits (s.mod 0).hotctl 7 7 = 0 := by decide +kernel
theorem witness_line_faults : let k := ctl.setPkg 0 { ctl.pkg 0 with errs := [(63, 1), (63, 2)] }
    2 ≤ (k.pkg (k.grid 1).port).errCount (4032 / 64) := by decide +kernel
theorem witness_rearmed : let r : Req := { taken with state := .frozen }
    let x : Xfer := { transfer with kind := .put, rearmed := true, req := some r }
    let s := atModule { mapped ctl with xfers := [(1, x)] } 0 (.rts 1 16 0 true)
    s.message (.mod 0) (fun m => match m with | .rts j _ _ _ => j == 1 && (s.xfer 1).receiver == .mod 0 | _ => false) = some (0, mgmt, .rts 1 16 0 true) ∧
    (s.xfer 1).done = false ∧ (s.xfer 1).req = some r ∧ r.state = .frozen ∧ (s.xfer 1).kind = .put ∧ (s.xfer 1).rearmed = true ∧
    s.leaving (s.xfer 1) = false ∧ taken.state ≠ .frozen := by decide +kernel
theorem witness_token_orphan : let r : Req := { taken with tokens := [token], expiries := 2 }
    let s := requesting r 16000
    s.timersRun (s.xfer 1) = true ∧ r.state = .active ∧ s.leaving (s.xfer 1) = false ∧ 3 ≤ r.expiries + 1 ∧
    ¬({ r with expiries := 0 }.state = .active ∧ 3 ≤ ({ r with expiries := 0 } : Req).expiries + 1) := by decide +kernel
theorem witness_recommission_message : let s := (mapped ctl).setPkg 0 { (mapped ctl).pkg 0 with chanBusy := some (0, 0) }
    (s.mod 0).inbox.contains (0, mgmt, .recommission 0) = false ∧
    let t := atModule s 0 (.recommission 0)
    (t.pkg 0).chanBusy = some (0, 0) ∧ (t.mod 0).inbox.contains (0, mgmt, .recommission 0) = true ∧ t.attached 0 0 true = true ∧
    t.attached 0 0 false = true := by decide +kernel
theorem witness_gcreate_handle : let s := sending { transfer with kind := .gcreate, dest := 31, insn := 1 } (.engmDone 1 0 5)
    (s.pkg 0).inbox.find? (fun e => match e.2.2 with | .engmDone y _ _ => y == 1 | _ => false) = some (0, 0, .engmDone 1 0 5) ∧
    (s.xfer 1).done = false ∧ (s.xfer 1).dest ≤ 31 ∧ (s.team (s.xfer 1).team).ctl.n = 1 ∧
    (s.team (s.xfer 1).team).ctl.wasKilled (s.xfer 1).pkt (s.xfer 1).insn 31 0 = false ∧
    (∀ j ∈ (s.core (s.team (s.xfer 1).team).core).eq_, j = 1) := by decide +kernel
theorem witness_busy_of_enable : let s := context 0xA000000000000000
    ((s.pkg 0).pasidEntry 4095).getLsbD 61 = true ∧ ((s.pkg 0).pasidEntry 4095).getLsbD 62 = false := by decide +kernel
theorem witness_aperture_open : (mapped ctl).apertureOpen 0 0 (.read 8) = true ∧ (mapped ctl).apertureOpen 0 0 (.write (bytesOf 8 1)) = true ∧
    ({ mapped ctl with dark := [0] }).apertureOpen 0 0 (.read 8) = false := by decide +kernel
theorem witness_bar0 : ((mapped ctl).pkg 0).up = true := by decide +kernel
theorem witness_dark : State.reset.dark.contains 0 = false := by decide +kernel
theorem witness_not_ready : let s := (placedWith 0x000FFF00 4).modCur (fun _ st => { st with flags := setAt st.flags 0 1 })
    let cw := s.codeWord 1 0
    let t := s.setCore 0 { s.core 0 with icache := [(1, 0, bytesOf 4 0x001FFF00 ++ copies 60 0)] }
    cw = 0x000FFF00 ∧ 4 < (s.gridOf 1).segLen ∧ t.codeHere 1 4 = true ∧ t.vectorHere = true ∧
    (t.modCur (fun _ st => st.settle (t.clkOf 1) false)).onCur (fun _ st => st.packetReady (t.clkOf 1) (t.codeWord 1 0) 4 (t.slotWords 1 4)) = false := by
  decide +kernel

/-- R151: of two slices of a die that name one position, the one written later is invalid, and the other stays valid. -/
theorem test_remap_later_invalid :
    let e (n : Nat) : List Byte := [5#8] ++ copies 11 0xFF#8 ++ [BitVec.ofNat 8 n] ++ copies 3 0
    let s := ((State.reset.remapWrite 0 0 (e 0) true).remapWrite 0 1 (e 1) true).pkg 0
    sliceValid s 0 = true ∧ sliceValid s 1 = false := by decide +kernel

/-- R104: a clear of sr.mxerr comes before the error of its cycle, which it leaves. -/
theorem test_mxerr_clear_first :
    let x := Team.blank.mxNote [[0, 3, 1, 2, 4]]
    x.mxerr.getLsbD 63 = true ∧ (x.sysWrite 0x030 0xC000000000000000#64).mxerr.getLsbD 63 = true ∧
      (({ x with mxErrs := [] } : Team).sysWrite 0x030 0xC000000000000000#64).mxerr.getLsbD 63 = false := by decide +kernel

/-- R43: of two groups of a quad the one that has gone longer without issuing is picked, and of equals the lower slot. -/
theorem test_arbiter_longest :
    let s := State.reset.placeWord 0
    let two (a b : Nat) : State :=
      let g : Stream 32 := (s.team 1).grp 0
      (s.setTeam 1 { s.team 1 with grps := [(0, { g with slot := 4, lastIssue := a }), (1, { g with slot := 0, lastIssue := b })] }).setClk 0 10
    ((two 3 5).pickOn 0 0).map (fun x => x.q) = some (Sel.grp 0) ∧ ((two 3 3).pickOn 0 0).map (fun x => x.q) = some (Sel.grp 1) := by decide +kernel

/-! ## Data on the channels, in modules, and what the other later clauses ask for -/

/-- A command of one 4-byte element from or to far address 128, local address 64, that has it to send. -/
def carrying (k : XKind) (s : State) (f : Link) : State :=
  let x : Xfer := { transfer with kind := k, started := true, atSource := true, rec0 := record 2, rec1 := record 2, sent := [0], vals := [0x3F800000], todo := [0], x1 := 64, x2 := 128, unacct := 8 }
  let s := { s with xfers := [(1, x)] }
  let s := s.setMod 0 { s.mod 0 with buckets := [(0, { Bucket.blank with flags := 1, level := 4 })] }
  s.setLink x.dataLink f
/-- Its one chunk, in flight with number 0. -/
def arriving (k : XKind) (s : State) : State :=
  carrying k s { Link.blank 256 with flights := [(0, 0, .data 1 0 [1, 2, 3, 4] none none, none)] }
theorem witness_chunk_sent : ∀ k ∈ [XKind.put, .fetch, .fetchr], let s := carrying k (mapped ctl) (Link.blank 256)
    let x := s.xfer 1
    let l := x.dataLink
    x.done = false ∧ (∀ n ∈ (s.core (s.team x.team).core).eq_, (s.xfer n).started = true) ∧ s.moving l = true ∧
    (s.link l).sendFrom = (s.link l).next ∧ (s.link l).open_ = true ∧ x.started = true ∧ x.atSource = true ∧ s.present x = true ∧
    x.status = none ∧ x.nextChunk = some (0, none) ∧ x.kind = k ∧ (s.team x.team).errs = [] ∧ (s.pkg (s.team x.team).port).errs = [] ∧
    ((s.mod 0).bucket x.tenant).level = (x.chunkLen 0 : Int) ∧
    x.held = [] ∧ bits (s.mod 0).hotctl 7 7 = 0 ∧ x.elementsOf (256 * 0) (x.chunkLen 0) = [0] ∧
    (s.mod 0).judge x.ctx (x.farAddr 0 / 65536 * 65536 % 2 ^ 50) .read .cached = .ok 65536 := by decide +kernel
theorem witness_chunk_lands : ∀ k ∈ [XKind.put, .fetch, .fetchr], let s := arriving k (mapped ctl)
    let x := s.xfer 1
    let l := x.dataLink
    x.done = false ∧ (s.link l).flights.find? (fun e => e.2.1 = 0) = some (0, 0, .data 1 0 [1, 2, 3, 4] none none, none) ∧
    seqSub 0 (s.link l).expect < 2 ^ 47 ∧ (s.link l).heldBack = [] ∧ x.req = none ∧ s.present x = true ∧ x.kind = k ∧
    x.fromModule = (k != .put) ∧ x.elementsOf (256 * 0) (x.chunkLen 0) = [0] ∧
    s.localOut x.team (x.localAddr 0) (extentAt (x.localAddr 0) x.esize) = none ∧ x.status = none ∧ 0 = (s.link l).expect ∧
    (s.mod 0).head x.port x.part = none ∧
    (s.mod 0).judge x.ctx (x.farAddr 0 / 65536 * 65536 % 2 ^ 50) .write .cached = .ok 65536 := by decide +kernel
/-- R235: the bytes of a fetch chunk land at local address 64, those of a put chunk at the physical address of far address 128. -/
theorem test_chunks_land :
    (match exec (.chunkReceive ⟨0, 0, 0, false⟩ 0 .cached) (arriving .fetch (mapped ctl)) with
      | .next t => (List.range 4).map (fun c => t.byte (t.localPlace 1 (64 + c))) | _ => []) = [1, 2, 3, 4] ∧
    (match exec (.chunkReceive ⟨0, 0, 0, true⟩ 0 .cached) (arriving .put (mapped ctl)) with
      | .next t => (List.range 4).map (fun c => t.byte (.far 0 (65536 + 128 + c))) | _ => []) = [1, 2, 3, 4] := by decide +kernel
/-- A module command on one 4-byte element: FILL with 7, or COPYF from 0 to 128. -/
def moduleCommand (k : XKind) : State :=
  let x := { transfer with kind := k, rec0 := record 2, rec1 := record 2, x1 := if k = .fill then 7 else 0, x2 := 128, tl := 2, num := 1 }
  heading x (if k = .fetchr then .readReq 1 else .engm 1)
theorem witness_module_commands : ∀ k ∈ [XKind.fill, .copyf], let s := moduleCommand k
    let x := s.xfer 1
    let y := ([0].foldl (fun y u => y.after x.ctx (u * 65536 % 2 ^ 50) .cached) (s.mod 0))
    x.pmod = 0 ∧ x.done = false ∧ (s.mod 0).revoked.contains (x.port, x.part, x.pasid) = false ∧ (s.mod 0).tenantOk x.tenant = true ∧
    bits (s.mod 0).hotctl 7 7 = 0 ∧ (s.mod 0).head x.port x.part = some (.engm 1) ∧ x.kind = k ∧
    s.behindWrite 1 x.farWrites = false ∧ s.behindWrite 1 (x.r0.extent x.x1.toNat :: x.farWrites) = false ∧ x.r1.esz = 4 ∧ x.r1.count = 1 ∧ x.r0.count = 1 ∧
    x.r0.offset 0 = 0 ∧ (s.mod 0).judge x.ctx 0 .read .cached = .ok 65536 ∧ (s.mod 0).judge x.ctx 0 .write .cached = .ok 65536 ∧
    unitsOfElements ((List.range x.r0.count).map (fun n => ((x.x1.toNat : Int) + x.r0.offset n).toNat)) 4 = [0] ∧
    y.judge x.ctx 0 .write .cached = .ok 65536 := by decide +kernel
/-- The group is ready. -/
def readyGroup : Group := { group with ready := [0, 0] }
/-- A FETCHR of four bytes from group 0. -/
def reducing : State :=
  let s := moduleCommand .fetchr
  let x := { s.xfer 1 with x2 := 0 }
  ({ s with xfers := [(1, x)] }).setMod 0 { s.mod 0 with groups := [(0, readyGroup)] }
theorem witness_reduction : let s := reducing
    let x := s.xfer 1
    x.kind = .fetchr ∧ (s.mod 0).head x.port x.part = some (.readReq 1) ∧ Map.find (s.mod 0).groups (x.x2.toNat % 65536) = some readyGroup ∧
    readyGroup.pasid = x.pasid ∧ bits x.x2.toNat 21 16 < readyGroup.n ∧ readyGroup.n ≤ readyGroup.bases.length ∧ readyGroup.err = false ∧
    readyGroup.n ≤ readyGroup.ready.length ∧
    s.behindWrite 1 ((readyGroup.bases.take readyGroup.n).map (fun b => extentAt b readyGroup.len)) = false ∧
    (∀ n ∈ (s.core (s.team x.team).core).eq_, (s.xfer n).started = true) ∧
    (List.range x.r0.count).filter (fun n => decide (0 ≤ x.r0.offset n ∧ x.r0.offset n + (groupFmt readyGroup.ifmt).2 ≤ readyGroup.len)) = [0] ∧
    (∀ r c, r < 2 → c < 4 → (readyGroup.bases.getD r 0 + 0 + c) / 65536 = 0) ∧ (s.mod 0).judge x.ctx 0 .read .cached = .ok 65536 := by
  refine ⟨?_, ?_, ?_, ?_, ?_, ?_, ?_, ?_, ?_, ?_, ?_, ?_, ?_⟩ <;> first | decide +kernel | skip
  intro r c hr hc
  have h : r = 0 ∨ r = 1 := by omega
  rcases h with h | h <;> subst h <;> simp [readyGroup, group] <;> omega
/-- R343: FILL writes its 32-bit value. -/
theorem test_fill : (match exec (.moduleEngineCommand 0 1 .cached) (moduleCommand .fill) with
    | .next t => (List.range 5).map (fun c => t.byte (.far 0 (65536 + 128 + c))) | _ => []) = [7, 0, 0, 0, 0] := by decide +kernel
theorem witness_mail_clear : let e : MailEntry := { g := 1, packet := spanPacket, part := 0, port := 0, grid := 1, acks := [(0, 0), (1, 0)], start := some 0, ended := true }
    let s := (mailed 0).setMod 0 { (mailed 0).mod 0 with mail := [e] }
    (∀ x ∈ s.pkgs, x.2.spansHeld = []) ∧ e ∈ (s.mod 0).mail ∧ e.ended = true ∧ s.mailUnsent 0 e = false ∧ ((s.mailClear 0).mod 0).mail = [] := by
  decide +kernel
/-- Lanes 0 and 1 belong to mask 0; lane 1 is parked on it at a place, lane 0 executes with the lanes from 2 on, or alone. -/
def parkedAt (alone : Bool) (pc : Nat) : State :=
  lane.modCur (fun _ st => { st with
    masks := setAt st.masks 0 3, lst := setAt (if alone then setAt (copies st.n .exited) 0 .ready else st.lst) 1 .maskWait
    waits := setAt st.waits 1 0, vpc := setAt st.vpc 1 pc, goesOn := setAt st.goesOn 1 20
    pkt := st.pkt.map (fun k => { k with ex := if alone then 1 else BitVec.allOnes 32 &&& ~~~2 }) })
theorem witness_parks_complete : ∀ alone ∈ [false, true], let s := parkedAt alone 4
    s.sound = true ∧ (0#4).toNat < 12 ∧ (0 : Reg).toNat < 12 ∧ s.ready laneUse 0 = true ∧ s.ready { laneUse with srcs := [1] } s.executing = true ∧
    s.ready { both with pauses := true } 0 = true := by decide +kernel
theorem witness_parks_lane : (parkedAt false 4).onCur (fun _ st => st.ex.getLsbD 1 = false ∧ st.parkedOn 0 1 = true ∧ st.mask 0 &&& st.active 0 ≠ 0 ∧
    (∀ j, j < 32 → (st.mask 0).getLsbD j = true → (st.active 0).getLsbD j = false → st.laneState j ≠ .exited → j = 1)) :=
  onCur_grp 0 (by decide +kernel) ⟨by decide +kernel, by decide +kernel, by decide +kernel, by decide +kernel⟩
theorem witness_wait_wakes : (parkedAt false 4).onCur (fun _ st => st.ex &&& st.mask (0#4).toNat ≠ 0 ∧
    (∃ l, l < 32 ∧ (st.mask (0#4).toNat).getLsbD l = true ∧ st.laneState l ≠ .exited ∧ st.ex.getLsbD l = false) ∧
    ∀ l, l < 32 → (st.mask (0#4).toNat).getLsbD l = true → st.laneState l ≠ .exited →
      st.ex.getLsbD l = true ∨ (st.parkedOn (0#4).toNat l = true ∧ st.pcOf l = st.pc)) :=
  onCur_grp 0 (by decide +kernel) ⟨by decide +kernel, ⟨1, by decide +kernel⟩, by decide +kernel⟩
theorem witness_wait_parts : (parkedAt true 8).onCur (fun _ st => st.ex &&& st.mask (0#4).toNat ≠ 0 ∧
    (∃ l, l < 32 ∧ (st.mask (0#4).toNat).getLsbD l = true ∧ st.laneState l ≠ .exited ∧ st.ex.getLsbD l = false ∧
      (st.parkedOn (0#4).toNat l = false ∨ st.pcOf l ≠ st.pc)) ∧
    ∀ l, l < 32 → st.laneState l = .exited ∨ st.laneState l = .maskWait ∨ (st.ex &&& st.mask (0#4).toNat).getLsbD l = true) :=
  onCur_grp 0 (by decide +kernel) ⟨by decide +kernel, ⟨1, by decide +kernel⟩, by decide +kernel⟩
/-- R83: reserved FN of PRED, XLANE, FUNARY, MASKOP and ACCOP, reserved RND of ACCOP, TXCV and TXEXP. -/
theorem test_reserved : ∀ w ∈ [0x2600000B, 0x2700000A, 0x3700000E, 0x60000003, 0x530000A0, 0x53000014, 0x3B000014, 0x3C000014],
    decodeWord w = .illegalOpcode := by decide +kernel
theorem test_group_only : ∀ i ∈ [Instr.ptov false 4, .vtop 1, .ballot false 4 1, .pany 2 1, .pall 2 1], ctl.inLane = false ∧ trapped i ctl = some .illegalOpcode := by
  decide +kernel
/-- R71: a chain of S1, S2 and S3 shares no pipe: S1 and S3 of the I pipe with S2 of the M pipe between them, S2 and S3 of the I pipe. -/
theorem test_chains : malformed 0x000FFF00 0x81060840 0xC9060040 0x01060840 = true ∧ malformed 0x000FFF00 0x01060840 0x81060840 0x01060840 = true ∧
    malformed 0x000FFF00 0x81060840 0x49060040 0x01060840 = false := by decide +kernel
theorem witness_rts_again : let s := sending { transfer with req := some taken } (.rts 1 16 2 true)
    s.message (.pkg 0) (fun m => match m with | .rts j _ _ _ => j == 1 && (s.xfer 1).receiver == .pkg 0 | _ => false) = some (0, 0, .rts 1 16 2 true) ∧
    (s.xfer 1).done = false ∧ (s.xfer 1).req = some taken ∧ taken.state ≠ .frozen := by decide +kernel

/-- The group behind bytes 16 to 19 of a committed speculation's buffer, which still drain. -/
def draining : State :=
  lane.modCur (fun _ st => { st with
    acc := [{ Access.blank with id := 5, kind := .store, size := 1, drain := true, lanes := (List.range 4).map (fun i => (i, 16 + i)),
                                data := (List.range 4).map (fun i => (i, 7 + i)), rows := [1] }]
    accNext := 6, regs := Map.set st.regs 1 (copies st.n 16) })
theorem witness_drain_load : let u : Use := { both with srcs := [1], mem := true }
    let ea := draining.addrs (draining.ctx []) 1 0
    draining.ready u draining.executing = true ∧ memOk draining.inLane draining.blocks true false 3 .b32 = true ∧
    draining.onCur (fun _ st => st.speculating) = false ∧ draining.localFault false 4 ea = none ∧
    ((draining.team 1).grp 0).acc.any (fun b => b.drain) = true ∧
    (ea.flatMap (fun e => (List.range 4).map (fun k => e.2 + k))).all (fun y => (((draining.team 1).grp 0).drainByte y).isSome) = true ∧
    (((draining.team 1).grp 0).drainByte 20).isSome = false := by decide +kernel
/-- R203: a load of the drained bytes gets them before they stand in memory. -/
theorem test_drain_load : (match exec (.lds false 3 1 .b32 0) draining with
    | .next t => ((t.team 1).grp 0).pend.map (fun p => p.vals.getD 0 none) | _ => []) = [some 0x0A090807] := by decide +kernel
/-- A packet in flight of a store and a load, at its load, whose address register a load from before the packet is to give. -/
def early (v : Nat) : State :=
  let s := begun 0x00000000
  let w (i : Instr) : Nat := ((encode i).getD 0).toNat
  let line := bytesOf 4 0x000FFF00 ++ bytesOf 4 (w (.sts 2 4 .b32 0)) ++ bytesOf 4 (w (.lds false 3 7 .b32 0)) ++ copies 52 0
  let s := s.setCore 0 { s.core 0 with icache := [(1, 0, line)] }
  let s := s.modCur (fun _ st => { st with
    acc := [{ Access.blank with id := 1, size := 4, lanes := [(0, 0)], dest := some 7, rows := [0] }], accNext := 2
    pkt := st.pkt.map (fun k => { k with pc := 8 }), vpc := copies st.n 8 })
  s.setTeam 1 { s.team 1 with scratch := Memory.writeN [] 0 (bytesOf 4 v) }
/-- R73, R191: the load comes with an address out of bounds only when the packet is over; within bounds it comes at once. -/
theorem test_untimely : (match exec (.localAccessComplete 1 (.grp 0) 1 0) (early 0x3FFFFFFC), exec (.localAccessComplete 1 (.grp 0) 1 0) (early 8) with
    | .next t, .next u => ((early 0x3FFFFFFC).untimely t, (early 8).untimely u) | _, _ => (false, true)) = (true, false) := by decide +kernel
/-- No stream has a packet in flight. -/
theorem witness_timely : ∀ e ∈ (State.reset.placeWord 0).teams, e.2.place = .resident → e.2.ctl.pkt = none ∧ ∀ g ∈ e.2.grps, g.2.pkt = none := by
  decide +kernel

end Sys2Proof.Tests
end

section
/-! SUPPORT. Results in flight (R67): what registers and predicates show as they become visible, and what one more of them changes. -/
namespace Sys2Proof.Laws
open Sys2Proof Sys2Proof.Machine

/-! ## Registers and predicates as results become visible -/

/-- What a lane of register `k` holds once a result lands, having held `v`. -/
def landedReg {w : Nat} (k l : Nat) (v : BitVec w) (p : PendWrite w) : BitVec w :=
  if p.dest = .reg k then (p.vals.getD l none).getD v else v

/-- What a lane holds of predicate `k` once a result lands, having held `v`. -/
def landedPred {w : Nat} (k l : Nat) (v : Bool) (p : PendWrite w) : Bool :=
  if p.dest = .pred k ∧ k ≠ 0 then ((p.vals.getD l none).map (fun x => decide (k < 32) && x.getLsbD 0)).getD v else v

/-- A predicate of a stream after a predicate is written; p0 is always true. -/
theorem pred_setPred {w : Nat} (st : Stream w) (r k l : Nat) (v : List (Option Bool)) (hl : l < st.n) :
    (st.setPred r v).pred k l =
      if r = k ∧ k ≠ 0 then ((v.getD l none).map (fun b => decide (k < 32) && b)).getD (st.pred k l) else st.pred k l := by
  by_cases hk : k = 0
  · simp [Stream.pred, hk]
  by_cases hr : r = 0
  · simp [Stream.setPred, hr, Ne.symm hk]
  have hold : (st.preds[l]?.getD (1 : Word)).getLsbD k = (st.preds[l]?.getD (0 : Word)).getLsbD k := by
    cases st.preds[l]? <;> simp [hk]
  have hbit : (1#32 <<< r).getLsbD k = (decide (k < 32) && decide (r = k)) := by
    rcases Nat.lt_trichotomy k r with h | h | h
    · simp [h, Nat.ne_of_gt h]
    · simp [h]
    · simp [show ¬ k < r by omega, show k - r ≠ 0 by omega, Nat.ne_of_lt h]
  have hout : ¬ k < 32 → (st.preds[l]?.getD (0 : Word)).getLsbD k = false := fun h => BitVec.getLsbD_of_ge _ _ (by omega)
  simp only [Stream.setPred, if_neg hr, Stream.pred, List.getD_eq_getElem?_getD, List.getElem?_map, List.getElem?_range, hl,
    Option.map_some, Option.getD_some, beq_eq_false_iff_ne.2 hk, Bool.false_or]
  rcases v[l]?.getD none with _ | b
  · simp only [hold, Option.map_none, Option.getD_none, ite_self]
  · cases b <;> simp only [BitVec.getLsbD_or, BitVec.getLsbD_and, BitVec.getLsbD_not, hbit, hold] <;>
      generalize (st.preds[l]?.getD (0 : Word)).getLsbD k = x at hout ⊢ <;>
      by_cases hrk : r = k <;> by_cases h32 : k < 32 <;> simp [hrk, hk, h32, hout]

@[simp] theorem writeBy_n {w : Nat} (st : Stream w) (p : Nat) (f : Stream w → Stream w) : (st.writeBy p f).n = (f st).n := by
  unfold Stream.writeBy; dsimp only; repeat' split
  all_goals rfl
@[simp] theorem writeBy_reg {w : Nat} (st : Stream w) (p : Nat) (f : Stream w → Stream w) (k l : Nat) :
    (st.writeBy p f).reg k l = (f st).reg k l := by
  unfold Stream.writeBy; dsimp only; repeat' split
  all_goals rfl
@[simp] theorem writeBy_pred {w : Nat} (st : Stream w) (p : Nat) (f : Stream w → Stream w) (k l : Nat) :
    (st.writeBy p f).pred k l = (f st).pred k l := by
  unfold Stream.writeBy; dsimp only; repeat' split
  all_goals rfl

@[simp] theorem lower_reg {w : Nat} (st : Stream w) (f : Option Nat) (k l : Nat) : (st.lower f).reg k l = st.reg k l := by cases f <;> rfl
@[simp] theorem lower_pred {w : Nat} (st : Stream w) (f : Option Nat) (k l : Nat) : (st.lower f).pred k l = st.pred k l := by cases f <;> rfl
@[simp] theorem setReg_pred {w : Nat} (st : Stream w) (r : Nat) (v : List (Option (BitVec w))) (k l : Nat) :
    (st.setReg r v).pred k l = st.pred k l := rfl
@[simp] theorem setPred_reg {w : Nat} (st : Stream w) (r : Nat) (v : List (Option Bool)) (k l : Nat) :
    (st.setPred r v).reg k l = st.reg k l := by unfold Stream.setPred; split <;> rfl

@[simp] theorem land_n {w : Nat} (st : Stream w) (p : PendWrite w) : (st.land p).n = st.n := by
  unfold Stream.land; split <;> simp

/-- A register after a result lands. -/
theorem land_reg {w : Nat} (st : Stream w) (p : PendWrite w) (k l : Nat) (hl : l < st.n) :
    (st.land p).reg k l = landedReg k l (st.reg k l) p := by
  unfold Stream.land landedReg
  cases hd : p.dest with
  | reg r => simp [reg_setReg _ _ _ _ _ hl, eq_comm]
  | pred r => simp

/-- A predicate after a result lands. -/
theorem land_pred {w : Nat} (st : Stream w) (p : PendWrite w) (k l : Nat) (hl : l < st.n) :
    (st.land p).pred k l = landedPred k l (st.pred k l) p := by
  unfold Stream.land landedPred
  cases hd : p.dest with
  | reg r => simp
  | pred r =>
    have hv : (p.vals.map (fun o => o.map (fun v => v.getLsbD 0))).getD l none = (p.vals.getD l none).map (fun v => v.getLsbD 0) := by
      cases h : p.vals[l]? <;> simp [List.getD, h]
    simp only [lower_pred, writeBy_pred, pred_setPred _ _ _ _ _ hl, hv, Dest.pred.injEq, Option.map_map]
    rfl

theorem landAll_n {w : Nat} (ps : List (PendWrite w)) (st : Stream w) : (ps.foldl Stream.land st).n = st.n := by
  induction ps generalizing st with
  | nil => rfl
  | cons p ps ih => rw [List.foldl_cons, ih, land_n]

theorem landAll_reg {w : Nat} (ps : List (PendWrite w)) (st : Stream w) (k l : Nat) (hl : l < st.n) :
    (ps.foldl Stream.land st).reg k l = ps.foldl (landedReg k l) (st.reg k l) := by
  induction ps generalizing st with
  | nil => rfl
  | cons p ps ih => rw [List.foldl_cons, ih _ (by simpa using hl), land_reg _ _ _ _ hl, List.foldl_cons]

theorem landAll_pred {w : Nat} (ps : List (PendWrite w)) (st : Stream w) (k l : Nat) (hl : l < st.n) :
    (ps.foldl Stream.land st).pred k l = ps.foldl (landedPred k l) (st.pred k l) := by
  induction ps generalizing st with
  | nil => rfl
  | cons p ps ih => rw [List.foldl_cons, ih _ (by simpa using hl), land_pred _ _ _ _ hl, List.foldl_cons]

theorem landLatches_reg {w : Nat} (qs : List (LatchWrite w)) (st : Stream w) (k l : Nat) :
    (qs.foldl Stream.landLatch st).reg k l = st.reg k l := by
  induction qs generalizing st with
  | nil => rfl
  | cons q qs ih => exact ih _

theorem landLatches_pred {w : Nat} (qs : List (LatchWrite w)) (st : Stream w) (k l : Nat) :
    (qs.foldl Stream.landLatch st).pred k l = st.pred k l := by
  induction qs generalizing st with
  | nil => rfl
  | cons q qs ih => exact ih _

/-- What a register shows at a cycle: what it held, changed by the results that are due, in their order (R67). -/
theorem settle_reg {w : Nat} (st : Stream w) (c : Nat) (b : Bool) (k l : Nat) (hl : l < st.n) :
    (st.settle c b).reg k l = (st.pend.filter (fun p => p.at_ ≤ c)).foldl (landedReg k l) (st.reg k l) := by
  unfold Stream.settle
  dsimp only
  split
  · exact landAll_reg _ _ _ _ hl
  · exact (landLatches_reg _ _ _ _).trans (landAll_reg _ _ _ _ hl)

/-- What a predicate shows at a cycle. -/
theorem settle_pred {w : Nat} (st : Stream w) (c : Nat) (b : Bool) (k l : Nat) (hl : l < st.n) :
    (st.settle c b).pred k l = (st.pend.filter (fun p => p.at_ ≤ c)).foldl (landedPred k l) (st.pred k l) := by
  unfold Stream.settle
  dsimp only
  split
  · exact landAll_pred _ _ _ _ hl
  · exact (landLatches_pred _ _ _ _).trans (landAll_pred _ _ _ _ hl)

/-! ## A result that is put in flight -/

/-- A result that changes nothing may be put in flight anywhere. -/
theorem foldl_insertPend_of_id {w : Nat} {α : Type} (g : α → PendWrite w → α) (p : PendWrite w) (hp : ∀ v, g v p = v) (c : Nat)
    (ps : List (PendWrite w)) (v : α) :
    ((insertPend p ps).filter (fun q => q.at_ ≤ c)).foldl g v = (ps.filter (fun q => q.at_ ≤ c)).foldl g v := by
  have step : ∀ (ps : List (PendWrite w)) v, ((p :: ps).filter (fun q => q.at_ ≤ c)).foldl g v = (ps.filter (fun q => q.at_ ≤ c)).foldl g v := by
    intro ps v
    rw [List.filter_cons]
    split
    · rw [List.foldl_cons, hp]
    · rfl
  induction ps generalizing v with
  | nil => exact step [] v
  | cons q ps ih =>
    unfold insertPend
    split
    · exact step _ _
    · rw [List.filter_cons, List.filter_cons]
      split
      · rw [List.foldl_cons, List.foldl_cons, ih]
      · exact ih v

/-- At its own cycle a result is the last that has become visible. -/
theorem foldl_insertPend_last {w : Nat} {α : Type} (g : α → PendWrite w → α) (p : PendWrite w) (ps : List (PendWrite w))
    (h : ps.Pairwise (fun p q => p.at_ ≤ q.at_)) (v : α) :
    ((insertPend p ps).filter (fun q => q.at_ ≤ p.at_)).foldl g v = g ((ps.filter (fun q => q.at_ ≤ p.at_)).foldl g v) p := by
  induction ps generalizing v with
  | nil => simp [insertPend]
  | cons q ps ih =>
    obtain ⟨hq, hps⟩ := List.pairwise_cons.1 h
    unfold insertPend
    split
    · rename_i hlt
      have hnil : (q :: ps).filter (fun q => q.at_ ≤ p.at_) = [] := by
        rw [List.filter_eq_nil_iff]
        intro x hx
        rcases List.mem_cons.1 hx with rfl | hx
        · simpa using hlt
        · have := hq x hx
          simp only [decide_eq_true_eq]
          omega
      rw [List.filter_cons, if_pos (by simp), hnil]
      rfl
    · rename_i hge
      have hle : q.at_ ≤ p.at_ := by omega
      simp only [List.filter_cons, hle, decide_true, if_true, List.foldl_cons]
      exact ih hps _

/-- Results that are due at a cycle have the same effect after a change that keeps their cycles and their effects. -/
theorem foldl_due_map {w : Nat} {α : Type} (g : α → PendWrite w → α) (f : PendWrite w → PendWrite w) (hat : ∀ p, (f p).at_ = p.at_)
    (hg : ∀ v p, g v (f p) = g v p) (c : Nat) (ps : List (PendWrite w)) (v : α) :
    ((ps.map f).filter (fun q => q.at_ ≤ c)).foldl g v = (ps.filter (fun q => q.at_ ≤ c)).foldl g v := by
  have hf : (fun (q : PendWrite w) => decide (q.at_ ≤ c)) ∘ f = fun q => decide (q.at_ ≤ c) := by
    funext q; simp [hat]
  rw [List.filter_map, hf, List.foldl_map]
  simp only [hg]

/-- A dropped result still writes each lane that the new one does not. -/
theorem drop_lane {w : Nat} (p : PendWrite w) (n : Nat) (d : Dest) (vals : List (Option (BitVec w))) (l : Nat)
    (h : p.dest ≠ d ∨ vals.getD l none = none) : (p.drop n d vals).vals.getD l none = p.vals.getD l none := by
  unfold PendWrite.drop
  split
  · rename_i hd
    have hv : vals.getD l none = none := h.resolve_left (fun hne => hne hd.2)
    by_cases hl : l < p.vals.length
    · simp [List.getD, hl] at hv ⊢
      simp [hv]
    · simp [List.getD, hl]
  · rfl
@[simp] theorem drop_dest {w : Nat} (p : PendWrite w) (n : Nat) (d : Dest) (vals : List (Option (BitVec w))) :
    (p.drop n d vals).dest = p.dest := by unfold PendWrite.drop; split <;> rfl

theorem landedReg_drop {w : Nat} (k l n : Nat) (d : Dest) (vals : List (Option (BitVec w))) (h : d ≠ .reg k ∨ vals.getD l none = none)
    (v : BitVec w) (p : PendWrite w) : landedReg k l v (p.drop n d vals) = landedReg k l v p := by
  unfold landedReg
  rw [drop_dest]
  split
  · rename_i hp
    rw [drop_lane]
    exact h.imp (fun hd e => hd (e.symm.trans hp)) id
  · rfl

theorem landedPred_drop {w : Nat} (k l n : Nat) (d : Dest) (vals : List (Option (BitVec w)))
    (h : d ≠ .pred k ∨ k = 0 ∨ vals.getD l none = none) (v : Bool) (p : PendWrite w) :
    landedPred k l v (p.drop n d vals) = landedPred k l v p := by
  unfold landedPred
  rw [drop_dest]
  split
  · rename_i hp
    rw [drop_lane]
    exact h.imp (fun hd e => hd (e.symm.trans hp.1)) (fun h => h.resolve_left hp.2)
  · rfl

section
variable {w : Nat} (st : Stream w) (f : Option Nat) (clk lat : Nat) (d : Dest) (vals : List (Option (BitVec w))) (l : Nat) (hl : l < st.n)
include hl

/-- A register lane that a result does not write shows at every cycle what it would show without it. -/
theorem resultF_reg_other (k c : Nat) (b : Bool) (h : d ≠ .reg k ∨ vals.getD l none = none) :
    ((st.resultF f clk lat d vals).settle c b).reg k l = (st.settle c b).reg k l := by
  have hid : ∀ v, landedReg k l v { at_ := clk + lat, pkt := st.pktNo, dest := d, flag := f, vals := vals : PendWrite w } = v := by
    intro v
    unfold landedReg
    split
    · rename_i hd
      rw [h.resolve_left (fun hne => hne hd)]
      rfl
    · rfl
  rw [settle_reg _ _ _ _ _ (by simpa using hl), settle_reg _ _ _ _ _ hl, result_pend, foldl_insertPend_of_id _ _ hid,
    foldl_due_map _ _ (fun p => drop_at p _ _ _) (landedReg_drop k l _ d vals h)]
  simp [Stream.reg]

/-- A predicate of a lane that a result does not write shows at every cycle what it would show without it. -/
theorem resultF_pred_other (k c : Nat) (b : Bool) (h : d ≠ .pred k ∨ k = 0 ∨ vals.getD l none = none) :
    ((st.resultF f clk lat d vals).settle c b).pred k l = (st.settle c b).pred k l := by
  have hid : ∀ v, landedPred k l v { at_ := clk + lat, pkt := st.pktNo, dest := d, flag := f, vals := vals : PendWrite w } = v := by
    intro v
    unfold landedPred
    split
    · rename_i hd
      rw [(h.resolve_left (fun hne => hne hd.1)).resolve_left hd.2]
      rfl
    · rfl
  rw [settle_pred _ _ _ _ _ (by simpa using hl), settle_pred _ _ _ _ _ hl, result_pend, foldl_insertPend_of_id _ _ hid,
    foldl_due_map _ _ (fun p => drop_at p _ _ _) (landedPred_drop k l _ d vals h)]
  simp [Stream.pred]

/-- The value of a result stands in its register from its cycle on. -/
theorem resultF_reg_same (hs : st.sound = true) (r : Nat) (b : Bool) (v : BitVec w) (hd : d = .reg r) (hv : vals.getD l none = some v) :
    ((st.resultF f clk lat d vals).settle (clk + lat) b).reg r l = v := by
  have hsorted : (st.pend.map (fun p => p.drop st.pktNo d vals)).Pairwise (fun p q => p.at_ ≤ q.at_) := by
    rw [List.pairwise_map]
    simpa using ((stream_sound_iff _).1 hs).2
  rw [settle_reg _ _ _ _ _ (by simpa using hl), result_pend]
  refine (foldl_insertPend_last (landedReg r l) ⟨clk + lat, st.pktNo, d, f, vals⟩ _ hsorted _).trans ?_
  unfold landedReg
  rw [if_pos hd, hv]
  rfl

/-- The value of a result stands in its predicate from its cycle on. -/
theorem resultF_pred_same (hs : st.sound = true) (k : Nat) (b : Bool) (v : BitVec w) (hd : d = .pred k) (hk : k ≠ 0) (hk32 : k < 32)
    (hv : vals.getD l none = some v) : ((st.resultF f clk lat d vals).settle (clk + lat) b).pred k l = v.getLsbD 0 := by
  have hsorted : (st.pend.map (fun p => p.drop st.pktNo d vals)).Pairwise (fun p q => p.at_ ≤ q.at_) := by
    rw [List.pairwise_map]
    simpa using ((stream_sound_iff _).1 hs).2
  rw [settle_pred _ _ _ _ _ (by simpa using hl), result_pend]
  refine (foldl_insertPend_last (landedPred k l) ⟨clk + lat, st.pktNo, d, f, vals⟩ _ hsorted _).trans ?_
  unfold landedPred
  rw [if_pos ⟨hd, hk⟩, hv]
  simp [hk32]

end

/-! ## What leaves registers and predicates as they show -/

/-- What registers show depends on what they hold and on what is in flight alone. -/
theorem settle_reg_congr {w : Nat} {st st' : Stream w} (hn : st'.n = st.n) (hr : st'.regs = st.regs) (hp : st'.pend = st.pend)
    (c : Nat) (b : Bool) (k l : Nat) (hl : l < st.n) : (st'.settle c b).reg k l = (st.settle c b).reg k l := by
  rw [settle_reg _ _ _ _ _ hl, settle_reg _ _ _ _ _ (hn ▸ hl), hp]
  simp only [Stream.reg, hr]

/-- What predicates show depends on what they hold and on what is in flight alone. -/
theorem settle_pred_congr {w : Nat} {st st' : Stream w} (hn : st'.n = st.n) (hr : st'.preds = st.preds) (hp : st'.pend = st.pend)
    (c : Nat) (b : Bool) (k l : Nat) (hl : l < st.n) : (st'.settle c b).pred k l = (st.settle c b).pred k l := by
  rw [settle_pred _ _ _ _ _ hl, settle_pred _ _ _ _ _ (hn ▸ hl), hp]
  simp only [Stream.pred, hr]

end Sys2Proof.Laws
end

section
/-! SUPPORT. An instruction's result, from its start to the end of its slot, in a stream. -/
namespace Sys2Proof.Laws
open Sys2Proof Sys2Proof.Machine

/-! ## The results that an instruction starts -/

/-- A stream with the latch result that an instruction of a pipe leaves, if the pipe has a latch (R80). -/
def startLatch {w : Nat} (st : Stream w) (p : Pipe) (vals : List (Option (BitVec w))) : Stream w :=
  match latchOf p with | some k => st.latch k vals | none => st

/-- A result for a destination. One with no register to go to still holds the flag that its slot names: it writes p0, which nothing
changes (R68, R264). -/
def startResult {w : Nat} (st : Stream w) (clk : Nat) (p : Pipe) (d : Option Dst) (vals : List (Option (BitVec w))) : Stream w :=
  match d with
  | some (.reg r) => st.result clk (latency p) (.reg r) vals
  | _ => st.result clk (latency p) (.pred 0) (copies st.n none)

theorem produce_eq {w : Nat} (st : Stream w) (clk : Nat) (p : Pipe) (d : Option Dst) (vals : List (Option (BitVec w))) :
    st.produce clk p d vals = startResult (startLatch st p vals) clk p d vals := rfl

section
variable {w : Nat} (st : Stream w) (p : Pipe) (vals : List (Option (BitVec w)))
@[simp] theorem startLatch_n : (startLatch st p vals).n = st.n := by unfold startLatch; split <;> rfl
@[simp] theorem startLatch_regs : (startLatch st p vals).regs = st.regs := by unfold startLatch; split <;> rfl
@[simp] theorem startLatch_preds : (startLatch st p vals).preds = st.preds := by unfold startLatch; split <;> rfl
@[simp] theorem startLatch_pend : (startLatch st p vals).pend = st.pend := by unfold startLatch; split <;> rfl
@[simp] theorem startLatch_flags : (startLatch st p vals).flags = st.flags := by unfold startLatch; split <;> rfl
@[simp] theorem startLatch_setFlag : (startLatch st p vals).setFlag = st.setFlag := by unfold startLatch; split <;> rfl
theorem startLatch_sound (h : st.sound = true) : (startLatch st p vals).sound = true := by unfold startLatch; split <;> exact h
theorem startLatch_latched : st.latched (startLatch st p vals) p vals := by
  unfold Stream.latched startLatch
  cases latchOf p with
  | none => exact (List.append_nil _).symm
  | some k => rfl
end

/-! ## What a result leaves alone -/

/-- Two streams differ at most in what is in flight, the flags, the latch results and the notes of what is overwritten. -/
def Keeps {w : Nat} (st st' : Stream w) : Prop :=
  { st' with pend := st.pend, flags := st.flags, latchNew := st.latchNew, killed := st.killed } = st

theorem keeps_trans {w : Nat} {st st1 st2 : Stream w} (h1 : Keeps st st1) (h2 : Keeps st1 st2) : Keeps st st2 := by
  unfold Keeps at *
  rw [← h2] at h1
  exact h1
theorem startLatch_keeps {w : Nat} (st : Stream w) (p : Pipe) (vals : List (Option (BitVec w))) : Keeps st (startLatch st p vals) := by
  unfold startLatch; split <;> rfl
theorem resultF_keeps {w : Nat} (st : Stream w) (f : Option Nat) (clk lat : Nat) (d : Dest) (vals : List (Option (BitVec w))) :
    Keeps st (st.resultF f clk lat d vals) := by cases f <;> rfl

/-- The flags of a stream with a holder more. -/
theorem raise_flags_congr {w : Nat} {st st1 : Stream w} (f : Option Nat) (h : st1.flags = st.flags) : (st1.raise f).flags = (st.raise f).flags := by
  cases f with
  | none => exact h
  | some k => simp [Stream.raise, h]
theorem resultF_flags {w : Nat} (st : Stream w) (f : Option Nat) (clk lat : Nat) (d : Dest) (vals : List (Option (BitVec w))) :
    (st.resultF f clk lat d vals).flags = (st.raise f).flags := rfl
/-- A result behind a latch result holds the flag of the slot. -/
theorem result_startLatch_flags {w : Nat} (st : Stream w) (clk lat : Nat) (p : Pipe) (d : Dest) (lvals vals : List (Option (BitVec w))) :
    ((startLatch st p lvals).result clk lat d vals).flags = (st.raise st.setFlag).flags := by
  unfold Stream.result
  rw [resultF_flags, startLatch_setFlag, raise_flags_congr _ (startLatch_flags st p lvals)]

/-- The end of a slot that has started results which hold its flag is a step in the sense of the claims. -/
theorem stepped_advance {w : Nat} {st st1 : Stream w} (h : Keeps st st1) (hf : st1.flags = (st.raise st.setFlag).flags) :
    st.stepped st1.advance := by
  have hpkt : st1.pkt = st.pkt := by simpa using congrArg Stream.pkt h
  have hvpc : st1.vpc = st.vpc := by simpa using congrArg Stream.vpc h
  have hacq : st1.acqHeld = st.acqHeld := by simpa using congrArg Stream.acqHeld h
  have hview : st1.view = st.view := by simpa using congrArg Stream.view h
  have hn : st1.n = st.n := by simpa using congrArg Stream.n h
  refine ⟨?_, .inl (by simp [hacq]), by simp [hf], fun l hl => ?_⟩
  · refine Eq.trans ?_ h
    rw [← hpkt, ← hvpc, ← hacq, ← hview]
    unfold Stream.advance
    split <;> rfl
  · have hex : st1.ex = st.ex := by rw [Stream.ex, hpkt]; rfl
    have hpc : st1.pc = st.pc := by rw [Stream.pc, hpkt]; rfl
    have hlit : st1.litNext = st.litNext := by rw [Stream.litNext, hpkt]; rfl
    have hof : st1.pcOf l = st.pcOf l := by rw [Stream.pcOf, hvpc]; rfl
    rw [advance_pcOf _ _ (hn ▸ hl), hex, hpc, hlit, hof]

/-- A latch result stays behind what changes neither it nor the lanes that execute. -/
theorem latched_congr {w : Nat} {st st1 st2 : Stream w} {p : Pipe} {vals : List (Option (BitVec w))} (h : st.latched st1 p vals)
    (h2 : st2.latchNew = st1.latchNew) : st.latched st2 p vals := h2.trans h

/-- An instruction that starts its result and ends its slot steps, and leaves its latch result. -/
theorem produce_stepped {w : Nat} (st : Stream w) (clk : Nat) (p : Pipe) (d : Option Dst) (vals : List (Option (BitVec w))) :
    st.stepped (st.produce clk p d vals).advance ∧ st.latched (st.produce clk p d vals).advance p vals := by
  rw [produce_eq]
  unfold startResult
  split <;> exact ⟨stepped_advance (keeps_trans (startLatch_keeps st p vals) (resultF_keeps _ _ _ _ _ _)) (result_startLatch_flags ..),
    latched_congr (startLatch_latched st p vals) (by simp)⟩

/-- The same for a pair of registers. -/
theorem producePair_stepped {w : Nat} (st : Stream w) (clk : Nat) (p : Pipe) (d : Option Nat) (vals : List (Option DWord)) :
    st.stepped (st.producePair clk p d vals).advance ∧
    st.latched (st.producePair clk p d vals).advance p (vals.map (fun o => o.map (fun v => v.setWidth w))) := by
  let lo : List (Option (BitVec w)) := vals.map (fun o => o.map (fun v => v.setWidth w))
  have hk := startLatch_keeps st p lo
  have hl := startLatch_latched st p lo
  cases d with
  | none => exact ⟨stepped_advance (keeps_trans hk (resultF_keeps _ _ _ _ _ _)) (result_startLatch_flags ..), latched_congr hl (by simp [Stream.producePair]; rfl)⟩
  | some r =>
    refine ⟨stepped_advance (keeps_trans hk (keeps_trans (resultF_keeps _ _ _ _ _ _) (resultF_keeps _ none _ _ _ _))) ?_, latched_congr hl ?_⟩
    · exact result_startLatch_flags st clk (latency p) p (.reg r) lo lo
    · simp [Stream.producePair]; rfl

/-! ## What registers and predicates show behind a result -/

/-- Registers and predicates show at every cycle what they show in another stream. -/
def ShowsSame {w : Nat} (st st' : Stream w) : Prop :=
  st'.n = st.n ∧ ∀ c k l, l < st.n → (st'.settle c false).reg k l = (st.settle c false).reg k l ∧
    (st'.settle c false).pred k l = (st.settle c false).pred k l

theorem showsSame_of_eq {w : Nat} {st st' : Stream w} (hn : st'.n = st.n) (hr : st'.regs = st.regs) (hp : st'.preds = st.preds)
    (hq : st'.pend = st.pend) : ShowsSame st st' :=
  ⟨hn, fun _ _ _ hl => ⟨settle_reg_congr hn hr hq _ _ _ _ hl, settle_pred_congr hn hp hq _ _ _ _ hl⟩⟩
theorem startLatch_showsSame {w : Nat} (st : Stream w) (p : Pipe) (vals : List (Option (BitVec w))) : ShowsSame st (startLatch st p vals) :=
  showsSame_of_eq (by simp) (by simp) (by simp) (by simp)
theorem advance_showsSame {w : Nat} (st : Stream w) : ShowsSame st st.advance :=
  showsSame_of_eq (by simp) (by simp) (by simp) (by simp)

/-- What is written does not depend on what shows the same before and behind it. -/
theorem wrote_congr {w : Nat} {st st0 st1 st' : Stream w} {at_ : Nat} {rs : List (Nat × (Nat → BitVec w))} {act : Word}
    (h0 : ShowsSame st st0) (h : st0.wrote st1 at_ rs act) (h1 : ShowsSame st1 st') (hn : st1.n = st0.n) : st.wrote st' at_ rs act := by
  obtain ⟨hw, hr, hp⟩ := h
  have lt1 {l : Nat} (hl : l < st.n) : l < st1.n := by rw [hn, h0.1]; exact hl
  have lt0 {l : Nat} (hl : l < st.n) : l < st0.n := by rw [h0.1]; exact hl
  refine ⟨fun e he l hl ha => ?_, fun c k l hl ho => ?_, fun c k l hl => ?_⟩
  · rw [(h1.2 _ _ _ (lt1 hl)).1, hw e he l (lt0 hl) ha]
  · rw [(h1.2 _ _ _ (lt1 hl)).1, hr c k l (lt0 hl) ho, (h0.2 _ _ _ hl).1]
  · rw [(h1.2 _ _ _ (lt1 hl)).2, hp c k l (lt0 hl), (h0.2 _ _ _ hl).2]

/-- A value for each lane of a mask, in a lane of it. -/
theorem valsOf_lane {α : Type} {n : Nat} {m : Word} (f : Nat → α) {l : Nat} (hl : l < n) (hm : m.getLsbD l = true) :
    (valsOf n m f).getD l none = some (f l) := by rw [getD_valsOf, if_pos ⟨hl, hm⟩]
/-- A value for each lane of a mask, in another lane. -/
theorem valsOf_other {α : Type} (n : Nat) {m : Word} (f : Nat → α) {l : Nat} (hm : m.getLsbD l = false) :
    (valsOf n m f).getD l none = none := by rw [getD_valsOf, if_neg (by simp [hm])]
theorem map_valsOf {α β : Type} (n : Nat) (m : Word) (f : Nat → α) (g : α → β) :
    (valsOf n m f).map (fun o => o.map g) = valsOf n m (fun l => g (f l)) := by
  simp only [valsOf, List.map_map]
  refine List.map_congr_left fun l _ => ?_
  by_cases h : m.getLsbD l <;> simp [h]

/-- A result for p0 changes nothing that shows. -/
theorem result_none_wrote {w : Nat} (st : Stream w) (clk lat : Nat) (vals : List (Option (BitVec w))) (at_ : Nat) (act : Word) :
    st.wrote (st.result clk lat (.pred 0) vals) at_ [] act :=
  ⟨by simp, fun _ _ _ hl _ => resultF_reg_other _ _ _ _ _ _ _ hl _ _ _ (.inl (by simp)),
    fun _ _ _ hl => resultF_pred_other _ _ _ _ _ _ _ hl _ _ _ (by
      rename_i k l
      by_cases hk : k = 0
      · exact .inr (.inl hk)
      · exact .inl (by simpa using Ne.symm hk))⟩

/-- A result for a register shows there in the lanes that it is for. -/
theorem result_reg_wrote {w : Nat} {st : Stream w} (hs : st.sound = true) (f : Option Nat) (clk lat r : Nat) {act : Word} {v : Nat → BitVec w}
    {vals : List (Option (BitVec w))} (hv : vals = valsOf st.n act v) :
    st.wrote (st.resultF f clk lat (.reg r) vals) (clk + lat) [(r, v)] act := by
  subst hv
  refine ⟨fun e he l hl ha => ?_, fun c k l hl ho => ?_, fun c k l hl => ?_⟩
  · rw [List.mem_singleton.1 he]
    exact resultF_reg_same _ _ _ _ _ _ _ hl hs _ _ _ rfl (valsOf_lane v hl ha)
  · refine resultF_reg_other _ _ _ _ _ _ _ hl _ _ _ (ho.imp (fun h => ?_) (valsOf_other _ v))
    simpa using h (r, v) (by simp)
  · exact resultF_pred_other _ _ _ _ _ _ _ hl _ _ _ (.inl (by simp))

/-- What is written one after the other to different registers is written. -/
theorem wrote_append {w : Nat} {st st1 st2 : Stream w} {at_ : Nat} {rs qs : List (Nat × (Nat → BitVec w))} {act : Word}
    (h1 : st.wrote st1 at_ rs act) (h2 : st1.wrote st2 at_ qs act) (hn : st1.n = st.n) (hd : ∀ e ∈ rs, ∀ q ∈ qs, q.1 ≠ e.1) :
    st.wrote st2 at_ (rs ++ qs) act := by
  obtain ⟨hw1, hr1, hp1⟩ := h1
  obtain ⟨hw2, hr2, hp2⟩ := h2
  refine ⟨fun e he l hl ha => ?_, fun c k l hl ho => ?_, fun c k l hl => ?_⟩
  · rcases List.mem_append.1 he with he | he
    · rw [hr2 _ _ _ (hn ▸ hl) (.inl (hd e he)), hw1 e he l hl ha]
    · exact hw2 e he l (hn ▸ hl) ha
  · rw [hr2 _ _ _ (hn ▸ hl) (ho.imp (fun h e he => h e (List.mem_append_right _ he)) id),
      hr1 _ _ _ hl (ho.imp (fun h e he => h e (List.mem_append_left _ he)) id)]
  · rw [hp2 _ _ _ (hn ▸ hl), hp1 _ _ _ hl]

/-- What registers and predicates show after an instruction has started its result. -/
theorem produce_wrote {w : Nat} {st : Stream w} (hs : st.sound = true) (clk : Nat) (p : Pipe) (d : Option Dst) (act : Word) (f : Nat → BitVec w) :
    st.wrote (st.produce clk p d (valsOf st.n act f)).advance (clk + latency p) (writesOf d f) act := by
  have hs0 := startLatch_sound st p (valsOf st.n act f) hs
  rw [produce_eq]
  refine wrote_congr (startLatch_showsSame st p (valsOf st.n act f)) ?_ (advance_showsSame _) ?_
  · rcases d with _ | r | _
    · exact result_none_wrote ..
    · exact result_reg_wrote hs0 _ clk (latency p) r (by simp)
    · exact result_none_wrote ..
  · unfold startResult; split <;> simp

/-- The same for a pair of registers. -/
theorem producePair_wrote {w : Nat} {st : Stream w} (hs : st.sound = true) (clk : Nat) (p : Pipe) (d : Option Nat) (act : Word) (f : Nat → DWord) :
    st.wrote (st.producePair clk p d (valsOf st.n act f)).advance (clk + latency p) (pairWrites d f) act := by
  let lo : List (Option (BitVec w)) := (valsOf st.n act f).map (fun o => o.map (fun v => v.setWidth w))
  have hs0 := startLatch_sound st p lo hs
  refine wrote_congr (startLatch_showsSame st p lo) ?_ (advance_showsSame _) ?_
  · cases d with
    | none => exact result_none_wrote ..
    | some r =>
      exact wrote_append (rs := [(r, fun l => (f l).setWidth w)])
        (result_reg_wrote hs0 _ clk (latency p) r (by rw [map_valsOf, startLatch_n]))
        (result_reg_wrote (sound_result hs0 clk (latency p) (.reg r) _) none clk (latency p) (r + 1)
          (by rw [map_valsOf, result_n, startLatch_n]))
        (by simp) (by simp)
  · cases d
    · exact result_n ..
    · exact (resultF_n ..).trans (result_n ..)

end Sys2Proof.Laws
end

section
/-! SUPPORT. An instruction that changes the current stream alone. -/
namespace Sys2Proof.Laws
open Sys2Proof Sys2Proof.Machine

/-! ## The current stream -/

/-- The second of two replacements of a team remains. -/
@[simp] theorem setTeam_setTeam (s : State) (k : Nat) (x y : Team) : (s.setTeam k x).setTeam k y = s.setTeam k y := by
  unfold State.setTeam; rw [set_set]

/-- Two changes of the current stream are one. -/
theorem modCur_comp (s : State) (f g : (w : Nat) → Stream w → Stream w) :
    (s.modCur f).modCur g = s.modCur (fun w st => g w (f w st)) := by
  unfold State.modCur
  cases h : s.curSel with
  | ctl => simp [h]
  | grp q => simp [h, Team.setGrp, Team.grp]

/-- The end of a slot after a change of the current stream. -/
theorem done_modCur (s : State) (f : (w : Nat) → Stream w → Stream w) :
    (s.modCur f).done = { s.modCur (fun w st => (f w st).advance) with slotEnd := .none } := by
  unfold State.done; rw [modCur_comp]

/-- What holds of every stream with a property of the current one holds of the current one. -/
theorem onCur_imp {s : State} {P Q : (w : Nat) → Stream w → Prop} (h : s.onCur P) (hi : ∀ w st, P w st → Q w st) : s.onCur Q := by
  unfold State.onCur State.onStream at *
  cases hc : s.curSel <;> rw [hc] at h <;> exact hi _ _ h

/-- The current stream of a sound state is sound, and its executing lanes are those that execute. -/
theorem onCur_sound {s : State} (h : s.sound = true) : s.onCur (fun _ st => st.sound = true ∧ st.ex = s.executing) := by
  unfold State.executing State.onCur State.onStream
  cases s.curSel with
  | ctl => exact ⟨((team_sound_iff _).1 (sound_team h _)).2.2.2.1, rfl⟩
  | grp g => exact ⟨sound_grp (sound_team h _) g, rfl⟩

/-- What a change of the current stream relates. -/
theorem rel_modCur {s : State} {f : (w : Nat) → Stream w → Stream w} {R : (w : Nat) → Stream w → Stream w → Prop}
    (h : s.onCur (fun w st => R w st (f w st))) (e : SlotEnd) : s.rel { s.modCur f with slotEnd := e } R := by
  unfold State.onCur State.onStream at h
  unfold State.rel State.modCur
  cases hc : s.curSel with
  | ctl => rw [hc] at h; simpa [State.team, State.curT] using h
  | grp g => rw [hc] at h; simpa [State.team, State.curT, Team.grp, Team.setGrp] using h

/-- Packages that did not change count no operations. -/
theorem onlyFlops_zero {s t : State} (h : t.pkgs = s.pkgs) : s.onlyFlops t 0 := by
  have hp (p : Nat) : t.pkg p = s.pkg p := by unfold State.pkg; rw [h]
  exact ⟨fun _ => h, fun p => ⟨by rw [hp], fun n => ⟨by unfold State.part; rw [hp], fun k => by unfold State.part; simp [hp]⟩⟩⟩

/-- A change of the current stream at the end of a slot changes nothing else. -/
theorem onlyStream_modCur (s : State) (f : (w : Nat) → Stream w → Stream w) : s.onlyStream { s.modCur f with slotEnd := .none } [] 0 := by
  have hT (k : Nat) : State.team { s.modCur f with slotEnd := .none } k = (s.modCur f).team k := rfl
  refine ⟨rfl, ?_, onlyFlops_zero (modCur_pkgs s f), fun k hk => (hT k).trans (team_modCur s f k hk), ?_⟩
  · unfold State.modCur; split <;> rfl
  · simp only [hT]
    unfold State.modCur State.curT
    cases hc : s.curSel with
    | ctl => simp [Team.grp]
    | grp g =>
      refine ⟨by simp, by simp, by simp, by simp, fun q hq => ?_⟩
      have : q ≠ g := fun e => hq (by rw [e])
      simp [this]

/-- An instruction whose meaning is a change of the current stream, in a state where nothing is to be popped, changes nothing else. -/
theorem computes_of_modCur {s : State} {i : Instr} {u : Use} {p : Pipe} {d : Option Dst} {v : Ctx → (w : Nat) → Stream w → Nat → BitVec w}
    (hs : s.sound = true) (hq : u.srcs = [])
    (he : exec i s = .next (s.modCur (fun w st =>
      st.produce (s.clkOf s.curTeam) p d (valsOf st.n st.ex (v (s.ctx []) w st)))).done) :
    s.computes i u p d s.executing 0 v := by
  have hp : s.popped u s.executing = [] := by simp [State.popped, hq, queueSrcs]
  have hf : s.fronts u s.executing = [] := by unfold State.fronts; rw [hp]; rfl
  unfold State.computes
  rw [hp, hf, Nat.zero_mul]
  refine ⟨_, he, ?_, ?_⟩
  · rw [done_modCur]; exact onlyStream_modCur s _
  · rw [done_modCur]
    refine rel_modCur (onCur_imp (onCur_sound hs) fun w st h => ?_) _
    obtain ⟨hst, hex⟩ := h
    have hstep := produce_stepped st (s.clkOf s.curTeam) p d (valsOf st.n st.ex (v (s.ctx []) w st))
    rw [hex] at hstep ⊢
    exact ⟨hstep.1, hstep.2, produce_wrote hst _ p d _ _⟩

/-- The same for a result on a pair of registers. -/
theorem computesPair_of_modCur {s : State} {i : Instr} {u : Use} {p : Pipe} {d : Option Nat} {v : Ctx → (w : Nat) → Stream w → Nat → DWord}
    (hs : s.sound = true) (hq : u.srcs = [])
    (he : exec i s = .next (s.modCur (fun w st =>
      st.producePair (s.clkOf s.curTeam) p d (valsOf st.n st.ex (v (s.ctx []) w st)))).done) :
    s.computesPair i u p d s.executing v := by
  have hp : s.popped u s.executing = [] := by simp [State.popped, hq, queueSrcs]
  have hf : s.fronts u s.executing = [] := by unfold State.fronts; rw [hp]; rfl
  unfold State.computesPair
  rw [hp, hf]
  refine ⟨_, he, ?_, ?_⟩
  · rw [done_modCur]; exact onlyStream_modCur s _
  · rw [done_modCur]
    refine rel_modCur (onCur_imp (onCur_sound hs) fun w st h => ?_) _
    obtain ⟨hst, hex⟩ := h
    have hstep := producePair_stepped st (s.clkOf s.curTeam) p d (valsOf st.n st.ex (v (s.ctx []) w st))
    rw [hex, map_valsOf] at hstep
    rw [hex]
    exact ⟨hstep.1, hstep.2, producePair_wrote hst _ p d _ _⟩

end Sys2Proof.Laws
end

section
/-! PROOFS. System registers (R96 to R106, R322). -/
namespace Sys2Proof.Proofs
open Sys2Proof Sys2Proof.Machine Sys2Proof.Laws

/-! ## SRR (R98, R322) -/

/-- SRR of a register that exists starts its result in a lane: a pair. -/
theorem exec_srr_lane {s : State} {d : Reg} {n : BitVec 12} {v : DWord} (hv : s.sysReg s.curTeam n.toNat = some v) (hl : s.inLane = true)
    (hd : pairOk s.blocks d.toNat = true) (hr : s.ready both 0 = true) :
    exec (.srr d n) s =
      .next (s.modCur (fun _ st => st.producePair (s.clkOf s.curTeam) .S (some d.toNat) (valsOf st.n st.ex (fun _ => v)))).done := by
  have hd' : pairOk (s.onCur fun _ st => st.blocks) d.toNat = true := hd
  show execSrr d n s = _
  unfold execSrr
  simp only [hv, hl, hd', Option.isSome_some, Bool.and_self, if_true, Option.getD_some]
  rw [show ({ both with ok := true } : Use) = both from rfl, withUse_quiet hr rfl]

/-- SRR of a register that exists starts its result in a control thread: a register. -/
theorem exec_srr_ctl {s : State} {d : Reg} {n : BitVec 12} {v : DWord} {dst : Dst} (hv : s.sysReg s.curTeam n.toNat = some v)
    (hl : s.inLane = false) (hd : dstOf false 0 d.toNat = some dst) (hr : s.ready both 0 = true) :
    exec (.srr d n) s =
      .next (s.modCur (fun w st => st.produce (s.clkOf s.curTeam) .S (some dst) (valsOf st.n st.ex (fun _ => v.setWidth w)))).done := by
  show execSrr d n s = _
  unfold execSrr
  simp only [hv, hl, hd, Option.isSome_some, Bool.and_self, if_false, Option.getD_some, Bool.false_eq_true]
  rw [show ({ both with ok := true } : Use) = both from rfl, withUse_quiet hr rfl]

/-- SRR in both streams. -/
theorem systemRead : Claims.SystemRead := by
  intro s d n v hs hv
  exact ⟨fun hl hd hr => computesPair_of_modCur hs rfl (exec_srr_lane hv hl hd hr),
    fun dst hl hd hr => computes_of_modCur hs rfl (exec_srr_ctl hv hl hd hr)⟩

/-! ## SRW (R5, R96, R103, R104, R322) -/

/-- A write of a system register leaves the memories, the streams and the work of a team as they are. -/
theorem sysWrite_frame (x : Team) (n : Nat) (v : DWord) :
    { x.sysWrite n v with lrbase := x.lrbase, pptto := x.pptto, ltrapvec := x.ltrapvec, ctrapvec := x.ctrapvec, mxerr := x.mxerr,
                          mxOld := x.mxOld, chansel := x.chansel, lagesel := x.lagesel, tsh := x.tsh } = x := by
  unfold Team.sysWrite
  split
  case h_5 => dsimp only; split <;> rfl
  case h_8 => split <;> rfl
  all_goals rfl

/-- What the system registers of a team are after `v` is written to the one of number `n`: each keeps its value, but for the one
that is written, which takes its writable bits. -/
theorem sysWrite_fields (x : Team) (n : Nat) (v : DWord) :
    let y := x.sysWrite n v
    y.lrbase = (if n = 0x010 then v &&& ~~~0x7F#64 else x.lrbase) ∧
    y.pptto = (if n = 0x011 then v &&& 0xFFFFFFFF#64 else x.pptto) ∧
    y.ltrapvec = (if n = 0x012 then v &&& 0xFFFFFFFF#64 else x.ltrapvec) ∧
    y.ctrapvec = (if n = 0x013 then v &&& 0xFFFFFFFF#64 else x.ctrapvec) ∧
    y.mxerr = (if n = 0x030 then
        let clear : DWord := ~~~(v &&& 0xC000000000000000#64)
        (if x.mxErrs = [] then x.mxerr &&& clear else x.mxErrs.foldl mxRecord (x.mxOld &&& clear))
      else x.mxerr) ∧
    y.chansel = (if n = 0x040 then v &&& 0x3F#64 else x.chansel) ∧
    y.lagesel = (if n = 0x042 then v &&& 0x7FF#64 else x.lagesel) ∧
    y.tsh = if 0x020 ≤ n ∧ n ≤ 0x02F then setAt x.tsh (n - 0x020) (v.setWidth 32 &&& 0x000FFF9F#32) else x.tsh := by
  unfold Team.sysWrite
  split
  case h_5 => by_cases h : x.mxErrs = [] <;> simp [h]
  case h_8 h1 h2 h3 h4 h5 h6 h7 => split <;> simp_all
  all_goals simp

/-- A team of the control thread that takes a slot to its end: the team with the control stream moved on. -/
theorem done_setTeam_ctl {s : State} (h : s.curSel = .ctl) (x : Team) :
    (s.setTeam s.curTeam x).done = { s.setTeam s.curTeam { x with ctl := x.ctl.advance } with slotEnd := .none } := by
  unfold State.done State.modCur
  simp [h]

/-- A replaced team with the same memories changes no byte. -/
theorem sameBytes_setTeam (s : State) (k : Nat) (y : Team) (h1 : y.scratch = (s.team k).scratch) (h2 : y.tiles = (s.team k).tiles)
    (h3 : y.acc = (s.team k).acc) : s.sameBytes (s.setTeam k y) := by
  intro z
  cases z with
  | host a | near p a | far m a => rfl
  | scratch j a | tile j a | acc j a => by_cases hj : j = k <;> simp [State.byte, hj, h1, h2, h3]

/-- A replaced team with the same memories, at the end of a slot, is all that differs. -/
theorem onlyOf_setTeam (s : State) (k : Nat) (y : Team) (e : SlotEnd) (h1 : y.scratch = (s.team k).scratch) (h2 : y.tiles = (s.team k).tiles)
    (h3 : y.acc = (s.team k).acc) : s.onlyOf { s.setTeam k y with slotEnd := e } k := by
  have hT (j : Nat) : State.team { s.setTeam k y with slotEnd := e } j = (s.setTeam k y).team j := rfl
  have hB (z : Place) : State.byte { s.setTeam k y with slotEnd := e } z = (s.setTeam k y).byte z := by cases z <;> rfl
  exact ⟨rfl, fun j hj => by rw [hT, team_setTeam, if_neg hj], fun z => (hB z).trans (sameBytes_setTeam s k y h1 h2 h3 z)⟩

/-- A control thread is the current stream where no lane is. -/
theorem curSel_of_not_inLane {s : State} (h : s.inLane = false) : s.curSel = .ctl := by
  unfold State.inLane at h
  cases hc : s.curSel with
  | ctl => rfl
  | grp g => simp [hc] at h

/-- The value of a source of the control thread as 64 bits. -/
theorem ofNat_ctlValue {s : State} (a : Reg) :
    BitVec.ofNat 64 (s.ctlValue a) = s.onCur (fun _ st => (st.value (s.ctx []) a 0).setWidth 64) := by
  unfold State.ctlValue State.onCur State.onStream
  cases s.curSel <;> simp

/-- SRW of a register that exists: a lane traps, a control thread writes. -/
theorem exec_srw {s : State} {a : Reg} {n : BitVec 12} (hr : s.ready { both with srcs := [a], pauses := true } 0 = true)
    (hn : (s.sysReg s.curTeam n.toNat).isSome = true) :
    exec (.srw a n) s = .next (if s.inLane then s.trap .permission
      else (s.setTeam s.curTeam (s.curT.sysWrite n.toNat (BitVec.ofNat 64 (s.ctlValue a)))).done) := by
  show execSrw a n s = _
  unfold execSrw
  rw [hn, ofNat_ctlValue]
  exact congrArg Host.Outcome.next (withPeek_ready hr _)

/-- The stream of the control thread in a team with the control stream moved on. -/
theorem rel_setTeam_ctl {s : State} (h : s.curSel = .ctl) {y : Team} {e : SlotEnd} {R : (w : Nat) → Stream w → Stream w → Prop}
    (hR : R 64 s.curT.ctl y.ctl) : s.rel { s.setTeam s.curTeam y with slotEnd := e } R := by
  have hT : State.team { s.setTeam s.curTeam y with slotEnd := e } s.curTeam = y := by
    show (s.setTeam s.curTeam y).team s.curTeam = y
    simp
  unfold State.rel
  rw [h, hT]
  exact hR

/-- A tile-shape register (R99) after a write of a system register. -/
theorem sysWrite_tsh {x : Team} (hx : x.tsh.length = 16) (n : Nat) (v : DWord) (k : Nat) (hk : k < 16) :
    (x.sysWrite n v).tsh.getD k 0 = if n = 0x020 + k then v.setWidth 32 &&& 0x000FFF9F#32 else x.tsh.getD k 0 := by
  obtain ⟨-, -, -, -, -, -, -, h⟩ := sysWrite_fields x n v
  rw [h]
  by_cases hn : 0x020 ≤ n ∧ n ≤ 0x02F
  · rw [if_pos hn, getD_setAt, hx]
    by_cases hnk : n = 0x020 + k
    · rw [if_pos hnk, if_pos (by omega)]
    · rw [if_neg hnk, if_neg (by omega)]
  · rw [if_neg hn, if_neg (by omega)]

/-- SRW in both streams. -/
theorem systemWrite : Claims.SystemWrite := by
  intro s a n hs hr hn
  refine ⟨fun hl => by rw [exec_srw hr hn, if_pos hl], fun hl => ?_⟩
  have hc := curSel_of_not_inLane hl
  let v : DWord := BitVec.ofNat 64 (s.ctlValue a)
  let w : Team := s.curT.sysWrite n.toNat v
  have hframe := sysWrite_frame s.curT n.toNat v
  have same {α : Type} (f : Team → α) := congrArg f hframe
  have hctl : w.ctl = s.curT.ctl := same Team.ctl
  refine ⟨{ s.setTeam s.curTeam { w with ctl := w.ctl.advance } with slotEnd := .none }, ?_, ?_, ?_, ?_⟩
  · rw [exec_srw hr hn, if_neg (by simp [hl]), done_setTeam_ctl hc]
  · exact onlyOf_setTeam _ _ _ _ (same Team.scratch) (same Team.tiles) (same Team.acc)
  · exact rel_setTeam_ctl hc (hctl ▸ advance_moved _)
  · have hT : State.curT { s.setTeam s.curTeam { w with ctl := w.ctl.advance } with slotEnd := .none } = { w with ctl := w.ctl.advance } := by
      show (s.setTeam s.curTeam _).team s.curTeam = _
      simp
    have number (k : BitVec 12) : n = k ↔ n.toNat = k.toNat := BitVec.toNat_inj.symm
    obtain ⟨h1, h2, h3, h4, h5, h6, h7, -⟩ := sysWrite_fields s.curT n.toNat v
    rw [hT]
    simp only [number]
    exact ⟨h1, h2, h3, h4, h5, h6, h7, sysWrite_tsh ((team_sound_iff _).1 (sound_team hs _)).2.2.2.2.2.2.2.2.1 _ _, same Team.tls,
      same Team.wins, same Team.abs, same Team.rvs, same Team.queues, same Team.sigs, same Team.grps⟩

/-- Settles O21: SRR starts the value of its register as its result, which shows in the cycle after (R67, R98); SRW of a control thread
changes, of its team, the register's writable bits. -/
theorem systemRegisters : Obligations.SystemRegisters := ⟨systemRead, systemWrite⟩

end Sys2Proof.Proofs
end

section
/-! SUPPORT. Bytes and numbers, and what a replaced part of the state leaves alone. -/
namespace Sys2Proof.Laws
open Sys2Proof Sys2Proof.Machine

/-! ## Bytes of numbers (R4) -/

@[simp] theorem length_bytesOf (n v : Nat) : (bytesOf n v).length = n := by
  induction n generalizing v with
  | zero => rfl
  | succ n ih => simp [bytesOf, ih]

/-- The number that the low bytes of a number denote. -/
theorem ofBytes_bytesOf (n v : Nat) : ofBytes (bytesOf n v) = v % 256 ^ n := by
  induction n generalizing v with
  | zero => simp [bytesOf, ofBytes, Nat.mod_one]
  | succ n ih =>
    rw [bytesOf, ofBytes, ih, BitVec.toNat_ofNat, Nat.pow_succ' (m := 256) (n := n), Nat.mod_mul]

/-- The bytes of a word denote it. -/
theorem ofBytes_bytesOf_dword (v : DWord) : BitVec.ofNat 64 (ofBytes (bytesOf 8 v.toNat)) = v := by
  rw [ofBytes_bytesOf, Nat.mod_eq_of_lt (by have := v.isLt; omega), BitVec.ofNat_toNat, BitVec.setWidth_eq]

/-- A write of all bytes of a register replaces it. -/
theorem overlayBytes_whole (old v : DWord) (o : Nat) : overlayBytes old o o (bytesOf 8 v.toNat) = v := by
  have h : (bytesOf 8 old.toNat).mapIdx (fun i y => if o ≤ o + i then (bytesOf 8 v.toNat).getD (o + i - o) y else y) = bytesOf 8 v.toNat := by
    refine List.ext_getElem (by simp) fun i h1 h2 => ?_
    simp [List.getD, List.getElem?_eq_getElem h2]
  rw [overlayBytes, h, ofBytes_bytesOf_dword]

/-- The register that an aligned access of 8 bytes touches. -/
theorem regsOf_aligned {o : Nat} (h : o % 8 = 0) : regsOf o 8 = [o] := by
  have h1 : (o + 8 + 7) / 8 - o / 8 = 1 := by omega
  have h2 : 8 * (o / 8) = o := by omega
  simp [regsOf, h1, h2]

/-- Bytes that are read one by one from a multiple of their number on. -/
theorem bytes_aligned {o n : Nat} (hn : 0 < n) (h : o % n = 0) (f : Nat → List Byte) (hf : (f o).length = n) :
    (List.range n).map (fun i => (f ((o + i) / n * n)).getD ((o + i) % n) 0) = f o := by
  obtain ⟨q, rfl⟩ : ∃ q, o = n * q := ⟨o / n, by rw [Nat.mul_div_cancel' (Nat.dvd_of_mod_eq_zero h)]⟩
  refine List.ext_getElem (by simp [hf]) fun i h1 h2 => ?_
  have hi : i < n := by simpa using h1
  have hd : (n * q + i) / n * n = n * q := by
    rw [Nat.mul_add_div hn, Nat.div_eq_of_lt hi, Nat.add_zero, Nat.mul_comm]
  simp [hd, Nat.mod_eq_of_lt hi, List.getD, h2]

/-! ## What a replaced part leaves alone -/

theorem onlyPkg_setPkg (s : State) (p : Nat) (x : Pkg) : s.onlyPkg (s.setPkg p x) p :=
  ⟨rfl, fun q hq => by rw [pkg_setPkg, if_neg hq]⟩

theorem onlyPart_setPart (s : State) (p n : Nat) (x : Part) : s.onlyPart (s.setPart p n x) p n :=
  ⟨onlyPkg_setPkg .., by simp, fun k hk => by rw [part_setPart, if_neg (by simp [hk])]⟩

/-- A replaced package with the same near memory changes no byte. -/
theorem sameBytes_setPkg (s : State) (p : Nat) (x : Pkg) (h : x.near = (s.pkg p).near) : s.sameBytes (s.setPkg p x) := by
  intro z
  cases z with
  | host a | far m a | scratch t a | tile t a | acc t a => rfl
  | near q a => by_cases hq : q = p <;> simp [State.byte, hq, h]

/-- A replaced module with the same memory changes no byte. -/
theorem sameBytes_setMod (s : State) (m : Nat) (x : Machine.Module) (h : x.mem = (s.mod m).mem) : s.sameBytes (s.setMod m x) := by
  intro z
  cases z with
  | host a | near m a | scratch t a | tile t a | acc t a => rfl
  | far q a => by_cases hq : q = m <;> simp [State.byte, hq, h]

/-- A changed channel changes no byte. -/
theorem sameBytes_setLink (s : State) (l : LinkId) (x : Link) : s.sameBytes (s.setLink l x) := fun z => by cases z <;> rfl

/-- A result of a read and used-up free values change no byte. -/
theorem sameBytes_hostRead (s : State) (n : Nat) (b : List Byte) : s.sameBytes { s with freeCount := n, hostRead := b } :=
  fun z => by cases z <;> rfl

theorem sameBytes_trans {s t u : State} (h1 : s.sameBytes t) (h2 : t.sameBytes u) : s.sameBytes u := fun z => (h2 z).trans (h1 z)

end Sys2Proof.Laws
end

section
/-! PROOFS. What the host and firmware write and read (R351 to R354, R358, R362, R363). -/
namespace Sys2Proof.Proofs
open Sys2Proof Sys2Proof.Machine Sys2Proof.Laws

/-! ## Near memory (R214, R352) -/

/-- The packages after a write to near memory: the memory of the one written, and of the others nothing. -/
theorem nearWrite_near (s : State) (p a : Nat) (b : List Byte) (o : Option Nat) (g : Option (Nat × Sel)) (k q : Nat) :
    ((s.nearWrite p a b o g k).pkg q).near = if q = p then (s.pkg p).near.writeN a b else (s.pkg q).near := by
  unfold State.nearWrite
  by_cases h : q = p <;> simp [h, Pkg.nearWrite]

/-- Bytes that all have a value take no free one. -/
theorem fillIn_given (s : State) (l : List Byte) : s.fillIn (l.map some) = (l, { s with freeCount := s.freeCount + l.length }) := by
  have h : (l.map some).mapIdx (fun i o => o.getD (Config.freeByte (s.freeCount + i))) = l :=
    List.ext_getElem (by simp) fun i h1 h2 => by simp
  simp [State.fillIn, h]

/-- Without a wrong bit no unit of near memory is bad. -/
theorem badUnits_nil {k : Pkg} (h : k.errs = []) (a n : Nat) : k.badUnits a n = [] := by
  simp [Pkg.badUnits, h]

/-- The host's read of near memory without a wrong bit. -/
theorem exec_hostNear_read {s : State} {p a n : Nat} (ha : a + n ≤ 0x40000000) (h : (s.pkg p).errs = []) :
    ∃ k, exec (.hostNearAccess p a (.read n)) s = .next { s with freeCount := k, hostRead := s.nearLatest p none a n } := by
  have hmap : (s.nearLatest p none a n).mapIdx (fun i b => if ([] : List Nat).contains ((a + i) / 64) then none else some b) =
      (s.nearLatest p none a n).map some := List.ext_getElem (by simp) fun i h1 h2 => by simp
  refine ⟨s.freeCount + (s.nearLatest p none a n).length, ?_⟩
  show execHostNearAccess p a (.read n) s = _
  unfold execHostNearAccess
  simp only [if_neg (Nat.not_lt.2 ha), badUnits_nil h, hmap, fillIn_given]

/-- Near memory by package near address: a write, and a read without a wrong bit (R214, R352). -/
theorem hostNear : Claims.HostNear := by
  intro s p a n b hs
  refine ⟨fun ha => ?_, fun ha herr => ?_⟩
  · obtain ⟨s1, hs1⟩ : ∃ s1, s1 = s.nearWrite p a b none none 0 := ⟨_, rfl⟩
    refine ⟨s1.setPkg p { s1.pkg p with hostPos := (s1.pkg p).pos }, ?_, by simp, fun z => ?_⟩
    · show execHostNearAccess p a (.write b) s = _
      unfold execHostNearAccess
      simp only [if_neg (Nat.not_lt.2 ha), hs1]
    · rw [sameBytes_setPkg s1 p { s1.pkg p with hostPos := (s1.pkg p).pos } rfl]
      cases z with
      | host x | far m x | scratch t x | tile t x | acc t x => rw [hs1]; rfl
      | near q x =>
        simp only [State.byte, hs1, nearWrite_near]
        by_cases hq : q = p
        · subst hq
          simp [read_writeN (sound_pkg hs q)]
        · simp [hq]
  · obtain ⟨k, hk⟩ := exec_hostNear_read ha herr
    exact ⟨_, hk, sameBytes_hostRead s k _, rfl⟩

/-! ## BAR0 (R353, R362) -/

/-- What the host reads of a dword of BAR0. -/
theorem hostReads_dword {s : State} {p o : Nat} (hup : (s.pkg p).up = true) (ho : o % 4 = 0) (hr : ¬ (0x800000 ≤ o ∧ o < 0xC00000)) :
    (s.hostReads p 0 0 o 4).hostRead = bytesOf 4 (s.bar0 p o) := by
  unfold State.hostReads
  simp only [hup, Bool.not_true, Bool.false_eq_true, if_false, and_self, if_true, if_neg hr, readDwords]
  exact bytes_aligned (by decide) ho (fun k => bytesOf 4 (s.bar0 p k)) (by simp)

/-- The registers of a partition in BAR0. -/
theorem bar0_block (s : State) (p n o : Nat) (hn : n < 32) (ho : o < 0x10000) :
    s.bar0 p (0x100000 + n * 0x10000 + o) = (s.part p n).blockRead o := by
  have h1 : (0x100000 + n * 0x10000 + o - 0x100000) / 0x10000 = n := by omega
  have h2 : (0x100000 + n * 0x10000 + o) % 0x10000 = o := by omega
  unfold State.bar0
  simp only [h1, h2]
  rw [if_neg (by omega), if_neg (by omega), if_neg (by omega), if_neg (by omega), if_pos (by omega)]

/-- The registers of a queue interface in BAR0. -/
theorem bar0_qi (s : State) (p n o : Nat) (hn : n < 4096) (ho : o < 32) : s.bar0 p (0x10000 + 32 * n + o) = (s.qi p n).read o := by
  have h1 : (0x10000 + 32 * n + o - 0x10000) / 32 = n := by omega
  have h2 : (0x10000 + 32 * n + o) % 32 = o := by omega
  unfold State.bar0
  simp only [h1, h2]
  rw [if_neg (by omega), if_pos (by omega)]

/-- A write to a partition's registers reaches its block. -/
theorem exec_registerWrite_block (s : State) (p n o : Nat) (v : DWord) (fw : Bool) (hn : n < 32) (ho : o < 0x10000) :
    exec (.registerWrite p (0x100000 + n * 0x10000 + o) v fw) s = .next (s.blockWrite p n o v fw) := by
  have h1 : (0x100000 + n * 0x10000 + o - 0x100000) / 0x10000 = n := by omega
  have h2 : (0x100000 + n * 0x10000 + o) % 0x10000 = o := by omega
  show execRegisterWrite p _ v fw s = _
  unfold execRegisterWrite
  simp only [h1, h2]
  rw [if_neg (by omega), if_neg (by omega), if_neg (by omega), if_neg (by omega), if_pos (by omega)]

/-- Writes to registers of BAR0, and what the host reads there (R353, R362). -/
theorem bar0 : Claims.Bar0 := by
  intro s p n v fw
  refine ⟨fun hn => ?_, fun hn => ?_, fun hn => ?_, fun hup => ?_⟩
  · exact ⟨_, exec_registerWrite_block s p n 0 v fw hn (by decide), onlyPart_setPart .., by simp [State.blockWrite]⟩
  · have h1 : (0x80000 + 8 * n - 0x80000) / 8 = n := by omega
    refine ⟨_, ?_, onlyPkg_setPkg s p _, by rw [pkg_setPkg, if_pos rfl]⟩
    show execRegisterWrite p _ v fw s = _
    unfold execRegisterWrite
    simp only [h1]
    rw [if_neg (by omega), if_neg (by omega), if_neg (by omega), if_pos (by omega)]
  · show execRegisterWrite p _ v false s = _
    unfold execRegisterWrite
    simp only
    rw [if_neg (by omega), if_neg (by omega), if_neg (by omega), if_neg (by omega), if_neg (by omega), if_neg (by omega), if_neg (by omega),
      if_neg (by omega), if_pos (by omega), if_neg Bool.false_ne_true]
  · dsimp only
    refine ⟨fun hn => ⟨?_, ?_, ?_⟩, fun hn => ?_, ?_, fun o => ?_⟩
    · rw [hostReads_dword hup (by omega) (by omega)]
      exact congrArg _ (bar0_block s p n 0 hn (by decide))
    · rw [hostReads_dword hup (by omega) (by omega), bar0_block s p n _ hn (by decide)]
      rfl
    · have h0 : (s.part p n).blockRead 0x220 = 0 := by simp [Part.blockRead]
      rw [hostReads_dword hup (by omega) (by omega), bar0_block s p n _ hn (by decide), h0]
      rfl
    · rw [hostReads_dword hup (by omega) (by omega), bar0_qi s p n _ hn (by decide)]
      rfl
    · have h0 : s.bar0 p 0x30000 = 0 := by simp [State.bar0]
      rw [hostReads_dword hup (by decide) (by decide), h0]
      rfl
    · simp [State.hostReads, hup]

/-! ## Tables (R151, R152, R177, R183, R363) -/

/-- A released counter holds no packet any more. -/
theorem releaseHeld_queue (x : Part) (c : Nat) : ∀ q ∈ (x.releaseHeld c).queue, q.held ≠ some c := by
  intro q hq
  obtain ⟨r, -, rfl⟩ := List.mem_map.1 hq
  by_cases h : r.held = some c <;> simp [h]

/-- What a counter that is loaded leaves of its partition. -/
theorem counterLoad_part (s : State) (p n c v : Nat) :
    (s.counterLoad p n c v).part p n =
      let y := { s.part p n with depc := Map.set (s.part p n).depc (c % 256) (BitVec.ofNat 16 v) }
      if v % 2 ^ 16 = 0 then y.releaseHeld (c % 256) else y := by
  simp [State.counterLoad]

/-- A write of an extent while its partition is not idle is counted. -/
theorem extentWrite_busy {s : State} {p n i : Nat} (save : Bool) (v : DWord) (fw : Bool) (hi : i < 4) (h : s.idlePart p n = false) :
    s.extentWrite p n save i v fw = s.partIgnored p n := by
  unfold State.extentWrite
  have hlim : ¬ (if save then 4 else 16) ≤ i := by cases save <;> simp <;> omega
  simp [hlim, h]

/-- The fields of an extent of the save area that a write may set: all but SECURE. -/
theorem save_fields (v : DWord) : v &&& extentFields &&& ~~~0x4000000000000000#64 = v &&& 0x80000007007F003F#64 := by
  rw [BitVec.and_assoc]
  rfl

/-- A write of a legal extent of the save area while its partition is idle. -/
theorem extentWrite_save {s : State} {p n i : Nat} (v : DWord) (fw : Bool) (hi : i < 4) (h : s.idlePart p n = true)
    (hb : (s.pkg p).badExtent n true i (v &&& 0x80000007007F003F#64) = false) :
    s.extentWrite p n true i v fw =
      s.setPart p n { s.part p n with saveMap := Map.set (s.part p n).saveMap i (v &&& 0x80000007007F003F#64) } := by
  unfold State.extentWrite
  simp only [save_fields, if_true, h, hb]
  rw [if_neg (by omega)]
  rfl

/-- A write of the remap table while an owner is not idle is counted. -/
theorem remapWrite_busy {s : State} {p k : Nat} {v : List Byte} (hk : k < 32) (hv : v.length = 16)
    (h : s.idlePart p ((Map.get (s.pkg p).remap k []).getD 12 0xFF).toNat = false ∨ s.idlePart p (v.getD 12 0xFF).toNat = false) :
    s.remapWrite p k v true = s.setPkg p ((s.pkg p).count cntRemapIgnored) := by
  unfold State.remapWrite
  have h1 : (!true || decide (32 ≤ k) || v.length != 16) = false := by simp [hv]; omega
  have h2 : (!s.idlePart p ((Map.get (s.pkg p).remap k []).getD 12 0xFF).toNat || !s.idlePart p (v.getD 12 0xFF).toNat) = true := by
    rcases h with h | h <;> simp only [h, Bool.not_false, Bool.true_or, Bool.or_true]
  simp only [h1, h2, Bool.false_eq_true, if_false, if_true]

/-- A package of a state with an entry of the remap table set, and with the slices whose entries clash. -/
def remapped (s : State) (p k : Nat) (v : List Byte) (l : List Nat) : State :=
  s.setPkg p { s.pkg p with remap := Map.set (s.pkg p).remap k v, clash := l }

/-- What a write of the remap table sets: the entry, which entries clash, and the counters of a partition that gets its first slice. -/
theorem remapWrite_idle {s : State} {p k : Nat} {v : List Byte} (hk : k < 32) (hv : v.length = 16)
    (h1 : s.idlePart p ((Map.get (s.pkg p).remap k []).getD 12 0xFF).toNat = true) (h2 : s.idlePart p (v.getD 12 0xFF).toNat = true) :
    ∃ l, s.remapWrite p k v true = remapped s p k v l ∨
      ∃ n, s.remapWrite p k v true = (remapped s p k v l).setPart p n { (remapped s p k v l).part p n with depc := [] } := by
  have e1 : ¬ (!true || decide (32 ≤ k) || v.length != 16) = true := by simp [hv]; omega
  have e2 : ¬ (!s.idlePart p ((Map.get (s.pkg p).remap k []).getD 12 0xFF).toNat || !s.idlePart p (v.getD 12 0xFF).toNat) = true := by
    simp only [h1, h2, Bool.not_true, Bool.or_self, Bool.false_eq_true, not_false_eq_true]
  unfold State.remapWrite
  dsimp only
  rw [if_neg e1, if_neg e2]
  split
  · exact ⟨_, .inr ⟨_, rfl⟩⟩
  · exact ⟨_, .inl rfl⟩

/-- The remap table is no part of a partition. -/
theorem remapped_part (s : State) (p k n : Nat) (v : List Byte) (l : List Nat) : (remapped s p k v l).part p n = s.part p n := by
  simp [remapped, State.part]

/-- Counters, extents and the remap table (R151, R152, R177, R183, R363). -/
theorem tableWrites : Claims.TableWrites := by
  intro s p n
  refine ⟨fun c v => ?_, fun i v hi hidle hb => ?_, fun save i v fw hi hidle => ?_, fun k v hk hv => ⟨rfl, fun h1 h2 => ?_, fun h => ?_⟩⟩
  · refine ⟨_, rfl, onlyPart_setPart .., fun j => ?_, fun h0 => ?_⟩
    · rw [counterLoad_part]
      have hv : BitVec.ofNat 16 v.toNat = v.setWidth 16 := by rw [BitVec.ofNat_toNat]
      dsimp only
      split <;> simp [Part.releaseHeld, hv]
    · rw [counterLoad_part, if_pos h0]
      exact releaseHeld_queue _ _
  · exact ⟨_, congrArg Host.Outcome.next (extentWrite_save v false hi hidle hb), onlyPart_setPart .., by simp⟩
  · exact ⟨_, congrArg Host.Outcome.next (extentWrite_busy save v fw hi hidle), onlyPart_setPart .., by simp [State.partIgnored]⟩
  · obtain ⟨l, h | ⟨m, h⟩⟩ := remapWrite_idle hk hv h1 h2
    · refine ⟨_, congrArg Host.Outcome.next h, onlyPkg_setPkg .., by simp [remapped], by simp [remapped], fun j => by rw [remapped_part]⟩
    · refine ⟨_, congrArg Host.Outcome.next h, ?_, by simp [remapped], by simp [remapped], fun j => ?_⟩
      · exact ⟨rfl, fun q hq => by simp [remapped, hq]⟩
      · simp only [part_setPart, remapped_part, true_and]
        split
        · rename_i hj
          rw [hj]
        · rfl
  · exact ⟨_, congrArg Host.Outcome.next (remapWrite_busy hk hv h), onlyPkg_setPkg .., by simp⟩

end Sys2Proof.Proofs
end

section
/-! PROOFS. The management apertures (R358, R389). -/
namespace Sys2Proof.Proofs
open Sys2Proof Sys2Proof.Machine Sys2Proof.Laws

/-! ## Management apertures -/

/-- A write of a register of a module changes no byte of it. -/
theorem mgWrite_mem (x : Machine.Module) (r : Nat) (v : DWord) (fw : Bool) : (x.mgWrite r v fw).mem = x.mem := by
  unfold Module.mgWrite
  dsimp only
  repeat' split
  all_goals rfl

/-- A write of the 8 bytes of a register: the channel carries it, and the module takes it from a package that manages it. -/
theorem aperture_write {s : State} {p m o : Nat} (v : DWord) (fw : Bool) (h : s.apertureOpen p m (.write (bytesOf 8 v.toNat)) = true) :
    s.aperture p m o (.write (bytesOf 8 v.toNat)) fw =
      (s.pass (mgmtLink p m true) (.access o (.write (bytesOf 8 v.toNat)) fw)).setMod m
        (if (s.mod m).managers.getLsbD p = false then (s.mod m).count cntMgmtDropped
         else (regsOf o 8).foldl (fun y r => y.mgWrite r (overlayBytes (y.mgRead r) r o (bytesOf 8 v.toNat)) fw) (s.mod m)) := by
  have hm : (s.pass (mgmtLink p m true) (.access o (.write (bytesOf 8 v.toNat)) fw)).mod m = s.mod m := rfl
  unfold State.aperture State.apertureAt
  simp only [h, Bool.not_true, Bool.false_eq_true, if_false, hm, length_bytesOf]
  cases (s.mod m).managers.getLsbD p <;> rfl

/-- A write of a register at its own address by a package that manages the module. -/
theorem aperture_write_register {s : State} {p m o : Nat} (v : DWord) (fw : Bool)
    (h : s.apertureOpen p m (.write (bytesOf 8 v.toNat)) = true) (hm : (s.mod m).managers.getLsbD p = true) (ho : o % 8 = 0) :
    s.aperture p m o (.write (bytesOf 8 v.toNat)) fw =
      (s.pass (mgmtLink p m true) (.access o (.write (bytesOf 8 v.toNat)) fw)).setMod m ((s.mod m).mgWrite o v fw) := by
  rw [aperture_write v fw h, if_neg (by simp [hm]), regsOf_aligned ho, List.foldl_cons, List.foldl_nil, overlayBytes_whole]

/-- What a message on a management channel and a replaced module with the same memory leave alone. -/
theorem pass_setMod_frame (s : State) (l : LinkId) (e : Msg) (m : Nat) (y : Machine.Module) (hy : y.mem = (s.mod m).mem) :
    let t := (s.pass l e).setMod m y
    s.sameBytes t ∧ (∀ q, q ≠ m → t.mod q = s.mod q) ∧ { t with mods := s.mods, links := s.links } = s ∧ t.mod m = y :=
  ⟨sameBytes_trans (sameBytes_setLink s l _) (sameBytes_setMod (s.pass l e) m y hy),
    fun q hq => by rw [mod_setMod, if_neg hq]; rfl, rfl, by rw [mod_setMod, if_pos rfl]⟩

/-- What an access that writes a register of a module does: nothing but the module's registers and the channel changes. -/
theorem exec_aperture_register {s : State} {p m o : Nat} (v : DWord) (fw : Bool) (hm : (s.mod m).managers.getLsbD p = true) (ho : o % 8 = 0)
    (h : s.apertureOpen p m (.write (bytesOf 8 v.toNat)) = true) :
    ∃ t, exec (.mgmtApertureAccess p m o (.write (bytesOf 8 v.toNat)) fw) s = .next t ∧ s.sameBytes t ∧ (∀ q, q ≠ m → t.mod q = s.mod q) ∧
      { t with mods := s.mods, links := s.links } = s ∧ t.mod m = (s.mod m).mgWrite o v fw :=
  ⟨_, congrArg Host.Outcome.next (aperture_write_register v fw h hm ho), pass_setMod_frame s _ _ m _ (mgWrite_mem _ o v fw)⟩

/-- A write in the table of roots sets the half of the entry that it names. -/
theorem mgWrite_root (x : Machine.Module) (r : Nat) (v : DWord) (fw : Bool) (h1 : 0x3000 ≤ r) (h2 : r < 0xB000) :
    Map.get (x.mgWrite r v fw).roots ((r - 0x3000) / 16) (0, 0) =
      if r % 16 = 0 then (v &&& 0x0003FFFFFFFC0001#64, (Map.get x.roots ((r - 0x3000) / 16) (0, 0)).2)
      else ((Map.get x.roots ((r - 0x3000) / 16) (0, 0)).1, v &&& 0x0003FFFFFFFFF03F#64) := by
  unfold Module.mgWrite
  dsimp only
  rw [if_neg (by omega), if_neg (by omega), if_neg (by omega), if_pos ⟨h1, h2⟩]
  simp

/-- A write of the first half of a bucket is what it takes at the next boundary. -/
theorem mgWrite_bucket (x : Machine.Module) (r : Nat) (v : DWord) (fw : Bool) (h1 : r < 0x1000) (h2 : r % 16 = 0) :
    (x.mgWrite r v fw).bucket (r / 16) = { x.bucket (r / 16) with newRate := bits v.toNat 31 0, newBurst := bits v.toNat 63 32 } := by
  unfold Module.mgWrite
  dsimp only
  rw [if_pos h1, if_pos h2]
  simp [Module.bucket]

/-- A read of a register over the management channel gives its bytes, and uses the channel in both directions. -/
theorem aperture_read {s : State} {p m o : Nat} (fw : Bool) (ho : o % 8 = 0) (h : s.apertureOpen p m (.read 8) = true) :
    { s.aperture p m o (.read 8) fw with links := s.links } = { s with hostRead := bytesOf 8 ((s.mod m).mgRead o).toNat } := by
  have hb := bytes_aligned (n := 8) (by decide) ho (fun k => bytesOf 8 ((s.mod m).mgRead k).toNat) (by simp)
  unfold State.aperture
  simp only [h, Bool.not_true, Bool.false_eq_true, if_false]
  rw [← hb]
  rfl

/-- Registers of a module by its management aperture (R150, R158, R168, R358, R389). -/
theorem apertures : Claims.Apertures := by
  intro s p m o v fw
  refine ⟨fun hm h1 h2 => ⟨fun ho hopen => ?_, fun ho hopen => ?_⟩, fun hm h1 ho hopen => ?_, fun hm hopen => ?_, fun ho hopen => ?_,
    fun a ha => ?_⟩
  · obtain ⟨t, he, hb, hq, hf, ht⟩ := exec_aperture_register (o := o) v fw hm (by omega) hopen
    exact ⟨t, he, hb, hq, hf, by rw [ht]; exact (mgWrite_root _ _ _ _ h1 h2).trans (if_pos ho)⟩
  · obtain ⟨t, he, hb, hq, hf, ht⟩ := exec_aperture_register (o := o) v fw hm (by omega) hopen
    exact ⟨t, he, hb, hq, hf, by rw [ht]; exact (mgWrite_root _ _ _ _ h1 h2).trans (if_neg (by omega))⟩
  · obtain ⟨t, he, hb, hq, hf, ht⟩ := exec_aperture_register (o := o) v fw hm (by omega) hopen
    exact ⟨t, he, hb, hq, hf, by rw [ht]; exact mgWrite_bucket _ _ _ _ h1 ho⟩
  · exact ⟨_, congrArg Host.Outcome.next ((aperture_write v fw hopen).trans (by rw [if_pos hm])), pass_setMod_frame s _ _ m _ rfl⟩
  · exact ⟨_, rfl, aperture_read fw ho hopen⟩
  · show Host.Outcome.next (s.aperture p m o a fw) = _
    simp [State.aperture, ha]

end Sys2Proof.Proofs
end

section
/-! PROOFS. The far windows of the host (R354). -/
namespace Sys2Proof.Proofs
open Sys2Proof Sys2Proof.Machine Sys2Proof.Laws

/-! ## Far memory -/

/-- A walk at a module changes nothing but its TLB. -/
theorem after_frame (x : Machine.Module) (c : FarCtx) (off : Nat) (how : Walk) : { x.after c off how with tlb := x.tlb } = x := by
  unfold Module.after Module.fill
  split
  · rfl
  · split <;> rfl

/-- The bytes of an access inside one unit lie in one unit. -/
theorem unitsOf_inside {a n : Nat} (hn : n ≠ 0) (h : a % 65536 + n ≤ 65536) : unitsOf ((List.range n).map (fun i => a + i)) = [a / 65536] := by
  have hu : ((List.range n).map (fun i => a + i)).map (fun a => a / 65536) = List.replicate n (a / 65536) := by
    refine List.eq_replicate_iff.2 ⟨by simp, fun u hu => ?_⟩
    simp only [List.map_map, List.mem_map, List.mem_range, Function.comp] at hu
    obtain ⟨i, hi, rfl⟩ := hu
    omega
  obtain ⟨k, rfl⟩ : ∃ k, n = k + 1 := ⟨n - 1, by omega⟩
  rw [unitsOf, hu, List.replicate_succ, List.eraseDups_cons]
  simp

/-- The physical address of a byte in the unit of a verdict. -/
theorem physOf_inside {a i n pa : Nat} (h : a % 65536 + n ≤ 65536) (hi : i < n) : physOf [(a / 65536, .ok pa)] (a + i) = pa + a % 65536 + i := by
  have h1 : (a + i) / 65536 = a / 65536 := by omega
  have h2 : (a + i) % 65536 = a % 65536 + i := by omega
  simp [physOf, h1, h2, Map.find, Nat.add_assoc]

/-- A module with sampling off counts an access, and no byte changes. -/
theorem sample_off {s : State} {m tenant pa kind : Nat} (h : bits (s.mod m).hotctl 7 7 = 0) :
    ∃ c, s.sample m tenant pa kind = s.setMod m { s.mod m with accCount := c } := by
  unfold State.sample
  dsimp only
  rw [if_pos (.inl h)]
  exact ⟨_, rfl⟩

/-- The modules after bytes are written in one of them. -/
theorem mod_farWrite (s : State) (m pa : Nat) (b : List Byte) (q : Nat) :
    (s.farWrite m pa b).mod q =
      if q = m then { (s.mod m).put pa b with rels := endRels (s.mod m).rels pa b.length } else s.mod q := mod_setMod ..

/-- Bytes that are written one by one at rising addresses of a module are written there, and nothing else of its memory or of what
samples accesses changes. -/
theorem farWrites {m : Nat} {f : Nat → Nat} (b : List Byte) {s : State} {A : Nat} {g : Nat → Nat} (hf : ∀ i, i < b.length → f (g i) = A + i) :
    let t := (b.mapIdx (fun i y => (g i, y))).foldl (fun s e => s.farWrite m (f e.1) [e.2]) s
    (t.mod m).mem = (s.mod m).mem.writeN A b ∧ (t.mod m).hotctl = (s.mod m).hotctl ∧ (∀ q, q ≠ m → t.mod q = s.mod q) ∧
      { t with mods := s.mods } = s := by
  induction b generalizing s A g with
  | nil => exact ⟨rfl, rfl, fun _ _ => rfl, rfl⟩
  | cons v b ih =>
    have hhead : f (g 0) = A := hf 0 (by simp)
    have htail : ∀ i, i < b.length → f (g (i + 1)) = A + 1 + i := fun i hi => (hf (i + 1) (by simpa using hi)).trans (by omega)
    obtain ⟨hmem, hhot, hmod, hrest⟩ := ih (s := s.farWrite m (f (g 0)) [v]) (g := fun i => g (i + 1)) htail
    rw [List.mapIdx_cons, List.foldl_cons]
    exact ⟨hmem.trans (by rw [mod_farWrite, if_pos rfl, hhead]; rfl), hhot.trans (by rw [mod_farWrite, if_pos rfl]; rfl),
      fun q hq => (hmod q hq).trans (by rw [mod_farWrite, if_neg hq]), congrArg (fun t : State => { t with mods := s.mods }) hrest⟩

/-- A channel that reaches a module has planes. -/
theorem planes_of_reaches {s : State} {p part m : Nat} (hp : part ≠ mgmt) (h : s.reaches p part m = true) : (s.planes p part m).isEmpty = false := by
  unfold State.reaches State.live at h
  simp only [if_neg hp, Bool.and_eq_true, Bool.not_eq_true', List.isEmpty_eq_false_iff] at h ⊢
  intro he
  exact h.1.2 (by rw [he, List.filter_nil])

/-! ## Accesses of a far window -/

/-- The bytes that an access of the host is for. -/
def accessLen : HostAccess → Nat
  | .read n => n
  | .write b => b.length

/-- The permission that an access of the host needs. -/
def accessNeed : HostAccess → Need
  | .read _ => .read
  | .write _ => .write

section
variable {s : State} {p k o : Nat} {x : HostAccess} {w : Walk}

/-- A state whose far window translates an address: the module has walked its tables. -/
def walked (s : State) (m : Nat) (c : FarCtx) (a : Nat) (w : Walk) : State :=
  s.setMod m ((s.mod m).after c (a / 65536 * 65536 % 2 ^ 50) w)

/-- The far address of an offset of a window. -/
def farOf (e o : Nat) : Nat := bits e 37 32 * 2 ^ 50 + bits e 17 0 * 2 ^ 32 + o

/-- The context of a window's accesses. -/
def windowCtx (e p tenant : Nat) : FarCtx :=
  { port := p, part := bits e 42 38, pasid := bits e 62 43, tenant := tenant, secure := false }

/-- What an access of a window comes to by the verdicts on its units. -/
def judgedAccess (p m : Nat) (c : FarCtx) (a : Nat) (x : HostAccess) (r : State × Map Verdict) : Out :=
  match judged r.2 with
  | .ok => .next (r.1.farWindow m c r.2 a x)
  | _ => .next (r.1.farRefused p x)

/-- An access through a valid window, inside one unit that its context may access, is performed at the module. -/
theorem exec_hostFar_ok {e m tenant pa : Nat} (he : e = (Map.get (s.pkg p).farwin k 0).toNat) (hv : bits e 63 63 = 1)
    (hm : (s.part p (bits e 42 38)).module (bits e 37 32) = some (m, tenant)) (hr : s.reaches p (bits e 42 38) m = true)
    (hn : accessLen x ≠ 0) (ho : o + accessLen x ≤ 2 ^ 32) (hu : farOf e o % 65536 + accessLen x ≤ 65536)
    (hj : (s.mod m).judge (windowCtx e p tenant) (farOf e o / 65536 * 65536 % 2 ^ 50) (accessNeed x) w = .ok pa) :
    exec (.hostFarAccess p k o x w) s =
      .next ((walked s m (windowCtx e p tenant) (farOf e o) w).farWindow m (windowCtx e p tenant) [(farOf e o / 65536, .ok pa)] (farOf e o) x) := by
  have hpart : bits e 42 38 ≠ mgmt := Nat.ne_of_lt (Nat.mod_lt _ (by decide))
  have hverdicts : s.verdicts m (windowCtx e p tenant) (accessNeed x) w (unitsOf ((List.range (accessLen x)).map (fun i => farOf e o + i))) =
      (walked s m (windowCtx e p tenant) (farOf e o) w, [(farOf e o / 65536, .ok pa)]) := by
    rw [unitsOf_inside hn hu, ← hj]
    rfl
  have hplanes : ¬ (s.planes p (bits e 42 38) m).isEmpty = true := by simp [planes_of_reaches hpart hr]
  have hreach : ¬ (!s.reaches p (bits e 42 38) m) = true := by simp [hr]
  subst he
  show execHostFarAccess p k o x w s = _
  cases x with
  | read n | write b =>
    refine (if_neg (not_or.2 ⟨hn, Nat.not_lt.2 ho⟩)).trans ?_
    rw [if_pos hv, hm]
    refine (if_neg hplanes).trans ((if_neg hreach).trans ?_)
    exact congrArg (judgedAccess p m (windowCtx _ p tenant) (farOf _ o) _) hverdicts

/-- An access through an invalid window is refused. -/
theorem exec_hostFar_invalid {n : Nat} (hv : bits (Map.get (s.pkg p).farwin k 0).toNat 63 63 = 0) (hn : n ≠ 0) (ho : o + n ≤ 2 ^ 32) :
    exec (.hostFarAccess p k o (.read n) w) s = .next (s.farRefused p (.read n)) := by
  show execHostFarAccess p k o (.read n) w s = _
  refine (if_neg (not_or.2 ⟨hn, Nat.not_lt.2 ho⟩)).trans ?_
  rw [if_neg (by rw [hv]; decide)]

end

/-- A walk leaves the memory of the module and its sampling as they are, and everything else. -/
theorem walked_frame (s : State) (m : Nat) (c : FarCtx) (a : Nat) (w : Walk) :
    ((walked s m c a w).mod m).mem = (s.mod m).mem ∧ ((walked s m c a w).mod m).hotctl = (s.mod m).hotctl ∧
    s.sameBytes (walked s m c a w) := by
  have hf := after_frame (s.mod m) c (a / 65536 * 65536 % 2 ^ 50) w
  have hmem : ((s.mod m).after c (a / 65536 * 65536 % 2 ^ 50) w).mem = (s.mod m).mem := by simpa using congrArg Module.mem hf
  have hhot : ((s.mod m).after c (a / 65536 * 65536 % 2 ^ 50) w).hotctl = (s.mod m).hotctl := by simpa using congrArg Module.hotctl hf
  have hmod : (walked s m c a w).mod m = (s.mod m).after c (a / 65536 * 65536 % 2 ^ 50) w := (mod_setMod ..).trans (if_pos rfl)
  rw [hmod]
  exact ⟨hmem, hhot, sameBytes_setMod s m _ hmem⟩

/-- What a write through a window writes: its bytes from the physical address on, and nothing else. -/
theorem farWindow_write {s : State} {m a pa : Nat} {c : FarCtx} {b : List Byte} (hm : (s.mod m).mem.wf = true)
    (hh : bits (s.mod m).hotctl 7 7 = 0) (hu : a % 65536 + b.length ≤ 65536) (z : Place) :
    (s.farWindow m c [(a / 65536, .ok pa)] a (.write b)).byte z =
      match z with
      | .far q x => if q = m ∧ pa + a % 65536 ≤ x ∧ x < pa + a % 65536 + b.length then b.getD (x - (pa + a % 65536)) 0 else s.byte z
      | _ => s.byte z := by
  have hw := farWrites (m := m) (f := fun i => physOf [(a / 65536, .ok pa)] (a + i)) b
    (s := s) (A := pa + a % 65536) (g := fun i => i) (fun i hi => physOf_inside hu hi)
  dsimp only at hw
  generalize ht : (b.mapIdx (fun i y => (i, y))).foldl (fun s e => s.farWrite m (physOf [(a / 65536, .ok pa)] (a + e.1)) [e.2]) s = t at hw
  obtain ⟨hmem, hhot, hmod, hrest⟩ := hw
  obtain ⟨n, hn⟩ := sample_off (s := t) (m := m) (tenant := c.tenant) (pa := physOf [(a / 65536, .ok pa)] a) (kind := 1) (by rw [hhot]; exact hh)
  have hwin : s.farWindow m c [(a / 65536, .ok pa)] a (.write b) = t.sample m c.tenant (physOf [(a / 65536, .ok pa)] a) 1 := by
    rw [← ht]
    rfl
  rw [hwin, hn, sameBytes_setMod t m { t.mod m with accCount := n } rfl z]
  cases z with
  | host x | near q x | scratch q x | tile q x | acc q x =>
    rw [← hrest]
    rfl
  | far q x =>
    show (t.mod q).mem.read x = if _ then _ else (s.mod q).mem.read x
    by_cases hq : q = m
    · subst hq
      rw [hmem, read_writeN hm]
      simp only [true_and]
    · rw [hmod q hq, if_neg (fun h => hq h.1)]

/-- What a read through a window gives: the bytes from the physical address on; no byte changes. -/
theorem farWindow_read {s : State} {m a pa n : Nat} {c : FarCtx} (hh : bits (s.mod m).hotctl 7 7 = 0) (hu : a % 65536 + n ≤ 65536) :
    let t := s.farWindow m c [(a / 65536, .ok pa)] a (.read n)
    s.sameBytes t ∧ t.hostRead = (List.range n).map (fun i => (s.mod m).mem.read (pa + (a + i) % 65536)) := by
  obtain ⟨k, hk⟩ := sample_off (tenant := c.tenant) (pa := physOf [(a / 65536, .ok pa)] a) (kind := 0) hh
  refine ⟨fun z => ?_, List.map_congr_left fun i hi => ?_⟩
  · have hz : (s.farWindow m c [(a / 65536, .ok pa)] a (.read n)).byte z = (s.sample m c.tenant (physOf [(a / 65536, .ok pa)] a) 0).byte z := by
      cases z <;> rfl
    rw [hz, hk]
    exact sameBytes_setMod s m { s.mod m with accCount := k } rfl z
  · have hi' : i < n := List.mem_range.1 hi
    have : (a + i) % 65536 = a % 65536 + i := by omega
    rw [physOf_inside hu hi', this, Nat.add_assoc]

/-- Far windows: a write or a read through a valid one inside a unit, and a read through an invalid one (R354). -/
theorem hostFar : Claims.HostFar := by
  intro s p k o n b w hs
  refine ⟨fun m tenant pa hv hm hr hh => ?_, fun hv hn ho => ?_⟩
  · let e := (Map.get (s.pkg p).farwin k 0).toNat
    obtain ⟨hmem, hhot, hsame⟩ := walked_frame s m (windowCtx e p tenant) (farOf e o) w
    have hwf : (s.mod m).mem.wf = true := by
      obtain ⟨hwf, -⟩ := Bool.and_eq_true_iff.1 (sound_mod hs m)
      exact hwf
    refine ⟨fun hb ho hu hj => ?_, fun hn ho hu hj => ?_⟩
    · refine ⟨_, exec_hostFar_ok rfl hv hm hr (by simpa [accessLen] using hb) ho hu hj, fun z => ?_⟩
      have hw := farWindow_write (a := farOf e o) (pa := pa) (c := windowCtx e p tenant) (hmem ▸ hwf) (hhot ▸ hh) hu z
      rw [hsame] at hw
      exact hw.trans (by cases z <;> rfl)
    · obtain ⟨hbytes, hread⟩ := farWindow_read (s := walked s m (windowCtx e p tenant) (farOf e o) w) (m := m) (a := farOf e o)
        (pa := pa) (c := windowCtx e p tenant) (hhot ▸ hh) hu
      refine ⟨_, exec_hostFar_ok rfl hv hm hr hn ho hu hj, sameBytes_trans hsame hbytes, ?_⟩
      rw [hread, hmem]
      rfl
  · refine ⟨_, exec_hostFar_invalid hv hn ho, ?_, rfl, ?_⟩
    · exact sameBytes_trans (sameBytes_setPkg s p ((s.pkg p).count cntFarWindow) rfl) (sameBytes_hostRead _ _ _)
    · show Map.get ((s.setPkg p ((s.pkg p).count cntFarWindow)).pkg p).counts cntFarWindow 0 = _
      simp [Pkg.count]

/-- Settles O47: one access of the host or of firmware at a time. -/
theorem hostAndFirmware : Obligations.HostAndFirmware := ⟨hostNear, hostFar, apertures, bar0, tableWrites⟩

end Sys2Proof.Proofs
end
